-- ==== Sys2Proof/Word.lean ====
section
/-!
DEFINITION. The byte, and the two small fixed collections the part is built of:
four doors or handles or window entries (`Quad`), three telegram ports (`Tri`).
-/

namespace Sys2Proof

/-- One byte of a telegram, of the profile memory or of a radio frame (R184). -/
abbrev Byte := BitVec 8

/-- Four like things, numbered from 1 as the spec numbers doors and handles. -/
structure Quad (α : Type) where
  d1 : α
  d2 : α
  d3 : α
  d4 : α
  deriving DecidableEq, Repr

/-- The same value four times. -/
def Quad.all {α : Type} (x : α) : Quad α := ⟨x, x, x, x⟩

/-- Every entry changed by one function. -/
def Quad.map {α β : Type} (f : α → β) (q : Quad α) : Quad β := ⟨f q.d1, f q.d2, f q.d3, f q.d4⟩

/-- The four entries in order. -/
def Quad.toList {α : Type} (q : Quad α) : List α := [q.d1, q.d2, q.d3, q.d4]

/-- One thing for each of the ports A, B and C. -/
structure Tri (α : Type) where
  a : α
  b : α
  c : α
  deriving DecidableEq, Repr

/-- Every port's entry changed by one function. -/
def Tri.map {α β : Type} (f : α → β) (t : Tri α) : Tri β := ⟨f t.a, f t.b, f t.c⟩

end Sys2Proof
end

