-- ==== Sys2Proof/Syntax.lean ====
section
/-!
DEFINITION. The commands the part takes: one constructor for each row of spec/opcode_table.json.
A request carries its port and the bytes of its body after the command code; an event carries
what arrives with it. Meanings stand in Machine/.
-/

namespace Sys2Proof

/-- The three telegram ports (R171). -/
inductive Port where
  | a | b | c
  deriving DecidableEq, Repr

/-- The two trainline ports, whose links are supervised (R13). -/
inductive LinkPort where
  | a | b
  deriving DecidableEq, Repr

/-- The two tachometers; also the source in use (R17, R18). -/
inductive Tacho where
  | pinion | axle
  deriving DecidableEq, Repr

/-- The four doors (R130). -/
inductive DoorId where
  | d1 | d2 | d3 | d4
  deriving DecidableEq, Repr

/-- The four passenger alarm handles (R103). -/
inductive HandleId where
  | h1 | h2 | h3 | h4
  deriving DecidableEq, Repr

/-- The six inputs of a door, in the order of the Formats chapter (R130). -/
structure DoorInputs where
  openLimit : Bool
  closed : Bool
  locked : Bool
  obstacle : Bool
  button : Bool
  isolation : Bool
  deriving DecidableEq, Repr

/-- The levels of the inputs that a reset reads (R93, R130): the door inputs and the handles,
`true` for present, on or pulled. -/
structure CarInputs where
  doors : Quad DoorInputs
  handles : Quad Bool
  deriving DecidableEq, Repr

/-- The header of a radio frame but for its kind, which the command names (R151). -/
structure FrameHeader where
  lineId : Byte
  station : Byte
  zone : Byte
  serial : BitVec 16
  train : BitVec 16
  deriving DecidableEq, Repr

/-- A frame as it is delivered: all its bytes, and whether its reception began before the last reset (R150,
notes/assumptions/17.md). The other frame commands stand for frames received wholly since. -/
structure Delivery where
  bytes : List Byte
  straddles : Bool
  deriving DecidableEq, Repr

/-- One command: a row of spec/opcode_table.json with its operands.

A request `(p, args)` stands for the completion on port `p` of a valid telegram whose body is the
command's code followed by `args` (R172, R174); `args` may have any length, since the length is
itself judged. A frame `(h, body)` stands for the delivery of a frame of good CRC with that header,
the kind the command names, and that body (R151). -/
inductive Instr where
  /-- Power-on, or the reset pin, with the inputs as they then stand. -/
  | powerOn (inputs : CarInputs)
  | readStatus (p : Port) (args : List Byte)
  | readTable (p : Port) (args : List Byte)
  | readEvents (p : Port) (args : List Byte)
  | clearEvents (p : Port) (args : List Byte)
  | setMask (p : Port) (args : List Byte)
  | clearMask (p : Port) (args : List Byte)
  | takeAuthority (p : Port) (args : List Byte)
  | releaseAuthority (p : Port) (args : List Byte)
  | setDirection (p : Port) (args : List Byte)
  | setComposition (p : Port) (args : List Byte)
  | setPosition (p : Port) (args : List Byte)
  | selectMode (p : Port) (args : List Byte)
  | restart (p : Port) (args : List Byte)
  | brakeDemand (p : Port) (args : List Byte)
  | emergency (p : Port) (args : List Byte)
  | emergencyWithdraw (p : Port) (args : List Byte)
  | emergencyReset (p : Port) (args : List Byte)
  | brakeTestStart (p : Port) (args : List Byte)
  | brakeTestAbort (p : Port) (args : List Byte)
  | doorRelease (p : Port) (args : List Byte)
  | doorClose (p : Port) (args : List Byte)
  | doorRetry (p : Port) (args : List Byte)
  | alarmConfirm (p : Port) (args : List Byte)
  | alarmOverride (p : Port) (args : List Byte)
  | restrictionAdd (p : Port) (args : List Byte)
  | restrictionLift (p : Port) (args : List Byte)
  | permitEnter (p : Port) (args : List Byte)
  | permitClear (p : Port) (args : List Byte)
  | radioStopOverride (p : Port) (args : List Byte)
  | inboxTake (p : Port) (args : List Byte)
  | counterDecrement (p : Port) (args : List Byte)
  | profileWrite (p : Port) (args : List Byte)
  | parameterWrite (p : Port) (args : List Byte)
  | profileCommit (p : Port) (args : List Byte)
  /-- A valid telegram whose body is `code :: args`, `code` none of the part's. -/
  | unknownCommand (p : Port) (code : Byte) (args : List Byte)
  /-- A telegram completes with a bad CRC. -/
  | telegramCrcError (p : Port)
  /-- A telegram's length byte is 0 or above 250. -/
  | framingError (p : Port)
  /-- More than 2 ms pass without a byte in the middle of a telegram. -/
  | gapTimeExpiry (p : Port)
  /-- The last byte of the answer has been sent. -/
  | answerSent (p : Port)
  /-- The silence timer of a trainline port reaches 500 ms. -/
  | linkSilenceExpiry (l : LinkPort)
  /-- A pulse, in the rotation toward the car's forward end or away from it. -/
  | tachometerPulse (t : Tacho) (forward : Bool)
  | samplingExpiry
  | standstillBegin
  | pinionFault
  | trackMarkDetection
  | supervisionCycle
  | periodStart
  /-- A sensor value in kPa. -/
  | servicePressureReading (kPa : Nat)
  /-- A sensor value in kPa. -/
  | releasePressureReading (kPa : Nat)
  | serviceCheckTimerExpiry
  | releaseCheckTimerExpiry
  | applyCheckTimerExpiry
  | brakeTestStepTimerExpiry
  | doorTimerExpiry (d : DoorId)
  /-- The locked input of a door is found present or absent. -/
  | doorLockedInput (d : DoorId) (present : Bool)
  | doorClosedInput (d : DoorId) (present : Bool)
  | doorOpenLimitInput (d : DoorId) (present : Bool)
  | doorObstacleInput (d : DoorId) (present : Bool)
  /-- A passenger button is pressed or let go. -/
  | passengerButton (d : DoorId) (pressed : Bool)
  /-- An isolation switch is turned on or off. -/
  | isolationSwitch (d : DoorId) (on : Bool)
  /-- A handle is pulled or put back. -/
  | handleChange (h : HandleId) (pulled : Bool)
  /-- A frame is delivered, given by all its bytes. -/
  | discardedFrame (x : Delivery)
  | beacon (h : FrameHeader) (body : List Byte)
  | restrictionSet (h : FrameHeader) (body : List Byte)
  | restrictionLiftBulletin (h : FrameHeader) (body : List Byte)
  | permitGrant (h : FrameHeader) (body : List Byte)
  | permitRevoke (h : FrameHeader) (body : List Byte)
  | stopOrder (h : FrameHeader) (body : List Byte)
  | stopRelease (h : FrameHeader) (body : List Byte)
  | text (h : FrameHeader) (body : List Byte)
  | transmissionEnd
  | windowTimerExpiry
  | silenceTimerTick
  | reportTimerExpiry
  /-- The loader's status read returns the memory's status byte. -/
  | loaderStatusAnswer (status : Byte)
  | loaderBusyTimeout
  /-- The header read ends with these bytes. -/
  | headerReadEnd (bytes : List Byte)
  | parameterBlockReadEnd (bytes : List Byte)
  | segmentBlockReadEnd (bytes : List Byte)
  /-- The commit's status read returns the memory's status byte. -/
  | commitStatusAnswer (status : Byte)
  | pageTimerExpiry
  /-- One byte arrives on a port. -/
  | telegramByteArrival (p : Port) (byte : Byte)
  | commitTransferEnd
  deriving DecidableEq, Repr

end Sys2Proof
end

