-- ==== Sys2Proof/Decode.lean ====
section
/-!
DEFINITION. The reading of a table word. No row of spec/opcode_table.json gives a command any bits
(the part has no register window and no instruction word), so no word spells a command.
-/

namespace Sys2Proof

/-- The command that a word of `nbits` bits spells by the table's bits: none, for every word, since
the table gives no row any bits. -/
def decodeTableWord (_nbits _w : Nat) : Option Instr := none

end Sys2Proof
end

