-- ==== Sys2Proof/Config.lean ====
section
/-!
DEFINITION. What is fixed in the part and is no parameter of the car: bounds, periods and
limits, each with its rule; and the one free value of the model.
-/

namespace Sys2Proof.Config

/-- The greatest line position, in dm (R17). -/
def lineEnd : Nat := 200000

/-- The greatest speed, in cm/s (R22). -/
def maxSpeed : Nat := 1200

/-- The least uncertainty of a position that is not UNKNOWN, in dm (R25). -/
def leastUncertainty : Nat := 20

/-- The greatest uncertainty, in dm (R24). -/
def greatestUncertainty : Nat := 600

/-- The greatest uncertainty accumulator, in thousandths of a dm (R17). -/
def greatestAccumulator : Nat := 580000

/-- The sampling period of the Odometry Unit, in ms (R19). -/
def samplingPeriod : Nat := 50

/-- The supervision cycle, in ms (R74). -/
def cyclePeriod : Nat := 50

/-- The qualifying time of standstill, in ms (R23). -/
def standstillTime : Nat := 1000

/-- The pinion fault time, in ms (R31). -/
def pinionFaultTime : Nat := 2000

/-- The silence after which a link is LOST, in ms (R13). -/
def linkSilence : Nat := 500

/-- The PWM period of the service valve, in ms (R115). -/
def pwmPeriod : Nat := 20

/-- The limit of a release check, in ms (R119). -/
def releaseLimit : Nat := 3000

/-- The limit of an apply check, in ms (R120). -/
def applyLimit : Nat := 1000

/-- A release pressure above this shows the spring brake RELEASED, in kPa (R118). -/
def releasedAbove : Nat := 2500

/-- A release pressure below this shows the spring brake APPLIED, in kPa (R118). -/
def appliedBelow : Nat := 800

/-- The limit of UNLOCKING and of LOCKING, in ms (R133). -/
def lockLimit : Nat := 800

/-- The Speed Supervisor's target window, in dm (R83). -/
def targetWindow : Nat := 6000

/-- The gravity component of the steepest adhesion descent, in mm/s² (R86). -/
def steepestAdhesion : Nat := 781

/-- The most entries of the restriction list (R56). -/
def restrictionSlots : Nat := 16

/-- The most segments of the segment table (R36). -/
def segmentSlots : Nat := 384

/-- The slots of the text inbox (R162). -/
def inboxSlots : Nat := 8

/-- The most entries of the ack queue (R165). -/
def ackSlots : Nat := 8

/-- The most entries of the recent bulletin list (R160). -/
def recentSlots : Nat := 32

/-- The uplink window, in ms (R167). -/
def uplinkWindow : Nat := 500

/-- The time the profile memory may stay busy, in ms (R41, R52). -/
def memoryBusyLimit : Nat := 25

/-- The time within which a byte of a telegram follows the one before it, in ms (R172). -/
def gapLimit : Nat := 2

/-- A radio counter that rises to this raises COUNTER_ALERT (R153). -/
def counterAlert : Nat := 32768

/-- The greatest value of a 16-bit counter (R153, R171). -/
def counterMax : Nat := 65535

/-- FREE VALUE. Byte `i` of a field of `width` bytes whose value `v` the width cannot hold: the spec
gives the field a width and no rule for such a value, so nothing is known of these bytes
(notes/assumptions/1.md). -/
opaque wideByte (width : Nat) (v : Int) (i : Nat) : Byte

end Sys2Proof.Config
end

