-- ==== Sys2Proof/Machine/State.lean ====
section
/-!
DEFINITION. The state of the part as plain data: one record for each of its ten blocks, the record
of what it has programmed into the profile memory, the queue of waiting commands, and the state
after power-on. Fields that the spec's state tables do not name are marked MODEL.
-/

namespace Sys2Proof.Machine

/-! ### Mode and Authority Unit (R1 to R16) -/

/-- The car mode (R1). -/
inductive CarMode where
  | loading | shunt | line
  deriving DecidableEq, Repr

/-- The authority holder (R5). -/
inductive Holder where
  | none | portA | portB
  deriving DecidableEq, Repr

/-- The selected direction, and the motion direction (R10, R17). -/
inductive Direction where
  | none | upLine | downLine
  deriving DecidableEq, Repr

/-- Which side of the line SIDE_1 faces (R11, R131). -/
inductive Orientation where
  | normal | reversed
  deriving DecidableEq, Repr

/-- Whether this car speaks for its train (R11). -/
inductive RadioRole where
  | transmit | listen
  deriving DecidableEq, Repr

/-- The composition record (R11); lengths in dm. -/
structure Composition where
  train : Nat
  length : Nat
  offset : Nat
  orientation : Orientation
  role : RadioRole
  deriving DecidableEq, Repr

/-- The state of a trainline link (R13). -/
inductive LinkState where
  | absent | up | lost
  deriving DecidableEq, Repr

/-- A trainline link with its silence timer in ms, `none` while stopped (R13). -/
structure Link where
  state : LinkState
  timer : Option Nat
  deriving DecidableEq, Repr

/-- The state of the Mode and Authority Unit. -/
structure ModeUnit where
  mode : CarMode
  holder : Holder
  direction : Direction
  composition : Option Composition
  linkA : Link
  linkB : Link
  deriving DecidableEq, Repr

/-! ### Odometry Unit (R17 to R34) -/

/-- How far the car position may be trusted (R24). -/
inductive PosState where
  | unknown | known | lost
  deriving DecidableEq, Repr

/-- The position notices (R34). -/
inductive Notice where
  | none | knownByCommand | markMatched | markUnexpected | markAmbiguous | markIgnored | markMissed
  | lostByUncertainty | lostByMarks | lostAtLineEnd | standstillBegin | standstillEnd | rollback
  | pinionFault | tachoDisagree
  deriving DecidableEq, Repr

/-- The state of the Odometry Unit (R17), the ODOMETRY row excepted, which stands in the demand rows.
Positions and distances in dm, interval distances in mm, speeds in cm/s, times in ms. -/
structure Odometry where
  position : Nat
  remainder : Nat
  posState : PosState
  uncertainty : Nat
  accumulator : Nat
  sinceCorrection : Nat
  source : Tacho
  /-- the last four interval distances, the oldest first -/
  pinionWindow : Quad Int
  axleWindow : Quad Int
  pinionCount : Int
  axleCount : Int
  /-- MODEL: whether any pinion pulse was counted in the current interval (R23, R31) -/
  pinionSeen : Bool
  /-- MODEL: whether any axle pulse was counted in the current interval (R23) -/
  axleSeen : Bool
  applied : Int
  speed : Nat
  axleSpeed : Nat
  motion : Direction
  standstill : Bool
  quietTime : Nat
  quietRunning : Bool
  reverse : Nat
  reverseCarry : Nat
  unexpectedMarks : Nat
  awaited : Option Nat
  rollback : Bool
  pinionFault : Bool
  pinionFaultTime : Nat
  crossPinion : Nat
  crossAxle : Nat
  notice : Notice
  samplingTimer : Nat
  deriving DecidableEq, Repr

/-! ### Profile Store (R35 to R54) -/

/-- Whether the rack pinion engages (R36). -/
inductive SegKind where
  | rack | adhesion
  deriving DecidableEq, Repr

/-- A platform's side (R36). -/
inductive PlatformSide where
  | left | right | both
  deriving DecidableEq, Repr

/-- A platform: its side and its from-offset and to-offset in dm (R36). -/
structure Platform where
  side : PlatformSide
  fromOffset : Nat
  toOffset : Nat
  deriving DecidableEq, Repr

/-- A segment record (R36). -/
structure Segment where
  start : Nat
  length : Nat
  gradient : Int
  kind : SegKind
  lineLimit : Nat
  zone : Nat
  dark : Bool
  noStop : Bool
  platform : Option Platform
  mark : Option Nat
  deriving DecidableEq, Repr

/-- The two sides of the car (R131). -/
inductive CarSide where
  | side1 | side2
  deriving DecidableEq, Repr

/-- An entry of the door map (R38). -/
structure DoorMapEntry where
  side : CarSide
  offset : Int
  enabled : Bool
  deriving DecidableEq, Repr

/-- The car parameter record (R38), in the order of its table. -/
structure Params where
  toothPitch : Nat
  axlePulses : Nat
  wheelCircumference : Nat
  odoErrorRack : Nat
  odoErrorAdhesion : Nat
  aRack : Nat
  aRackDeg : Nat
  aAdh : Nat
  aAdhDeg : Nat
  tB : Nat
  mSb : Nat
  mEb : Nat
  vMax : Nat
  shuntLimit : Nat
  radioLossLimit : Nat
  cabPermitLimit : Nat
  creepLimit : Nat
  /-- the gradient limits at g_eff −300, −200, …, +300 -/
  glc : List Nat
  pLo : Nat
  pHi : Nat
  /-- the valve curve's four points: pressure, duty -/
  valve : Quad (Nat × Nat)
  tResp : Nat
  doorMoveTime : Nat
  doorWarningTime : Nat
  obstacleLimit : Nat
  doorMap : Quad DoorMapEntry
  tSilence : Nat
  tLost : Nat
  reportInterval : Nat
  inboxLow : Nat
  deriving DecidableEq, Repr

/-- The defaults of R38. -/
def Params.default : Params where
  toothPitch := 100
  axlePulses := 60
  wheelCircumference := 2200
  odoErrorRack := 5
  odoErrorAdhesion := 20
  aRack := 3600
  aRackDeg := 3200
  aAdh := 1200
  aAdhDeg := 1100
  tB := 1500
  mSb := 30
  mEb := 80
  vMax := 694
  shuntLimit := 139
  radioLossLimit := 278
  cabPermitLimit := 278
  creepLimit := 83
  glc := [278, 333, 444, 556, 556, 500, 444]
  pLo := 300
  pHi := 4500
  valve := ⟨(0, 0), (500, 180), (2500, 520), (5000, 900)⟩
  tResp := 1200
  doorMoveTime := 4000
  doorWarningTime := 2000
  obstacleLimit := 3
  doorMap := ⟨⟨.side1, 60, true⟩, ⟨.side1, -60, true⟩, ⟨.side2, 60, true⟩, ⟨.side2, -60, true⟩⟩
  tSilence := 8
  tLost := 30
  reportInterval := 5
  inboxLow := 2

/-- The load phase (R35). -/
inductive LoadPhase where
  | header | parameters | segments | done
  deriving DecidableEq, Repr

/-- The load result (R45). -/
inductive LoadResult where
  | none | profileLoaded | paramsDefault | noSegments | noProfile
  deriving DecidableEq, Repr

/-- Where the parameters came from (R35). -/
inductive ParamSource where
  | memory | defaults
  deriving DecidableEq, Repr

/-- The block a load failure names (R46). -/
inductive LoadBlock where
  | header | parameters | segments
  deriving DecidableEq, Repr

/-- The reasons of a load failure, in the order of the Formats chapter. -/
inductive LoadReason where
  | memoryBusy | validMark | headerCrc | format | lineId | address | blockCrc | range | constraint
  | count | overflow | gradient | extent | contiguity | platform | markOffset
  deriving DecidableEq, Repr

/-- The constraints of R38, in their order. -/
inductive ConstraintName where
  | decelOrder | pressureOrder | valveOrder
  deriving DecidableEq, Repr

/-- What a load failure names beside its reason (R46). -/
inductive LoadDetail where
  | none
  | field (identifier index : Nat)
  | constraint (name : ConstraintName)
  | record (index : Nat)
  deriving DecidableEq, Repr

/-- The load failure (R46). -/
structure LoadFailure where
  block : LoadBlock
  reason : LoadReason
  detail : LoadDetail
  deriving DecidableEq, Repr

/-- The loader's operation in flight on the memory link (R41 to R43). -/
inductive LoaderOp where
  /-- MODEL: polling the memory's status, with the ms since the first status read was sent (R41) -/
  | poll (elapsed : Nat)
  /-- MODEL: the header read -/
  | headerRead
  /-- MODEL: the parameter block read -/
  | parameterRead
  /-- MODEL: the segment block read -/
  | segmentRead
  /-- MODEL: no operation, the load being done -/
  | idle
  deriving DecidableEq, Repr

/-- Where the commit stands within its page (R52); `timer` is the page timer in ms. -/
inductive PagePhase where
  /-- the write enable is being sent -/
  | writeEnable
  /-- the page program is being sent, the page timer running -/
  | program (timer : Nat)
  /-- a status read is outstanding, the page timer running -/
  | poll (timer : Nat)
  deriving DecidableEq, Repr

/-- The commit state: IDLE, or WRITING a page, numbered from 1 (R35, R52). -/
inductive CommitState where
  | idle
  | writing (page : Nat) (phase : PagePhase)
  deriving DecidableEq, Repr

/-- The last commit (R53). -/
inductive LastCommit where
  | none | committed
  | failed (page : Nat)
  deriving DecidableEq, Repr

/-- The state of the Profile Store (R35). -/
structure Store where
  segments : List Segment
  params : Params
  lineId : Nat
  revision : Nat
  phase : LoadPhase
  result : LoadResult
  paramSource : ParamSource
  failure : Option LoadFailure
  differs : Bool
  commit : CommitState
  pagesWritten : Nat
  pagesAll : Nat
  lastCommit : LastCommit
  /-- MODEL: the loader's operation in flight -/
  loader : LoaderOp
  /-- MODEL: the segment count of the header just read, for R43 -/
  headerCount : Nat
  /-- MODEL: the parameter block address of the header just read, for R42 -/
  headerParamAddr : Nat
  /-- MODEL: the segment block address of the header just read, for R43 -/
  headerSegAddr : Nat
  deriving DecidableEq, Repr

/-! ### Restriction and Permit Table (R55 to R73) -/

/-- The origin of a restriction or a permit (R56, R65). -/
inductive Origin where
  | radio | cab
  deriving DecidableEq, Repr

/-- Whether a restriction waits to leave the list (R56). -/
inductive EntryState where
  | active | lifting
  deriving DecidableEq, Repr

/-- The key that names a restriction (R56). -/
structure Key where
  origin : Origin
  station : Nat
  id : Nat
  deriving DecidableEq, Repr

/-- A restriction entry: its extent is from `start` up to `stop` (R56). -/
structure Restriction where
  key : Key
  start : Nat
  stop : Nat
  limit : Nat
  state : EntryState
  deriving DecidableEq, Repr

/-- The permit record (R65). -/
structure Permit where
  origin : Origin
  station : Nat
  serial : Nat
  endPos : Nat
  direction : Direction
  deriving DecidableEq, Repr

/-- An entry of the radio stop table (R55). -/
inductive StopKind where
  | none | serviceStop | emergencyStop
  deriving DecidableEq, Repr

/-- The state of the Restriction and Permit Table (R55), the RADIO row excepted. `stops` has one entry
for each station 1..31, in station order. -/
structure LimitTable where
  restrictions : List Restriction
  permit : Option Permit
  stops : List StopKind
  deriving DecidableEq, Repr

/-! ### Speed Supervisor (R74 to R92) -/

/-- The supervision level (R74). -/
inductive Level where
  | normal | warning | service | emergency
  deriving DecidableEq, Repr

/-- The component that gave the static limit now (R80). -/
inductive StaticReason where
  | segment | unprofiled | restriction | mode | radioLoss | creep | cabPermit
  deriving DecidableEq, Repr

/-- What a target is (R83); a SEGMENT holds its index, a RESTRICTION its key and state (R74). -/
inductive TargetKind where
  | segment (index : Nat)
  | tableEdge
  | restriction (key : Key) (state : EntryState)
  | permitEnd
  deriving DecidableEq, Repr

/-- A target entry (R74). -/
structure Target where
  kind : TargetKind
  point : Nat
  speed : Nat
  distance : Nat
  aNet : Nat
  dReact : Nat
  dEff : Nat
  vCurve : Nat
  deriving DecidableEq, Repr

/-- What governs the permitted speed (R88). -/
inductive Governing where
  | static
  | target (index : Nat)
  | noPermit
  deriving DecidableEq, Repr

/-- The state of the Speed Supervisor (R74), the SUPERVISION row excepted. -/
structure Supervisor where
  cycleTimer : Nat
  level : Level
  vPerm : Nat
  staticLimit : Nat
  staticReason : StaticReason
  targets : List Target
  governing : Governing
  deriving DecidableEq, Repr

/-! ### Brake Demand Table (R93 to R109) -/

/-- The strength of a braking demand (R94). -/
inductive Kind where
  | none | hold
  | service (level : Nat)
  | full | emergency
  deriving DecidableEq, Repr

/-- The ten demand rows, in their order (R95). -/
inductive Row where
  | cabA | cabB | panel | supervision | doors | radio | link | alarm | odometry | brakeCheck
  deriving DecidableEq, Repr

/-- A cab row or the PANEL row, held in two parts (R95). -/
structure CabRow where
  service : Kind
  emergency : Bool
  deriving DecidableEq, Repr

/-- The ten demand rows (R93). -/
structure Rows where
  cabA : CabRow
  cabB : CabRow
  panel : CabRow
  supervision : Kind
  doors : Kind
  radio : Kind
  link : Kind
  alarm : Kind
  odometry : Kind
  brakeCheck : Kind
  deriving DecidableEq, Repr

/-- The passenger alarm state (R93). -/
inductive AlarmState where
  | clear | active | deferred | confirmed | overridden
  deriving DecidableEq, Repr

/-- The state of the Brake Demand Table (R93); `handles` is `true` for pulled. -/
structure Demands where
  rows : Rows
  latch : Bool
  driven : Kind
  alarm : AlarmState
  handles : Quad Bool
  traction : Bool
  deriving DecidableEq, Repr

/-! ### Brake Drive Unit (R110 to R129) -/

/-- The release valve (R110). -/
inductive Valve where
  | energized | deEnergized
  deriving DecidableEq, Repr

/-- The spring brake status (R118). -/
inductive SpringStatus where
  | applied | releasing | released | applying
  deriving DecidableEq, Repr

/-- The outcome of the service check (R110). -/
inductive ServiceOutcome where
  | idle | running | met | missed
  deriving DecidableEq, Repr

/-- The service check with its target, its band (both bounds included) and its timer in ms (R116). -/
structure ServiceCheck where
  outcome : ServiceOutcome
  target : Nat
  bandLow : Nat
  bandHigh : Nat
  timer : Nat
  limit : Nat
  deriving DecidableEq, Repr

/-- The outcome of the spring check (R110). -/
inductive SpringOutcome where
  | idle | releaseRunning | applyRunning | met | missed
  deriving DecidableEq, Repr

/-- The spring check with its timer in ms (R119, R120). -/
structure SpringCheck where
  outcome : SpringOutcome
  timer : Nat
  limit : Nat
  deriving DecidableEq, Repr

/-- The brake fault state (R121). -/
inductive FaultState where
  | none | degraded | failed
  deriving DecidableEq, Repr

/-- What commands the brakes (R110). -/
inductive OutputSource where
  | mapping | test | abortHold
  deriving DecidableEq, Repr

/-- The causes of R125, in their order. -/
inductive AbortCause where
  | request | standstillLost | rowEmergency | composition
  deriving DecidableEq, Repr

/-- The brake test record (R110, R127); NOT_RUN carries whether its cause is COMPOSITION. -/
inductive TestRecord where
  | notRun (byComposition : Bool)
  | passed
  | failed (step : Nat)
  | aborted (cause : AbortCause)
  deriving DecidableEq, Repr

/-- The running step of the brake test, 1..5, with its step timer and limit in ms (R123). -/
structure TestStep where
  step : Nat
  timer : Nat
  limit : Nat
  deriving DecidableEq, Repr

/-- The state of the Brake Drive Unit (R110); pressures in kPa, duties in per mille. -/
structure BrakeDrive where
  level : Nat
  target : Nat
  duty : Nat
  activeDuty : Nat
  valve : Valve
  serviceReading : Option Nat
  releaseReading : Option Nat
  springStatus : SpringStatus
  serviceCheck : ServiceCheck
  springCheck : SpringCheck
  springStuck : Bool
  serviceSlow : Bool
  springFail : Bool
  faultState : FaultState
  source : OutputSource
  testStep : Option TestStep
  testRecord : TestRecord
  periodTimer : Nat
  deriving DecidableEq, Repr

/-! ### Door Controller (R130 to R149) -/

/-- The eleven door states (R132). -/
inductive DoorState where
  | closedLocked | unlocking | released | opening | opened | warning | closing | locking | obstructed
  | fault | isolated
  deriving DecidableEq, Repr

/-- The sides of the line (R131). -/
inductive LineSide where
  | left | right
  deriving DecidableEq, Repr

/-- The fault causes (R130). -/
inductive FaultCause where
  | unlockTime | openTime | closeTime | lockTime | atReset | atDeisolation
  deriving DecidableEq, Repr

/-- A door's record (R130). The door timer is `none` while stopped, else its elapsed ms and limit. -/
structure Door where
  state : DoorState
  lineSide : LineSide
  linePosition : Option Int
  cause : Option FaultCause
  obstacles : Nat
  openRequest : Bool
  lockLost : Bool
  inputs : DoorInputs
  timer : Option (Nat × Nat)
  /-- MODEL: the obstacle limit read at the last entry to CLOSING (R137) -/
  limitRead : Nat
  /-- MODEL: whether the open drive is on in OBSTRUCTED (R132) -/
  heldOpen : Bool
  deriving DecidableEq, Repr

/-- The state of the Door Controller (R130), the DOORS row excepted; `loopClosed` is the locked loop. -/
structure Doors where
  door : Quad Door
  leftReleased : Bool
  rightReleased : Bool
  loopClosed : Bool
  deriving DecidableEq, Repr

/-! ### Valley Radio Unit (R150 to R170) -/

/-- The twelve statistics counters, in their order (R153). -/
inductive Counter where
  | goodFrames | beacons | bulletins | duplicates | crcErrors | shortFrames | longFrames
  | longBadFrames | foreignFrames | notAddressed | inboxDrops | ackDrops
  deriving DecidableEq, Repr

/-- The values of the twelve counters (R153). -/
structure Counters where
  goodFrames : Nat
  beacons : Nat
  bulletins : Nat
  duplicates : Nat
  crcErrors : Nat
  shortFrames : Nat
  longFrames : Nat
  longBadFrames : Nat
  foreignFrames : Nat
  notAddressed : Nat
  inboxDrops : Nat
  ackDrops : Nat
  deriving DecidableEq, Repr

/-- The coverage state (R157). -/
inductive Coverage where
  | noZone | covered | silent | lost | dark
  deriving DecidableEq, Repr

/-- The result of a bulletin (R161), in the order of its codes. -/
inductive BulletinResult where
  | applied | refusedFull | refusedShorten | refusedDirection | refusedMode | refusedInvalid
  deriving DecidableEq, Repr

/-- An entry of the recent bulletin list or of the ack queue (R160, R165). -/
structure BulletinEntry where
  station : Nat
  serial : Nat
  result : BulletinResult
  deriving DecidableEq, Repr

/-- The priority of a text (R162). -/
inductive Priority where
  | normal | urgent
  deriving DecidableEq, Repr

/-- A stored text message (R162). -/
structure Message where
  station : Nat
  serial : Nat
  priority : Priority
  truncated : Bool
  text : List Byte
  arrival : Nat
  deriving DecidableEq, Repr

/-- The uplink window while OPEN: its timer in ms and the frames begun in it (R167). -/
structure Window where
  timer : Nat
  framesBegun : Nat
  deriving DecidableEq, Repr

/-- What a transmission sends: an acknowledgement with its entry, or the position report (R168). -/
inductive TxKind where
  /-- `queued`: MODEL, whether the queue has not been emptied since the frame was begun -/
  | ack (entry : BulletinEntry) (queued : Bool)
  | report
  deriving DecidableEq, Repr

/-- A transmission in progress with the frame handed to the modem (R168). -/
structure Transmission where
  kind : TxKind
  frame : List Byte
  deriving DecidableEq, Repr

/-- The state of the Valley Radio Unit (R150). `inbox` holds the stored messages in order of arrival;
the silence timer counts seconds and its tick is in ms; the report timer is its elapsed ms and its
interval in s, `none` while stopped. -/
structure Radio where
  counters : Counters
  zone : Nat
  /-- the DARK condition (R155) -/
  dark : Bool
  coverage : Coverage
  silenceCount : Nat
  silenceRunning : Bool
  silenceTick : Nat
  recent : List BulletinEntry
  lastApplied : Option (Nat × Nat)
  inbox : List Message
  freeCount : Nat
  arrivalCount : Nat
  acks : List BulletinEntry
  reportTimer : Option (Nat × Nat)
  reportDue : Bool
  window : Option Window
  transmission : Option Transmission
  deriving DecidableEq, Repr

/-! ### Telegram ports (R171 to R183) -/

/-- The eighteen event kinds, in their order (R180). -/
inductive Event where
  | mode | authority | link | emergency | supervision | brakeState | brakeTest | doors | doorFault
  | restrictions | permit | radio | inbox | inboxLow | counterAlert | position | profile | alarm
  deriving DecidableEq, Repr

/-- A set of event kinds: bit `i` is the `i`-th kind of R180 (R184). -/
abbrev EventSet := BitVec 18

/-- The receive state: the bytes received so far after the start byte, and the ms since the last (R171). -/
inductive RxState where
  | awaiting
  | receiving (bytes : List Byte) (gap : Nat)
  deriving DecidableEq, Repr

/-- The statuses, in the order of their codes (Formats). -/
inductive Status where
  | ok | accepted | loading | unknownCommand | badArgument | notAuthority | notPermitted
  | notStandstill | wrongMode | busy | full | noPlatform | notFound | condition
  deriving DecidableEq, Repr

/-- The condition codes, in the order of their codes from 01 (Formats). -/
inductive Condition where
  | profileNotLoaded | positionNotKnown | noComposition | brakeTestNotPassed | brakeFault | noLineId
  | noDirection | radioPermitPresent | coverageNotLost | rowEmergency | springNotApplied | noAlarm
  | latchSet | noTest | doorNotHeld
  deriving DecidableEq, Repr

/-- An answer as R185 builds it, less the command code: status, condition code where the status is
CONDITION, and payload. -/
structure Reply where
  status : Status
  condition : Option Condition
  payload : List Byte
  deriving DecidableEq, Repr

/-- A held request with its answer, and the ms for which the answer has been on the line (R173). -/
structure Held where
  code : Byte
  reply : Reply
  sending : Nat
  deriving DecidableEq, Repr

/-- The state of one telegram port (R171). -/
structure PortRec where
  rx : RxState
  held : Option Held
  raw : EventSet
  mask : EventSet
  notice : Bool
  framingErrors : Nat
  crcErrors : Nat
  discarded : Nat
  deriving DecidableEq, Repr

/-! ### The whole part -/

/-- The bytes that the part is known to have stored in the profile memory, by address (R53, R54):
addresses strictly rising, and no value known of an address that is not listed. -/
abbrev Memory := List Host.Cell

/-- The state of the part, and the queue of the commands that wait, first in, first out. -/
structure State where
  mode : ModeUnit
  odo : Odometry
  store : Store
  limits : LimitTable
  sup : Supervisor
  dem : Demands
  drive : BrakeDrive
  doors : Doors
  radio : Radio
  ports : Tri PortRec
  /-- MODEL: what the part is known to have stored in the profile memory -/
  memory : Memory
  /-- MODEL: the waiting commands -/
  pending : List Instr
  deriving DecidableEq, Repr

/-- No rule of the spec stops the part: every command ends in a next state, so no fault is ever raised
and the type has no constructor. -/
inductive Fault : Type
  deriving DecidableEq, Repr

/-- Why the model gives a command no next state. -/
inductive Refusal where
  /-- Raised by an arm of `exec` for a command that has no meaning yet, and by nothing else; safe. -/
  | notModelled (mnemonic : String)
  deriving DecidableEq, Repr

/-! ### After power-on -/

/-- The inputs of a door that is shut and bolted, its isolation switch off. -/
def doorShut : DoorInputs := ⟨false, true, true, false, false, false⟩

/-- The input levels that `State.reset` takes: every door shut and bolted, every handle back. DESIGN
CHOICE, unsafe (notes/assumptions/2.md): the spec has a reset take the inputs as they stand. -/
def inputsAtRest : CarInputs := ⟨Quad.all doorShut, Quad.all false⟩

/-- The Mode and Authority Unit after power-on (its table of state). -/
def ModeUnit.reset : ModeUnit := ⟨.loading, .none, .none, none, ⟨.absent, none⟩, ⟨.absent, none⟩⟩

/-- The Odometry Unit after either reset (R17). -/
def Odometry.reset : Odometry where
  position := 0
  remainder := 0
  posState := .unknown
  uncertainty := 0
  accumulator := 0
  sinceCorrection := 0
  source := .axle
  pinionWindow := Quad.all 0
  axleWindow := Quad.all 0
  pinionCount := 0
  axleCount := 0
  pinionSeen := false
  axleSeen := false
  applied := 0
  speed := 0
  axleSpeed := 0
  motion := .none
  standstill := false
  quietTime := 0
  quietRunning := false
  reverse := 0
  reverseCarry := 0
  unexpectedMarks := 0
  awaited := none
  rollback := false
  pinionFault := false
  pinionFaultTime := 0
  crossPinion := 0
  crossAxle := 0
  notice := .none
  samplingTimer := 0

/-- The Profile Store after either reset, the loader's first status read just sent (R35, R41). -/
def Store.reset : Store where
  segments := []
  params := Params.default
  lineId := 0
  revision := 0
  phase := .header
  result := .none
  paramSource := .defaults
  failure := none
  differs := false
  commit := .idle
  pagesWritten := 0
  pagesAll := 0
  lastCommit := .none
  loader := .poll 0
  headerCount := 0
  headerParamAddr := 0
  headerSegAddr := 0

/-- The Restriction and Permit Table after either reset (R55). -/
def LimitTable.reset : LimitTable := ⟨[], none, List.replicate 31 .none⟩

/-- The Speed Supervisor after either reset (R74). -/
def Supervisor.reset : Supervisor := ⟨0, .normal, 0, 0, .mode, [], .static⟩

/-- A cab row or the PANEL row after either reset (R93). -/
def CabRow.reset : CabRow := ⟨.none, false⟩

/-- The Brake Demand Table after a reset that finds every door secured and every handle back (R93). -/
def Demands.reset : Demands where
  rows := ⟨.reset, .reset, .reset, .none, .none, .none, .none, .none, .none, .none⟩
  latch := true
  driven := .emergency
  alarm := .clear
  handles := Quad.all false
  traction := true

/-- The Brake Drive Unit after either reset, the default parameters in use (R110): full service, target
P_HI, and its duty on the default curve. -/
def BrakeDrive.reset : BrakeDrive where
  level := 1000
  target := 4500
  duty := 824
  activeDuty := 824
  valve := .deEnergized
  serviceReading := none
  releaseReading := none
  springStatus := .applying
  serviceCheck := ⟨.idle, 0, 0, 0, 0, 0⟩
  springCheck := ⟨.idle, 0, 0⟩
  springStuck := false
  serviceSlow := false
  springFail := false
  faultState := .none
  source := .mapping
  testStep := none
  testRecord := .notRun false
  periodTimer := 0

/-- A door that a reset finds shut and bolted, on the line side given (R130). -/
def Door.reset (side : LineSide) : Door where
  state := .closedLocked
  lineSide := side
  linePosition := none
  cause := none
  obstacles := 0
  openRequest := false
  lockLost := false
  inputs := doorShut
  timer := none
  limitRead := 0
  heldOpen := false

/-- The Door Controller after a reset that finds every door shut and bolted: the line sides are those of
the default door map in a car taken as NORMAL (R130, R131). -/
def Doors.reset : Doors where
  door := ⟨.reset .left, .reset .left, .reset .right, .reset .right⟩
  leftReleased := false
  rightReleased := false
  loopClosed := true

/-- The counters after power-on (R153). -/
def Counters.zero : Counters := ⟨0, 0, 0, 0, 0, 0, 0, 0, 0, 0, 0, 0⟩

/-- The Valley Radio Unit after power-on (R150). -/
def Radio.reset : Radio where
  counters := .zero
  zone := 0
  dark := false
  coverage := .noZone
  silenceCount := 0
  silenceRunning := false
  silenceTick := 0
  recent := []
  lastApplied := none
  inbox := []
  freeCount := 8
  arrivalCount := 0
  acks := []
  reportTimer := none
  reportDue := false
  window := none
  transmission := none

/-- A telegram port after power-on (R171). -/
def PortRec.reset : PortRec := ⟨.awaiting, none, 0, 0, false, 0, 0, 0⟩

/-- The part right after power-on, nothing waiting. -/
def State.reset : State where
  mode := .reset
  odo := .reset
  store := .reset
  limits := .reset
  sup := .reset
  dem := .reset
  drive := .reset
  doors := .reset
  radio := .reset
  ports := ⟨.reset, .reset, .reset⟩
  memory := []
  pending := []

end Sys2Proof.Machine
end

