-- ==== Sys2Proof/Machine/Bytes.lean ====
section
/-!
DEFINITION. Fields as bytes, most significant byte first, and the one CRC of the part (R184).
-/

namespace Sys2Proof.Machine

/-- An unsigned field of `width` bytes. A value the width cannot hold has no stated bytes: they are the
free value of the model (notes/assumptions/1.md). -/
def natField (width v : Nat) : List Byte :=
  if v < 256 ^ width then (List.range width).map fun i => BitVec.ofNat 8 (v / 256 ^ (width - 1 - i))
  else (List.range width).map (Config.wideByte width v)

/-- A signed field of `width` bytes, in two's complement; outside its range as for `natField`. -/
def intField (width : Nat) (v : Int) : List Byte :=
  if 0 ≤ v ∧ v < (256 ^ width / 2 : Nat) then natField width v.toNat
  else if v < 0 ∧ -(256 ^ width / 2 : Nat) ≤ v then natField width (v + (256 ^ width : Nat)).toNat
  else (List.range width).map (Config.wideByte width v)

/-- An absent value in an unsigned field: every byte FF (R184). -/
def absentField (width : Nat) : List Byte := List.replicate width 0xFF

/-- An absent value in a signed field: 80, then 00 bytes (R184). -/
def absentSigned (width : Nat) : List Byte := 0x80 :: List.replicate (width - 1) 0

/-- An optional value in an unsigned field. -/
def optField (width : Nat) : Option Nat → List Byte
  | none => absentField width
  | some v => natField width v

/-- A boolean field: 1 for yes, set or true (R184). -/
def boolField (b : Bool) : List Byte := [if b then 1 else 0]

/-- A set as a bit field of one byte, bit 0 the first member listed (R184). -/
def setField (members : List Bool) : List Byte :=
  [BitVec.ofNat 8 (members.foldr (fun b n => 2 * n + b.toNat) 0)]

/-- An event set, in three bytes (Formats). -/
def eventField (e : EventSet) : List Byte := natField 3 e.toNat

/-- Byte `i`, as a number. -/
def byteAt (l : List Byte) (i : Nat) : Nat := (l.getD i 0).toNat

/-- The two-byte field at `i`. -/
def word16 (l : List Byte) (i : Nat) : Nat := 256 * byteAt l i + byteAt l (i + 1)

/-- The three-byte field at `i`. -/
def word24 (l : List Byte) (i : Nat) : Nat := 65536 * byteAt l i + word16 l (i + 1)

/-- The signed two-byte field at `i`. -/
def signed16 (l : List Byte) (i : Nat) : Int :=
  if word16 l i < 32768 then word16 l i else (word16 l i : Int) - 65536

/-- One bit of the CRC: polynomial 1021, no reflection (R184). -/
def crcBit (c : BitVec 16) : BitVec 16 :=
  if c.msb then (c <<< 1) ^^^ 0x1021#16 else c <<< 1

/-- One byte into the CRC, most significant bit first (R184). -/
def crcByte (c : BitVec 16) (b : Byte) : BitVec 16 :=
  crcBit (crcBit (crcBit (crcBit (crcBit (crcBit (crcBit (crcBit (c ^^^ (b.zeroExtend 16 <<< 8)))))))))

/-- The CRC over some bytes: initial value FFFF, no final inversion (R184). -/
def crc16 (l : List Byte) : BitVec 16 := l.foldl crcByte 0xFFFF#16

/-- The two CRC bytes, high byte first (R184). -/
def crcField (l : List Byte) : List Byte := [(crc16 l).extractLsb' 8 8, (crc16 l).extractLsb' 0 8]

/-- Whether the last two bytes are the CRC of the bytes before them. -/
def crcGood (l : List Byte) : Bool := l.drop (l.length - 2) == crcField (l.take (l.length - 2))

/-- The bytes of a telegram on the line: start, length, body, CRC over length and body (Formats). -/
def telegramBytes (body : List Byte) : List Byte :=
  let covered := BitVec.ofNat 8 body.length :: body
  0xC5 :: covered ++ crcField covered

end Sys2Proof.Machine
end

