-- ==== Sys2Proof/Machine/Flags.lean ====
section
/-!
DEFINITION. The event flags of the ports: raising an event in all three, the masks of one port, and
the notice line that follows them (R180 to R183).
-/

namespace Sys2Proof.Machine

/-- The number of an event kind in the order of R180. -/
def Event.index : Event → Nat
  | .mode => 0 | .authority => 1 | .link => 2 | .emergency => 3 | .supervision => 4
  | .brakeState => 5 | .brakeTest => 6 | .doors => 7 | .doorFault => 8 | .restrictions => 9
  | .permit => 10 | .radio => 11 | .inbox => 12 | .inboxLow => 13 | .counterAlert => 14
  | .position => 15 | .profile => 16 | .alarm => 17

/-- The set that holds one event kind. -/
def Event.bit (e : Event) : EventSet := 1#18 <<< e.index

/-- Whether an event kind is in a set. -/
def EventSet.has (s : EventSet) (e : Event) : Bool := s.getLsbD e.index

/-- The notice line of a port, from its raw and its mask flags: asserted while a flag is set in both
(R183). -/
def noticeOf (raw mask : EventSet) : Bool := raw &&& mask != 0

/-- A port with its raw and mask flags replaced, the notice line following (R183). -/
def PortRec.withFlags (r : PortRec) (raw mask : EventSet) : PortRec :=
  { r with raw := raw, mask := mask, notice := noticeOf raw mask }

/-- A port in which an event occurs (R180). -/
def PortRec.raise (e : Event) (r : PortRec) : PortRec := r.withFlags (r.raw ||| e.bit) r.mask

/-- An occurrence of an event: its raw flag is set in all three ports (R180). -/
def raise (e : Event) (s : State) : State := { s with ports := s.ports.map (PortRec.raise e) }

/-- An event raised where a condition holds. -/
def raiseIf (c : Bool) (e : Event) (s : State) : State := if c then raise e s else s

/-- The record of one port. -/
def portOf (p : Port) (s : State) : PortRec :=
  match p with
  | .a => s.ports.a
  | .b => s.ports.b
  | .c => s.ports.c

/-- One port's record changed, the others left. -/
def updPort (p : Port) (f : PortRec → PortRec) (s : State) : State :=
  match p with
  | .a => { s with ports := { s.ports with a := f s.ports.a } }
  | .b => { s with ports := { s.ports with b := f s.ports.b } }
  | .c => { s with ports := { s.ports with c := f s.ports.c } }

/-- A counter that stays at its greatest value (R153, R171). -/
def satInc (n : Nat) : Nat := if n < Config.counterMax then n + 1 else n

end Sys2Proof.Machine
end

