-- ==== Sys2Proof/Machine/Line.lean ====
section
/-!
DEFINITION. The line about the car: the segment that holds a position (R21, R36), the marks (R26, R27),
the envelope of the train (R29) and what overlaps it (R57, R80).
-/

namespace Sys2Proof.Machine

/-- The line position of a segment's up-line end (R36). -/
def Segment.upEnd (g : Segment) : Nat := g.start + g.length

/-- A segment contains a position when its start is at or below it and its up-line end above it (R21). -/
def Segment.contains (g : Segment) (x : Int) : Bool := (g.start : Int) ≤ x && x < (g.upEnd : Int)

/-- The segment that contains a position (R36, R37). -/
def segmentAt (table : List Segment) (x : Int) : Option Segment := table.find? (·.contains x)

/-- The segment that contains the car position. -/
def carSegment (s : State) : Option Segment := segmentAt s.store.segments s.odo.position

/-- The line positions of the profile's marks, in table order (R36). -/
def marksOf (table : List Segment) : List Nat := table.filterMap fun g => g.mark.map (g.start + ·)

/-- The distance between two positions. -/
def gapBetween (x y : Nat) : Nat := max x y - min x y

/-- The least of some numbers, and `z` where there are none. -/
def leastOf (z : Nat) : List Nat → Nat
  | [] => z
  | x :: xs => xs.foldl min x

/-- What a detection finds (R26). -/
inductive MarkFind where
  | nothing
  | nearest (mark : Nat)
  | ambiguous
  deriving DecidableEq, Repr

/-- The marks within `reach` of a position: none, one nearest, or two equally near (R26). -/
def findMark (marks : List Nat) (pos reach : Nat) : MarkFind :=
  let near := marks.filter fun m => gapBetween m pos ≤ reach
  match near with
  | [] => .nothing
  | m :: rest =>
    let least := leastOf (gapBetween m pos) ((m :: rest).map (gapBetween · pos))
    match (m :: rest).filter fun n => gapBetween n pos = least with
    | [n] => .nearest n
    | _ => .ambiguous

/-- The nearest mark strictly beyond a position in a direction (R27). -/
def nextMark (marks : List Nat) (dir : Direction) (pos : Nat) : Option Nat :=
  match dir with
  | .none => none
  | .upLine =>
    match marks.filter (pos < ·) with
    | [] => none
    | m :: rest => some (rest.foldl min m)
  | .downLine =>
    match marks.filter (· < pos) with
    | [] => none
    | m :: rest => some (rest.foldl max m)

/-- The ends of the train, not held within the line (R29). -/
structure Envelope where
  downEnd : Int
  upEnd : Int
  deriving DecidableEq, Repr

/-- The envelope; none is formed while the position state is UNKNOWN (R29). -/
def envelope (s : State) : Option Envelope :=
  match s.odo.posState with
  | .unknown => none
  | _ =>
    match s.mode.composition with
    | none => some ⟨s.odo.position, s.odo.position⟩
    | some c =>
      let down := (s.odo.position : Int) - c.offset
      some ⟨down, down + c.length⟩

/-- The front of the envelope: its down-line end in direction DOWN_LINE, else its up-line end (R29). -/
def frontOf (dir : Direction) (e : Envelope) : Int :=
  match dir with
  | .downLine => e.downEnd
  | _ => e.upEnd

/-- A stretch of line, both ends included. -/
structure Span where
  low : Int
  high : Int
  deriving DecidableEq, Repr

/-- The envelope from its low bound, the down-line end less u, to its high bound, the up-line end plus u
(R57, R80). -/
def envelopeSpan (s : State) : Option Span :=
  (envelope s).map fun e => ⟨e.downEnd - s.odo.uncertainty, e.upEnd + s.odo.uncertainty⟩

/-- The safe front: the low bound in direction DOWN_LINE, else the high bound (R29, R80). -/
def safeFront (dir : Direction) (sp : Span) : Int :=
  match dir with
  | .downLine => sp.low
  | _ => sp.high

/-- An extent overlaps a stretch when its start is at or below the high bound and its end above the low
bound (R57, R80, R103). -/
def overlaps (start stop : Int) (sp : Span) : Bool := start ≤ sp.high && sp.low < stop

/-- Whether a restriction's extent overlaps the envelope; every extent does while none is formed (R57). -/
def entryOverlaps (s : State) (r : Restriction) : Bool :=
  match envelopeSpan s with
  | none => true
  | some sp => overlaps r.start r.stop sp

/-- Whether some position from `lo` to `hi` lies in no segment of a table in ascending order. -/
def hasGap : Int → Int → List Segment → Bool
  | lo, hi, [] => decide (lo ≤ hi)
  | lo, hi, g :: rest =>
    if hi < lo then false
    else if lo < (g.start : Int) then true
    else hasGap (max lo g.upEnd) hi rest

/-- The NO_STOP overlap (R103). -/
def noStopOverlap (s : State) : Bool :=
  match envelopeSpan s with
  | none => false
  | some sp => s.store.segments.any fun g => g.noStop && overlaps g.start g.upEnd sp

end Sys2Proof.Machine
end

