-- ==== Sys2Proof/Machine/Timers.lean ====
section
/-!
DEFINITION. When a timer has run its time: each timer that an arrival can stop or start again is compared with its
limit, both where a millisecond queues its expiry and where the expiry is taken (notes/assumptions/4.md). An expiry
that finds its timer stopped, or started again, has been overtaken and does not occur.
-/

namespace Sys2Proof.Machine

/-- The silence timer of a link has reached 500 ms (R13). -/
def Link.timeUp (l : Link) : Bool := l.timer.any (Config.linkSilence ≤ ·)

/-- A running service check has reached its limit (R116). -/
def ServiceCheck.timeUp (c : ServiceCheck) : Bool := c.outcome = .running && c.limit ≤ c.timer

/-- A running release check has reached its limit (R119). -/
def SpringCheck.releaseUp (c : SpringCheck) : Bool := c.outcome = .releaseRunning && c.limit ≤ c.timer

/-- A running apply check has reached its limit (R120). -/
def SpringCheck.applyUp (c : SpringCheck) : Bool := c.outcome = .applyRunning && c.limit ≤ c.timer

/-- A step of the brake test has reached its limit (R123). -/
def TestStep.timeUp (t : TestStep) : Bool := t.limit ≤ t.timer

/-- A door timer has reached its limit (R133). -/
def Door.timeUp (d : Door) : Bool := d.timer.any fun t => t.2 ≤ t.1

/-- A running silence timer has run a whole second since it was started, restarted or last ticked (R156). -/
def Radio.tickUp (r : Radio) : Bool := r.silenceRunning && 1000 ≤ r.silenceTick

/-- The report timer has reached its interval, in s (R166). -/
def Radio.reportUp (r : Radio) : Bool := r.reportTimer.any fun t => 1000 * t.2 ≤ t.1

/-- The window timer has reached 500 ms (R167). -/
def Radio.windowUp (r : Radio) : Bool := r.window.any fun w => Config.uplinkWindow ≤ w.timer

/-- The loader has found the memory busy for 25 ms (R41). -/
def LoaderOp.timeUp : LoaderOp → Bool
  | .poll t => Config.memoryBusyLimit ≤ t
  | _ => false

/-- The page timer has reached 25 ms, in the program as in the polling (R52). R52 fails a page while the memory is still
busy; that one whose program is still being sent at 25 ms, before any status read, fails too is the model's choice
(notes/assumptions/24.md). -/
def CommitState.timeUp : CommitState → Bool
  | .writing _ (.program t) => Config.memoryBusyLimit ≤ t
  | .writing _ (.poll t) => Config.memoryBusyLimit ≤ t
  | _ => false

/-- The gap within a telegram has reached 2 ms (R172). -/
def RxState.timeUp : RxState → Bool
  | .awaiting => false
  | .receiving _ gap => Config.gapLimit ≤ gap

end Sys2Proof.Machine
end

