-- ==== Sys2Proof/Machine/BrakeOps.lean ====
section
/-!
DEFINITION. The brakes: the ten rows and the driven kind (R94 to R97, R108), the mapping from the driven
kind to the valves (R112 to R114), the service and spring checks (R116 to R121), the running of the
brake test (R123 to R127), and the passenger alarm (R103, R104, R107).
-/

namespace Sys2Proof.Machine

/-! ### Kinds and rows -/

/-- The rank of a kind, FULL as a service level of 1,000 (R94). -/
def Kind.rank : Kind → Nat
  | .none => 0
  | .hold => 1
  | .service n => 1 + n
  | .full => 1001
  | .emergency => 1002

/-- The stronger of two kinds (R94). -/
def Kind.stronger (a b : Kind) : Kind := if a.rank < b.rank then b else a

/-- The strongest of some kinds, NONE where there are none (R94). -/
def strongestOf (l : List Kind) : Kind := l.foldl Kind.stronger .none

/-- The emergency part of a row as a kind (R95). -/
def emergencyPart (e : Bool) : Kind := if e then .emergency else .none

/-- The kind of a row held in two parts: the stronger (R95). -/
def CabRow.kind (r : CabRow) : Kind := r.service.stronger (emergencyPart r.emergency)

/-- The kind of a row. -/
def Rows.kind (r : Rows) : Row → Kind
  | .cabA => r.cabA.kind
  | .cabB => r.cabB.kind
  | .panel => r.panel.kind
  | .supervision => r.supervision
  | .doors => r.doors
  | .radio => r.radio
  | .link => r.link
  | .alarm => r.alarm
  | .odometry => r.odometry
  | .brakeCheck => r.brakeCheck

/-- The ten rows in the order of R95. -/
def allRows : List Row :=
  [.cabA, .cabB, .panel, .supervision, .doors, .radio, .link, .alarm, .odometry, .brakeCheck]

/-- The first row at EMERGENCY in the order of R95 (R98). -/
def firstEmergency (r : Rows) : Option Row := allRows.find? fun x => r.kind x = .emergency

/-- Whether some row is at EMERGENCY that was not (R97). -/
def becomesEmergency (old new : Rows) : Bool :=
  allRows.any fun x => new.kind x = .emergency && !(old.kind x = .emergency)

/-- What the driven kind is: EMERGENCY under the latch, else the strongest row (R96). -/
def drivenOf (latch : Bool) (r : Rows) : Kind :=
  if latch then .emergency else strongestOf (allRows.map r.kind)

/-- The BRAKE-CHECK row for a fault set (R102). -/
def brakeCheckRow (slow fail : Bool) : Kind := if slow then .emergency else if fail then .full else .none

/-- The brake fault state for a fault set (R121). -/
def faultStateOf (slow fail : Bool) : FaultState :=
  match slow, fail with
  | false, false => .none
  | true, true => .failed
  | _, _ => .degraded

/-! ### Pressures, duties and bands -/

/-- The service target pressure of a level (R113). -/
def targetOf (p : Params) (level : Nat) : Nat :=
  if level = 0 then 0 else min 5000 (p.pLo + (p.pHi - p.pLo) * level / 1000)

/-- The duty between two neighbouring points, the quotient rounded down (R114). -/
def dutyBetween (a b : Nat × Nat) (pressure : Nat) : Nat :=
  ((a.2 : Int) + ((b.2 : Int) - a.2) * ((pressure : Int) - a.1) / ((b.1 : Int) - a.1)).toNat

/-- The commanded duty of a target on the valve curve (R114). -/
def dutyOf (v : Quad (Nat × Nat)) (target : Nat) : Nat :=
  if target = 0 then 0
  else if target < v.d1.1 then 0
  else if target < v.d2.1 then dutyBetween v.d1 v.d2 target
  else if target < v.d3.1 then dutyBetween v.d2 v.d3 target
  else if target < v.d4.1 then dutyBetween v.d3 v.d4 target
  else v.d4.2

/-- The band of a check for a target, both bounds included (R116). -/
def bandOf (target : Nat) : Nat × Nat :=
  if target = 0 then (0, 149)
  else (target - max 150 (target / 10), target + max 150 (target / 10))

/-- The level and the release valve that the mapping commands (R112). -/
def mappedOutputs (k : Kind) (still : Bool) : Nat × Valve :=
  match k with
  | .none => (0, .energized)
  | .hold => (0, if still then .deEnergized else .energized)
  | .service n => (n, .energized)
  | .full => (1000, .energized)
  | .emergency => (1000, .deEnergized)

/-! ### Outputs and checks -/

/-- The drive with the target and the commanded duty formed for a level (R113, R114). -/
def BrakeDrive.form (p : Params) (level : Nat) (d : BrakeDrive) : BrakeDrive :=
  { d with level := level, target := targetOf p level, duty := dutyOf p.valve (targetOf p level) }

/-- The drive at a level: formed anew where the level changes (R112, R113). -/
def BrakeDrive.atLevel (p : Params) (level : Nat) (d : BrakeDrive) : BrakeDrive :=
  if level = d.level then d else d.form p level

/-- The drive with its release valve so; de-energizing it clears SPRING_STUCK (R119). -/
def BrakeDrive.atValve (v : Valve) (d : BrakeDrive) : BrakeDrive :=
  if v = d.valve then d
  else { d with valve := v, springStuck := d.springStuck && !(v = .deEnergized) }

/-- A service check started for the target as it stands (R116). -/
def BrakeDrive.startService (p : Params) (d : BrakeDrive) : BrakeDrive :=
  { d with serviceCheck :=
      ⟨.running, d.target, (bandOf d.target).1, (bandOf d.target).2, 0, p.tResp⟩ }

/-- The spring check of the release valve as it stands, started (R119, R120). -/
def BrakeDrive.startSpring (d : BrakeDrive) : BrakeDrive :=
  { d with springCheck :=
      match d.valve with
      | .energized => ⟨.releaseRunning, 0, Config.releaseLimit⟩
      | .deEnergized => ⟨.applyRunning, 0, Config.applyLimit⟩ }

/-- Outputs commanded, each check started where its condition holds. -/
def BrakeDrive.command (p : Params) (level : Nat) (v : Valve) (service spring : Bool) (d : BrakeDrive) :
    BrakeDrive :=
  let d := (d.atLevel p level).atValve v
  let d := if service then d.startService p else d
  if spring then d.startSpring else d

/-- The drive replaced, with BRAKE_STATE where that clears SPRING_STUCK (R119). -/
def withDrive (d : BrakeDrive) (s : State) : State :=
  raiseIf (s.drive.springStuck && !d.springStuck) .brakeState { s with drive := d }

/-- The outputs that the mapping gives, formed anew: a check is started where its target or its valve
changes (R112). -/
def applyMapping (s : State) : State :=
  let o := mappedOutputs s.dem.driven s.odo.standstill
  let d := (s.drive.atLevel s.store.params o.1).atValve o.2
  withDrive (s.drive.command s.store.params o.1 o.2
    (!(d.target = s.drive.target)) (!(d.valve = s.drive.valve))) s

/-- The output source becomes MAPPING: the mapping's outputs, and both checks started whether or not the
outputs differ (R127). -/
def takeMapping (s : State) : State :=
  let o := mappedOutputs s.dem.driven s.odo.standstill
  withDrive { (s.drive.command s.store.params o.1 o.2 true true) with
    source := .mapping, testStep := none } s

/-- The driven kind as handed to the Brake Drive Unit (R112, R125). -/
def handDriven (s : State) : State :=
  match s.drive.source with
  | .mapping => applyMapping s
  | .abortHold => takeMapping s
  | .test => s

/-- The driven kind formed anew, the traction inhibit following it (R96, R108). -/
def refreshDriven (s : State) : State :=
  let k := drivenOf s.dem.latch s.dem.rows
  if k = s.dem.driven then s
  else handDriven (raise .brakeState
    { s with dem := { s.dem with driven := k, traction := !(k = .none) } })

/-! ### The brake test -/

/-- The record written, with its event where it changes (R127). -/
def writeRecord (r : TestRecord) (s : State) : State :=
  raiseIf (!(r = s.drive.testRecord)) .brakeTest { s with drive := { s.drive with testRecord := r } }

/-- A running brake test is ended ABORTED (R125); SET COMPOSITION records NOT_RUN with its cause. -/
def abortTest (c : AbortCause) (s : State) : State :=
  if s.drive.source = .test then
    let d := s.drive.command s.store.params 1000 .deEnergized true (!(s.drive.valve = .deEnergized))
    let record := match c with
      | .composition => TestRecord.notRun true
      | _ => .aborted c
    raise .brakeTest (withDrive { d with source := .abortHold, testStep := none, testRecord := record } s)
  else s

/-- The release valve and the level that a step of the test commands (R123). -/
def stepOutputs : Nat → Nat × Valve
  | 1 => (300, .deEnergized)
  | 2 => (1000, .deEnergized)
  | 3 => (1000, .energized)
  | 4 => (1000, .deEnergized)
  | _ => (0, .deEnergized)

/-- The limit of a step of the test, in ms (R123). -/
def stepLimit (p : Params) : Nat → Nat
  | 3 => Config.releaseLimit
  | 4 => Config.applyLimit
  | _ => p.tResp

/-- A step of the test begins: its outputs, formed with the parameters as they stand (R128), and its
timer (R123). -/
def beginStep (n : Nat) (s : State) : State :=
  let o := stepOutputs n
  let d := (s.drive.form s.store.params o.1).atValve o.2
  raise .brakeTest (withDrive { d with testStep := some ⟨n, 0, stepLimit s.store.params n⟩ } s)

/-- A test that runs ends PASSED or FAILED (R124, R127). -/
def endTest (r : TestRecord) (s : State) : State := takeMapping (writeRecord r s)

/-- The running step's check is met (R123). -/
def meetStep (n : Nat) (s : State) : State := if n < 5 then beginStep (n + 1) s else endTest .passed s

/-- Whether a service pressure reading meets a step's check (R123). -/
def serviceMeetsStep (n : Nat) (d : BrakeDrive) (kPa : Nat) : Bool :=
  match n with
  | 1 => (bandOf d.target).1 ≤ kPa && kPa ≤ (bandOf d.target).2
  | 2 => (bandOf d.target).1 ≤ kPa && kPa ≤ (bandOf d.target).2
  | 5 => kPa < 150
  | _ => false

/-- Whether a release pressure reading meets a step's check (R123). -/
def releaseMeetsStep (n kPa : Nat) : Bool :=
  match n with
  | 3 => Config.releasedAbove < kPa
  | 4 => kPa < Config.appliedBelow
  | _ => false

/-! ### Writing the rows -/

/-- The emergency latch is set (R97). -/
def setLatch (s : State) : State :=
  if s.dem.latch then s else raise .emergency { s with dem := { s.dem with latch := true } }

/-- What a row at EMERGENCY brings with it: the end of a brake test, and the latch (R97, R125). -/
def rowEmergency (s : State) : State := setLatch (abortTest .rowEmergency s)

/-- The rows as written, with all that follows a change of them (R96, R97, R125). -/
def writeRows (rows : Rows) (s : State) : State :=
  let fresh := becomesEmergency s.dem.rows rows
  let s := { s with dem := { s.dem with rows := rows } }
  refreshDriven (if fresh then rowEmergency s else s)

/-- The row of a port that a port writes, changed by a function (R95). -/
def Rows.updPort (p : Port) (f : CabRow → CabRow) (r : Rows) : Rows :=
  match p with
  | .a => { r with cabA := f r.cabA }
  | .b => { r with cabB := f r.cabB }
  | .c => { r with panel := f r.panel }

/-- The row that a port writes (R95). -/
def Rows.ofPort (p : Port) (r : Rows) : CabRow :=
  match p with
  | .a => r.cabA
  | .b => r.cabB
  | .c => r.panel

/-- The brake faults as set, with all that follows a change of the set (R102, R117, R120, R121). -/
def setFaults (slow fail : Bool) (s : State) : State :=
  if slow = s.drive.serviceSlow ∧ fail = s.drive.springFail then s
  else
    let s := raise .brakeState { s with drive :=
      { s.drive with serviceSlow := slow, springFail := fail, faultState := faultStateOf slow fail } }
    writeRows { s.dem.rows with brakeCheck := brakeCheckRow slow fail } s

/-! ### The passenger alarm -/

/-- Whether the alarm is pulled (R103). -/
def alarmPulled (handles : Quad Bool) : Bool := handles.d1 || handles.d2 || handles.d3 || handles.d4

/-- The alarm state from CLEAR (R104). -/
def alarmFromClear (pulled overlap : Bool) : AlarmState :=
  if pulled then (if overlap then .deferred else .active) else .clear

/-- The alarm state after an evaluation; `begins` where standstill becomes true (R104). -/
def alarmNext (a : AlarmState) (pulled overlap begins : Bool) : AlarmState :=
  match a with
  | .confirmed => if pulled then .confirmed else .clear
  | .overridden => if begins then alarmFromClear pulled overlap else .overridden
  | _ => alarmFromClear pulled overlap

/-- The ALARM row (R107). -/
def alarmRow (a : AlarmState) (still : Bool) : Kind :=
  match a with
  | .active => if still then .hold else .full
  | .confirmed => if still then .hold else .full
  | _ => .none

/-- The alarm state as changed, with its event, and the ALARM row formed (R104, R107). -/
def setAlarm (a : AlarmState) (s : State) : State :=
  let s' := raiseIf (!(a = s.dem.alarm)) .alarm { s with dem := { s.dem with alarm := a } }
  writeRows { s'.dem.rows with alarm := alarmRow a s'.odo.standstill } s'

/-- One evaluation of the alarm (R103, R104). -/
def evaluateAlarm (begins : Bool) (s : State) : State :=
  setAlarm (alarmNext s.dem.alarm (alarmPulled s.dem.handles) (noStopOverlap s) begins) s

end Sys2Proof.Machine
end

