-- ==== Sys2Proof/Machine/DoorOps.lean ====
section
/-!
DEFINITION. The doors: the entry into each door state with what passes through at once (R132 to R139),
lock supervision and isolation (R140, R141), the qualification of a release (R131, R143), its effect and
that of a close (R144, R145), and the DOORS row and locked loop (R148).
-/

namespace Sys2Proof.Machine

/-- The record of one door. -/
def doorOf (d : DoorId) (q : Quad Door) : Door :=
  match d with
  | .d1 => q.d1
  | .d2 => q.d2
  | .d3 => q.d3
  | .d4 => q.d4

/-- One door's record replaced. -/
def putDoor (d : DoorId) (x : Door) (q : Quad Door) : Quad Door :=
  match d with
  | .d1 => { q with d1 := x }
  | .d2 => { q with d2 := x }
  | .d3 => { q with d3 := x }
  | .d4 => { q with d4 := x }

/-- What a door reads outside its own record as it acts: the open permission, the side release flags
and the door parameters (R132, R133, R136, R137). -/
structure DoorCtx where
  permission : Bool
  left : Bool
  right : Bool
  moveTime : Nat
  warningTime : Nat
  obstacleLimit : Nat
  deriving DecidableEq, Repr

/-- The open permission of the car (R132). -/
def openPermission (s : State) : Bool := s.odo.standstill && s.drive.springStatus = .applied

/-- What the doors read as things stand. -/
def doorCtx (s : State) : DoorCtx where
  permission := openPermission s
  left := s.doors.leftReleased
  right := s.doors.rightReleased
  moveTime := s.store.params.doorMoveTime
  warningTime := s.store.params.doorWarningTime
  obstacleLimit := s.store.params.obstacleLimit

/-- Whether a line side is released. -/
def DoorCtx.released (c : DoorCtx) : LineSide → Bool
  | .left => c.left
  | .right => c.right

/-! ### Entering a state -/

/-- A door in a state, its timer so and its open drive of OBSTRUCTED off. -/
def Door.go (st : DoorState) (timer : Option Nat) (d : Door) : Door :=
  { d with state := st, timer := timer.map fun limit => (0, limit), heldOpen := false }

/-- Entry to CLOSED_LOCKED (R138). -/
def Door.enterClosedLocked (d : Door) : Door :=
  { d.go .closedLocked none with obstacles := 0, openRequest := false, lockLost := false }

/-- Entry to LOCKING, and on where the locked input is present (R133, R138). -/
def Door.enterLocking (d : Door) : Door :=
  let d := d.go .locking (some Config.lockLimit)
  if d.inputs.locked then d.enterClosedLocked else d

/-- Entry to CLOSING, and on where the closed input is present (R133, R137). -/
def Door.enterClosing (c : DoorCtx) (d : Door) : Door :=
  let d := { d.go .closing (some c.moveTime) with limitRead := c.obstacleLimit }
  if d.inputs.closed then d.enterLocking else d

/-- Entry to WARNING (R137). -/
def Door.enterWarning (c : DoorCtx) (d : Door) : Door := d.go .warning (some c.warningTime)

/-- Entry to OPEN, and on to WARNING where the door's side is not released (R136). -/
def Door.enterOpened (c : DoorCtx) (d : Door) : Door :=
  let d := { d.go .opened none with openRequest := false }
  if c.released d.lineSide then d else d.enterWarning c

/-- Entry to OPENING, and on where the open-limit input is present (R133, R136). -/
def Door.enterOpening (c : DoorCtx) (d : Door) : Door :=
  let d := d.go .opening (some c.moveTime)
  if d.inputs.openLimit then d.enterOpened c else d

/-- Entry to RELEASED, and on where an open request meets the open permission (R135). -/
def Door.enterReleased (c : DoorCtx) (d : Door) : Door :=
  let d := d.go .released none
  if d.openRequest then
    if c.permission then d.enterOpening c else { d with openRequest := false }
  else d

/-- Entry to UNLOCKING by a release, and on where the locked input is absent (R133, R134). -/
def Door.enterUnlocking (c : DoorCtx) (auto : Bool) (d : Door) : Door :=
  let d := { d.go .unlocking (some Config.lockLimit) with
    obstacles := 0, lockLost := false, openRequest := auto }
  if d.inputs.locked then d else d.enterReleased c

/-- Entry to FAULT with its cause (R132). -/
def Door.enterFault (x : FaultCause) (d : Door) : Door := { d.go .fault none with cause := some x }

/-- Entry to OBSTRUCTED: the open drive on where the open permission holds, until the open limit (R132). -/
def Door.enterObstructed (c : DoorCtx) (d : Door) : Door :=
  { d.go .obstructed none with heldOpen := c.permission && !d.inputs.openLimit }

/-- Entry to ISOLATED (R141). -/
def Door.enterIsolated (d : Door) : Door :=
  { d.go .isolated none with obstacles := 0, openRequest := false, lockLost := false, cause := none }

/-! ### Arrivals at a door -/

/-- Lock supervision after a change of the closed or the locked input, `lost` where it became absent
(R140). -/
def Door.superviseLock (lost : Bool) (d : Door) : Door :=
  if d.state = .closedLocked then
    if lost then { d with lockLost := true }
    else if d.inputs.closed && d.inputs.locked then { d with lockLost := false }
    else d
  else d

/-- The locked input of a door (R134, R138, R140). -/
def Door.onLocked (c : DoorCtx) (present : Bool) (d : Door) : Door :=
  let lost := d.inputs.locked && !present
  let d := { d with inputs := { d.inputs with locked := present } }
  match d.state with
  | .unlocking => if present then d else d.enterReleased c
  | .locking => if present then d.enterClosedLocked else d
  | _ => d.superviseLock lost

/-- The closed input of a door (R137, R140). -/
def Door.onClosed (present : Bool) (d : Door) : Door :=
  let lost := d.inputs.closed && !present
  let d := { d with inputs := { d.inputs with closed := present } }
  match d.state with
  | .closing => if present then d.enterLocking else d
  | _ => d.superviseLock lost

/-- The open-limit input of a door (R132, R136). -/
def Door.onOpenLimit (c : DoorCtx) (present : Bool) (d : Door) : Door :=
  let d := { d with inputs := { d.inputs with openLimit := present } }
  match d.state with
  | .opening => if present then d.enterOpened c else d
  | .obstructed => if present then { d with heldOpen := false } else d
  | _ => d

/-- The obstacle input of a door (R139). The rule has it become present; that an input found present again where it
stands recorded so counts as another obstacle in CLOSING is the model's choice (notes/assumptions/23.md). -/
def Door.onObstacle (c : DoorCtx) (present : Bool) (d : Door) : Door :=
  let d := { d with inputs := { d.inputs with obstacle := present } }
  if d.state = .closing ∧ present then
    let d := { d with obstacles := d.obstacles + 1 }
    if d.limitRead ≤ d.obstacles then d.enterObstructed c
    else if c.permission then d.enterOpening c
    else d.enterObstructed c
  else d

/-- The passenger button of a door (R134, R135). -/
def Door.onButton (c : DoorCtx) (pressed : Bool) (d : Door) : Door :=
  let d := { d with inputs := { d.inputs with button := pressed } }
  if pressed then
    match d.state with
    | .unlocking => { d with openRequest := true }
    | .released => if c.permission then d.enterOpening c else d
    | _ => d
  else d

/-- The isolation switch of a door (R141). -/
def Door.onIsolation (on : Bool) (d : Door) : Door :=
  let d := { d with inputs := { d.inputs with isolation := on } }
  if on then d.enterIsolated
  else if d.state = .isolated then
    if d.inputs.closed && d.inputs.locked then d.enterClosedLocked else d.enterFault .atDeisolation
  else d

/-- The expiry of a door timer that has reached its limit (R134, R136 to R138); a timer stopped or started again since
has no expiry (R133). -/
def Door.onTimer (c : DoorCtx) (d : Door) : Door :=
  if !d.timeUp then d
  else
    match d.state with
    | .unlocking => d.enterFault .unlockTime
    | .opening => d.enterFault .openTime
    | .warning => d.enterClosing c
    | .closing => d.enterFault .closeTime
    | .locking => d.enterFault .lockTime
    | _ => d

/-- A door acted on by a DOOR RELEASE that it qualifies for (R144). -/
def Door.onRelease (c : DoorCtx) (auto : Bool) (d : Door) : Door :=
  match d.state with
  | .closedLocked => d.enterUnlocking c auto
  | .locking => d.enterUnlocking c auto
  | .warning => d.enterOpening c
  | .closing => d.enterOpening c
  | .unlocking => { d with openRequest := d.openRequest || auto }
  | .released =>
    let d := { d with openRequest := d.openRequest || auto }
    if d.openRequest && c.permission then d.enterOpening c else d
  | _ => d

/-- A door whose side a DOOR CLOSE names (R145). -/
def Door.onClose (c : DoorCtx) (d : Door) : Door :=
  let d := { d with openRequest := false }
  match d.state with
  | .unlocking => d.enterLocking
  | .released => d.enterLocking
  | .opening => d.enterWarning c
  | .opened => d.enterWarning c
  | _ => d

/-- A door as standstill becomes false (R146). -/
def Door.onMoving (c : DoorCtx) (d : Door) : Door :=
  let d := d.onClose c
  if d.state = .obstructed then { d with heldOpen := false } else d

/-- A door retried (R147). -/
def Door.onRetry (c : DoorCtx) (d : Door) : Door :=
  { d.enterWarning c with obstacles := 0, cause := none, openRequest := false }

/-- A door as a reset finds it (R130). -/
def Door.found (side : LineSide) (inputs : DoorInputs) : Door :=
  let d := { Door.reset side with inputs := inputs }
  if inputs.isolation then { d with state := .isolated }
  else if inputs.closed && inputs.locked then d
  else { d with state := .fault, cause := some .atReset }

/-- A door's four outputs: open drive, close drive, lock drive, warning sounder (R132). -/
def Door.outputs (d : Door) : List Bool :=
  match d.state with
  | .closedLocked => [false, false, true, false]
  | .unlocking => [false, false, false, false]
  | .released => [false, false, false, false]
  | .opening => [true, false, false, false]
  | .opened => [false, false, false, false]
  | .warning => [false, false, false, true]
  | .closing => [false, true, false, true]
  | .locking => [false, true, true, false]
  | .obstructed => [d.heldOpen, false, false, false]
  | .fault => [false, false, true, false]
  | .isolated => [false, false, false, false]

/-! ### The DOORS row and the loop -/

/-- A secured door (R148). -/
def Door.secured (d : Door) : Bool :=
  match d.state with
  | .isolated => true
  | .closedLocked => !d.lockLost
  | _ => false

/-- Whether every door is secured (R148). -/
def allSecured (q : Quad Door) : Bool := q.d1.secured && q.d2.secured && q.d3.secured && q.d4.secured

/-- The DOORS row (R148). -/
def doorsRow (secured still : Bool) : Kind := if secured then .none else if still then .hold else .emergency

/-- The DOORS row and the locked loop formed, with the event of a change of the loop (R148). -/
def formDoorsRow (s : State) : State :=
  let all := allSecured s.doors.door
  let s' := raiseIf (!(all = s.doors.loopClosed)) .doors
    { s with doors := { s.doors with loopClosed := all } }
  writeRows { s'.dem.rows with doors := doorsRow all s'.odo.standstill } s'

/-- Whether a door's change raises DOORS (R132, R140). -/
def doorChanged (old new : Door) : Bool := !(old.state = new.state) || !(old.lockLost = new.lockLost)

/-- Whether a door's change is an entry to FAULT or to OBSTRUCTED (R132). -/
def doorFaulted (old new : Door) : Bool :=
  !(old.state = new.state) && (new.state = .fault || new.state = .obstructed)

/-- One door changed, with its events, the row and the loop following (R132, R148). -/
def updDoor (d : DoorId) (f : Door → Door) (s : State) : State :=
  let old := doorOf d s.doors.door
  let new := f old
  let s := { s with doors := { s.doors with door := putDoor d new s.doors.door } }
  formDoorsRow (raiseIf (doorFaulted old new) .doorFault (raiseIf (doorChanged old new) .doors s))

/-- The four doors and the side flags replaced together, with the events of all that changes (R142,
R145, R146), the row and the loop following. -/
def putDoors (new : Quad Door) (left right : Bool) (s : State) : State :=
  let o := s.doors
  let flags := !(o.leftReleased = left) || !(o.rightReleased = right)
  let changed := doorChanged o.door.d1 new.d1 || doorChanged o.door.d2 new.d2 ||
    doorChanged o.door.d3 new.d3 || doorChanged o.door.d4 new.d4
  formDoorsRow (raiseIf (flags || changed) .doors { s with doors :=
    { o with door := new, leftReleased := left, rightReleased := right } })

/-! ### The qualification of a release -/

/-- The line side of a car side (R131). -/
def lineSideOf (o : Orientation) (side : CarSide) : LineSide :=
  match o, side with
  | .normal, .side1 => .left
  | .normal, .side2 => .right
  | .reversed, .side1 => .right
  | .reversed, .side2 => .left

/-- The orientation in use: NORMAL where no composition is present (R131). -/
def orientationOf (m : ModeUnit) : Orientation :=
  match m.composition with
  | none => .normal
  | some c => c.orientation

/-- A door's line position, none while the position state is UNKNOWN (R131). -/
def linePositionOf (s : State) (e : DoorMapEntry) : Option Int :=
  match s.odo.posState with
  | .unknown => none
  | _ =>
    match orientationOf s.mode with
    | .normal => some (s.odo.position + e.offset)
    | .reversed => some (s.odo.position - e.offset)

/-- A door with its line side and its line position formed from the map (R131). -/
def Door.placed (s : State) (e : DoorMapEntry) (d : Door) : Door :=
  { d with lineSide := lineSideOf (orientationOf s.mode) e.side, linePosition := linePositionOf s e }

/-- The four doors so placed. -/
def placeDoors (s : State) : Quad Door :=
  let m := s.store.params.doorMap
  let q := s.doors.door
  ⟨q.d1.placed s m.d1, q.d2.placed s m.d2, q.d3.placed s m.d3, q.d4.placed s m.d4⟩

/-- Whether a platform serves a line side (R143). -/
def PlatformSide.serves (p : PlatformSide) (side : LineSide) : Bool :=
  match p, side with
  | .both, _ => true
  | .left, .left => true
  | .right, .right => true
  | _, _ => false

/-- Whether one platform of a side holds the whole interval from `x - u` to `x + u` (R143). -/
def onPlatform (table : List Segment) (side : LineSide) (x : Int) (u : Nat) : Bool :=
  table.any fun g =>
    match g.platform with
    | none => false
    | some p => p.side.serves side && (((g.start + p.fromOffset : Nat) : Int) ≤ x - u) &&
        (x + u < ((g.start + p.toOffset : Nat) : Int))

/-- The platform check (R143). With the position UNKNOWN it is skipped in SHUNT; in LINE, which the rule
does not list, no door passes (notes/assumptions/15.md). -/
def platformCheck (s : State) (side : LineSide) (d : Door) : Bool :=
  match s.odo.posState, d.linePosition with
  | .unknown, _ => s.mode.mode = .shunt
  | _, none => false
  | st, some x =>
    let u := if st = .lost then Config.greatestUncertainty else s.odo.uncertainty
    (0 ≤ x) && (x ≤ (Config.lineEnd : Int)) && (segmentAt s.store.segments x).isSome &&
      onPlatform s.store.segments side x u

/-- Whether a door qualifies for a release of a side (R143). -/
def doorQualifies (s : State) (side : LineSide) (e : DoorMapEntry) (d : Door) : Bool :=
  e.enabled && d.lineSide = side && platformCheck s side d

end Sys2Proof.Machine
end

