-- ==== Sys2Proof/Machine/Codes.lean ====
section
/-!
DEFINITION. The codes of the enumerations: those the Formats chapter gives, and otherwise the numbers
from 0 in the order in which the owning rule lists the values; a value named with a number carries it (R184).
-/

namespace Sys2Proof.Machine

def CarMode.code : CarMode → Byte
  | .loading => 0 | .shunt => 1 | .line => 2

def Holder.code : Holder → Byte
  | .none => 0 | .portA => 1 | .portB => 2

def Direction.code : Direction → Byte
  | .none => 0 | .upLine => 1 | .downLine => 2

def LinkState.code : LinkState → Byte
  | .absent => 0 | .up => 1 | .lost => 2

def PosState.code : PosState → Byte
  | .unknown => 0 | .known => 1 | .lost => 2

/-- NONE 0, then the notices of R34 in order (Formats, POSITION). -/
def Notice.code : Notice → Byte
  | .none => 0 | .knownByCommand => 1 | .markMatched => 2 | .markUnexpected => 3 | .markAmbiguous => 4
  | .markIgnored => 5 | .markMissed => 6 | .lostByUncertainty => 7 | .lostByMarks => 8
  | .lostAtLineEnd => 9 | .standstillBegin => 10 | .standstillEnd => 11 | .rollback => 12
  | .pinionFault => 13 | .tachoDisagree => 14

/-- PINION or AXLE (R17). -/
def tachoCode : Tacho → Byte
  | .pinion => 0 | .axle => 1

def SegKind.code : SegKind → Byte
  | .rack => 0 | .adhesion => 1

def PlatformSide.code : PlatformSide → Byte
  | .left => 0 | .right => 1 | .both => 2

/-- A value named with a number carries that number (R184). -/
def CarSide.code : CarSide → Byte
  | .side1 => 1 | .side2 => 2

def LineSide.code : LineSide → Byte
  | .left => 0 | .right => 1

def LoadPhase.code : LoadPhase → Byte
  | .header => 0 | .parameters => 1 | .segments => 2 | .done => 3

def LoadResult.code : LoadResult → Byte
  | .none => 0 | .profileLoaded => 1 | .paramsDefault => 2 | .noSegments => 3 | .noProfile => 4

def ParamSource.code : ParamSource → Byte
  | .memory => 0 | .defaults => 1

def LoadBlock.code : LoadBlock → Byte
  | .header => 0 | .parameters => 1 | .segments => 2

/-- As the Formats chapter numbers them. -/
def LoadReason.code : LoadReason → Byte
  | .memoryBusy => 0 | .validMark => 1 | .headerCrc => 2 | .format => 3 | .lineId => 4 | .address => 5
  | .blockCrc => 6 | .range => 7 | .constraint => 8 | .count => 9 | .overflow => 10 | .gradient => 11
  | .extent => 12 | .contiguity => 13 | .platform => 14 | .markOffset => 15

/-- Numbered in the order of R38. -/
def ConstraintName.code : ConstraintName → Nat
  | .decelOrder => 0 | .pressureOrder => 1 | .valveOrder => 2

def CommitState.code : CommitState → Byte
  | .idle => 0 | .writing _ _ => 1

def LastCommit.code : LastCommit → Byte
  | .none => 0 | .committed => 1 | .failed _ => 2

def Origin.code : Origin → Byte
  | .radio => 0 | .cab => 1

def EntryState.code : EntryState → Byte
  | .active => 0 | .lifting => 1

def StopKind.code : StopKind → Byte
  | .none => 0 | .serviceStop => 1 | .emergencyStop => 2

def Level.code : Level → Byte
  | .normal => 0 | .warning => 1 | .service => 2 | .emergency => 3

/-- SEGMENT, UNPROFILED, RESTRICTION, MODE, RADIO_LOSS, CREEP, CAB_PERMIT (R74). -/
def StaticReason.code : StaticReason → Byte
  | .segment => 0 | .unprofiled => 1 | .restriction => 2 | .mode => 3 | .radioLoss => 4 | .creep => 5
  | .cabPermit => 6

def Governing.code : Governing → Byte
  | .static => 0 | .target _ => 1 | .noPermit => 2

/-- SEGMENT, TABLE_EDGE, RESTRICTION, PERMIT_END (R74). -/
def TargetKind.code : TargetKind → Byte
  | .segment _ => 0 | .tableEdge => 1 | .restriction _ _ => 2 | .permitEnd => 3

/-- NONE 0, HOLD 1, SERVICE 2, FULL 3, EMERGENCY 4 (R184). -/
def Kind.code : Kind → Byte
  | .none => 0 | .hold => 1 | .service _ => 2 | .full => 3 | .emergency => 4

/-- The level shown with a kind: 1..999 with SERVICE, 1,000 with FULL, 0 otherwise (Formats, DEMANDS). -/
def Kind.shownLevel : Kind → Nat
  | .none => 0 | .hold => 0 | .service n => n | .full => 1000 | .emergency => 0

/-- The number of a row in the order of R95. -/
def Row.code : Row → Byte
  | .cabA => 0 | .cabB => 1 | .panel => 2 | .supervision => 3 | .doors => 4 | .radio => 5 | .link => 6
  | .alarm => 7 | .odometry => 8 | .brakeCheck => 9

def AlarmState.code : AlarmState → Byte
  | .clear => 0 | .active => 1 | .deferred => 2 | .confirmed => 3 | .overridden => 4

def Valve.code : Valve → Byte
  | .energized => 0 | .deEnergized => 1

def SpringStatus.code : SpringStatus → Byte
  | .applied => 0 | .releasing => 1 | .released => 2 | .applying => 3

def ServiceOutcome.code : ServiceOutcome → Byte
  | .idle => 0 | .running => 1 | .met => 2 | .missed => 3

def SpringOutcome.code : SpringOutcome → Byte
  | .idle => 0 | .releaseRunning => 1 | .applyRunning => 2 | .met => 3 | .missed => 4

def FaultState.code : FaultState → Byte
  | .none => 0 | .degraded => 1 | .failed => 2

def OutputSource.code : OutputSource → Byte
  | .mapping => 0 | .test => 1 | .abortHold => 2

/-- Numbered 0..3 in the order of R125 (Formats, READ STATUS). -/
def AbortCause.code : AbortCause → Byte
  | .request => 0 | .standstillLost => 1 | .rowEmergency => 2 | .composition => 3

/-- NOT_RUN, PASSED, FAILED, ABORTED (R110). -/
def TestRecord.code : TestRecord → Byte
  | .notRun _ => 0 | .passed => 1 | .failed _ => 2 | .aborted _ => 3

/-- The record's step, or its cause; a mark of none where it has neither (Formats, READ STATUS). -/
def TestRecord.second : TestRecord → Byte
  | .notRun true => AbortCause.composition.code
  | .notRun false => 0xFF
  | .passed => 0xFF
  | .failed n => BitVec.ofNat 8 n
  | .aborted c => c.code

def DoorState.code : DoorState → Byte
  | .closedLocked => 0 | .unlocking => 1 | .released => 2 | .opening => 3 | .opened => 4 | .warning => 5
  | .closing => 6 | .locking => 7 | .obstructed => 8 | .fault => 9 | .isolated => 10

def FaultCause.code : FaultCause → Byte
  | .unlockTime => 0 | .openTime => 1 | .closeTime => 2 | .lockTime => 3 | .atReset => 4
  | .atDeisolation => 5

/-- The locked loop is closed or open (R130). -/
def loopCode (closed : Bool) : Byte := if closed then 0 else 1

def Coverage.code : Coverage → Byte
  | .noZone => 0 | .covered => 1 | .silent => 2 | .lost => 3 | .dark => 4

/-- As the Formats chapter codes the results. -/
def BulletinResult.code : BulletinResult → Byte
  | .applied => 0 | .refusedFull => 1 | .refusedShorten => 2 | .refusedDirection => 3
  | .refusedMode => 4 | .refusedInvalid => 5

def Priority.code : Priority → Byte
  | .normal => 0 | .urgent => 1

/-- The uplink window is CLOSED or OPEN (R150). -/
def windowCode (w : Option Window) : Byte := if w.isSome then 1 else 0

/-- As the Formats chapter codes the statuses. -/
def Status.code : Status → Byte
  | .ok => 0x00 | .accepted => 0x01 | .loading => 0x02 | .unknownCommand => 0x03 | .badArgument => 0x04
  | .notAuthority => 0x05 | .notPermitted => 0x06 | .notStandstill => 0x07 | .wrongMode => 0x08
  | .busy => 0x09 | .full => 0x0A | .noPlatform => 0x0B | .notFound => 0x0C | .condition => 0x0D

/-- As the Formats chapter codes the conditions. -/
def Condition.code : Condition → Byte
  | .profileNotLoaded => 0x01 | .positionNotKnown => 0x02 | .noComposition => 0x03
  | .brakeTestNotPassed => 0x04 | .brakeFault => 0x05 | .noLineId => 0x06 | .noDirection => 0x07
  | .radioPermitPresent => 0x08 | .coverageNotLost => 0x09 | .rowEmergency => 0x0A
  | .springNotApplied => 0x0B | .noAlarm => 0x0C | .latchSet => 0x0D | .noTest => 0x0E
  | .doorNotHeld => 0x0F

/-- The body of an answer: code, status, detail, payload (R185). -/
def Held.body (h : Held) : List Byte :=
  h.code :: h.reply.status.code :: (match h.reply.condition with | none => 0 | some c => c.code) ::
    h.reply.payload

/-- The bytes that a port is sending, none while it holds no request (R173). -/
def answerOnLine (r : PortRec) : Option (List Byte) := r.held.map fun h => telegramBytes h.body

end Sys2Proof.Machine
end

