-- ==== Sys2Proof/Machine/Operands.lean ====
section
/-!
DEFINITION. The arguments of the requests, read from the bytes of the body: each enumerated argument
by its code, `none` where the byte is no code of it (R184); and the authority test every command's
rule makes first (R175).
-/

namespace Sys2Proof.Machine

/-- A yes or a no (R184). -/
def flagArg : Nat → Option Bool
  | 0 => some false
  | 1 => some true
  | _ => none

/-- A direction: NONE 0, UP_LINE 1, DOWN_LINE 2 (R184). -/
def directionArg : Nat → Option Direction
  | 0 => some .none
  | 1 => some .upLine
  | 2 => some .downLine
  | _ => none

/-- The mode asked for by SELECT MODE: SHUNT 1 or LINE 2 (R2). -/
def modeArg : Nat → Option CarMode
  | 1 => some .shunt
  | 2 => some .line
  | _ => none

/-- NORMAL 0, REVERSED 1 (R11). -/
def orientationArg : Nat → Option Orientation
  | 0 => some .normal
  | 1 => some .reversed
  | _ => none

/-- TRANSMIT 0, LISTEN 1 (R11). -/
def roleArg : Nat → Option RadioRole
  | 0 => some .transmit
  | 1 => some .listen
  | _ => none

/-- LEFT 0, RIGHT 1 (Formats, DOOR RELEASE). -/
def lineSideArg : Nat → Option LineSide
  | 0 => some .left
  | 1 => some .right
  | _ => none

/-- The sides named by DOOR CLOSE, LEFT 0, RIGHT 1, ALL 2: whether LEFT is among them, and RIGHT. -/
def closeSidesArg : Nat → Option (Bool × Bool)
  | 0 => some (true, false)
  | 1 => some (false, true)
  | 2 => some (true, true)
  | _ => none

/-- A door carries its number (R184). -/
def doorArg : Nat → Option DoorId
  | 1 => some .d1
  | 2 => some .d2
  | 3 => some .d3
  | 4 => some .d4
  | _ => none

/-- SIDE_1 1, SIDE_2 2: a value named with a number carries that number (R38, R184). -/
def carSideArg : Nat → Option CarSide
  | 1 => some .side1
  | 2 => some .side2
  | _ => none

/-- RACK 0, ADHESION 1 (Formats). -/
def segKindArg : Nat → Option SegKind
  | 0 => some .rack
  | 1 => some .adhesion
  | _ => none

/-- A segment's platform side: LEFT 0, RIGHT 1, BOTH 2 (Formats). -/
def platformSideArg : Nat → Option PlatformSide
  | 0 => some .left
  | 1 => some .right
  | 2 => some .both
  | _ => none

/-- A counter, in the order of R153. -/
def counterArg : Nat → Option Counter
  | 0 => some .goodFrames | 1 => some .beacons | 2 => some .bulletins | 3 => some .duplicates
  | 4 => some .crcErrors | 5 => some .shortFrames | 6 => some .longFrames | 7 => some .longBadFrames
  | 8 => some .foreignFrames | 9 => some .notAddressed | 10 => some .inboxDrops
  | 11 => some .ackDrops
  | _ => none

/-- The tables of READ TABLE (R178). -/
inductive TableName where
  | segments | parameters | restrictions | permit | stops | demands | doors | position
  | radioCounters | inbox | ports
  deriving DecidableEq, Repr

/-- A table, in the order of R178. -/
def tableArg : Nat → Option TableName
  | 0 => some .segments | 1 => some .parameters | 2 => some .restrictions | 3 => some .permit
  | 4 => some .stops | 5 => some .demands | 6 => some .doors | 7 => some .position
  | 8 => some .radioCounters | 9 => some .inbox | 10 => some .ports
  | _ => none

/-- An event set of three bytes; `none` where it names a kind that does not exist (R181, R184). -/
def eventSetArg (v : Nat) : Option EventSet := if v < 2 ^ 18 then some (BitVec.ofNat 18 v) else none

/-- Whether a port is the authority holder (R5). -/
def isHolder (p : Port) (s : State) : Bool :=
  match p, s.mode.holder with
  | .a, .portA => true
  | .b, .portB => true
  | _, _ => false

/-- An answer that carries no payload. -/
def plainReply (st : Status) : Reply := ⟨st, none, []⟩

/-- CONDITION with its code (R174). -/
def conditionReply (c : Condition) : Reply := ⟨.condition, some c, []⟩

/-- OK with a payload (R185). -/
def okReply (payload : List Byte) : Reply := ⟨.ok, none, payload⟩

/-- The refusal of a holder-only request from a port that is not the holder (R175). -/
def notHolderReply : Port → Reply
  | .a => plainReply .notAuthority
  | .b => plainReply .notAuthority
  | .c => plainReply .notPermitted

end Sys2Proof.Machine
end

