-- ==== Sys2Proof/Machine/Curves.lean ====
section
/-!
DEFINITION. The arithmetic of the Speed Supervisor: gravity, gradient limits, net deceleration and the
braking curve, exact in integers and rounded toward safety (R76 to R79, R85 to R87).
-/

namespace Sys2Proof.Machine

/-- A quotient rounded up. -/
def ceilDiv (n d : Nat) : Nat := (n + (d - 1)) / d

/-- The gravity component G(x), in mm/s², for 0..300 per mille (R77). -/
def gravity (x : Nat) : Nat :=
  if x < 100 then ceilDiv (976 * x) 100
  else if x < 200 then 976 + ceilDiv ((1924 - 976) * (x - 100)) 100
  else if x < 300 then 1924 + ceilDiv ((2818 - 1924) * (x - 200)) 100
  else 2818

/-- The gradient limit GLC(g_eff) from the seven points, the quotient rounded toward minus infinity (R78). -/
def gradientLimit (glc : List Nat) (g : Int) : Nat :=
  let i := ((g + 300) / 100).toNat
  let a : Int := 100 * i - 300
  let lo : Int := glc.getD i 0
  let hi : Int := glc.getD (i + 1) 0
  if g = a then lo.toNat else (lo + (hi - lo) * (g - a) / 100).toNat

/-- The segment static limit (R79). -/
def segmentLimit (p : Params) (dir : Direction) (g : Segment) : Nat :=
  match dir with
  | .upLine => min g.lineLimit (gradientLimit p.glc g.gradient)
  | .downLine => min g.lineLimit (gradientLimit p.glc (-g.gradient))
  | .none => min g.lineLimit (min (gradientLimit p.glc g.gradient) (gradientLimit p.glc (-g.gradient)))

/-- The magnitude of the descent that a stored gradient is met as: 0 for a level or a climb; with no
selected direction every gradient is a descent (R76, R86). -/
def descentOf (dir : Direction) (gradient : Int) : Nat :=
  match dir with
  | .upLine => (-gradient).toNat
  | .downLine => gradient.toNat
  | .none => gradient.natAbs

/-- The brake deceleration of a segment kind (R85). -/
def brakeDecel (p : Params) (f : FaultState) (k : SegKind) : Nat :=
  match f, k with
  | .none, .rack => p.aRack
  | .none, .adhesion => p.aAdh
  | _, .rack => p.aRackDeg
  | _, .adhesion => p.aAdhDeg

/-- The net deceleration over the approach stretch from `lo` to `hi`, both included (R86). -/
def netDecel (p : Params) (f : FaultState) (dir : Direction) (table : List Segment) (lo hi : Int) : Nat :=
  let met := table.filter fun g => overlaps g.start g.upEnd ⟨lo, hi⟩
  let terms := met.map fun g => brakeDecel p f g.kind - gravity (descentOf dir g.gradient)
  let beyond := if hasGap lo hi table then [brakeDecel p f .adhesion - Config.steepestAdhesion] else []
  leastOf 0 (terms ++ beyond)

/-- One bit of a square root: `root` plus 2^`bit` where its square does not exceed `n`. -/
def sqrtBits (n : Nat) : Nat → Nat → Nat
  | 0, root => root
  | bit + 1, root =>
    if (root + 2 ^ bit) * (root + 2 ^ bit) ≤ n then sqrtBits n bit (root + 2 ^ bit)
    else sqrtBits n bit root

/-- The square root rounded down: the integer whose square does not exceed `n` (R87). -/
def floorSqrt (n : Nat) : Nat := sqrtBits n (n.log2 / 2 + 1) 0

/-- The reaction distance, rounded up (R87). -/
def reactionDistance (v tB : Nat) : Nat := ceilDiv (v * tB) 10000

/-- The curve speed for a target speed, a net deceleration and an effective distance (R87). -/
def curveSpeed (vTarget aNet dEff : Nat) : Nat := floorSqrt (vTarget * vTarget + 2 * aNet * dEff)

/-- The emergency margin as used (R39). -/
def emergencyMargin (p : Params) : Nat := max p.mEb (p.mSb + 10)

/-- T_LOST as used, in s (R39). -/
def lostTime (p : Params) : Nat := max p.tLost (p.tSilence + 2)

end Sys2Proof.Machine
end

