-- ==== Sys2Proof/Machine/TableOps.lean ====
section
/-!
DEFINITION. The Restriction and Permit Table: a set and a lift of a restriction (R56 to R61), the
removal of lifted ones (R60), the permit and its shortening test (R65 to R68), the stop table (R71) and
the RADIO row (R72).
-/

namespace Sys2Proof.Machine

/-! ### The restriction list -/

/-- An entry put where its start places it, after any entries with that start (R56). -/
def insertEntry (r : Restriction) : List Restriction → List Restriction
  | [] => [r]
  | x :: rest => if x.start ≤ r.start then x :: insertEntry r rest else r :: x :: rest

/-- Whether an entry is the ACTIVE one of a key. -/
def Restriction.activeOf (k : Key) (r : Restriction) : Bool := r.state = .active && r.key = k

/-- The list without the ACTIVE entry of a key. -/
def dropActive (k : Key) (l : List Restriction) : List Restriction := l.filter fun r => !r.activeOf k

/-- The list with the ACTIVE entry of a key replaced where it stands. -/
def replaceActive (k : Key) (new : Restriction) (l : List Restriction) : List Restriction :=
  l.map fun r => if r.activeOf k then new else r

/-- The list with the ACTIVE entry of a key turned LIFTING (R58, R59). -/
def liftActive (k : Key) (l : List Restriction) : List Restriction :=
  l.map fun r => if r.activeOf k then { r with state := .lifting } else r

/-- Case 3 of R58: the entry is not occupied, or the set tightens it. `occupied` says whether the
entry's extent overlaps the envelope. -/
def mayReplace (occupied : Bool) (old : Restriction) (start stop limit : Nat) : Bool :=
  !occupied || (decide (limit ≤ old.limit) && decide (start ≤ old.start) && decide (old.stop ≤ stop))

/-- The list after a set by the cases of R58, `none` for the outcome FULL. -/
def setEntries (occupied : Restriction → Bool) (k : Key) (start stop limit : Nat)
    (l : List Restriction) : Option (List Restriction) :=
  let new : Restriction := ⟨k, start, stop, limit, .active⟩
  match l.find? (·.activeOf k) with
  | none => if l.length < Config.restrictionSlots then some (insertEntry new l) else none
  | some old =>
    if mayReplace (occupied old) old start stop limit then
      if start = old.start then some (replaceActive k new l) else some (insertEntry new (dropActive k l))
    else if l.length < Config.restrictionSlots then some (insertEntry new (liftActive k l))
    else none

/-- The list after a lift (R59). -/
def liftEntries (occupied : Restriction → Bool) (k : Key) (l : List Restriction) : List Restriction :=
  match l.find? (·.activeOf k) with
  | none => l
  | some old => if occupied old then liftActive k l else dropActive k l

/-- The list as replaced, with the RESTRICTIONS event where it changes (R61). -/
def putRestrictions (l : List Restriction) (s : State) : State :=
  raiseIf (!(l = s.limits.restrictions)) .restrictions
    { s with limits := { s.limits with restrictions := l } }

/-- A set of a restriction with its outcome: `true` for SET, `false` for FULL (R58, R61). -/
def setRestriction (k : Key) (start stop limit : Nat) (s : State) : State × Bool :=
  match setEntries (entryOverlaps s) k start stop limit s.limits.restrictions with
  | none => (s, false)
  | some l => (putRestrictions l s, true)

/-- A lift of a restriction (R59, R61). -/
def liftRestriction (k : Key) (s : State) : State :=
  putRestrictions (liftEntries (entryOverlaps s) k s.limits.restrictions) s

/-- The LIFTING entries that the envelope has left are removed (R60). -/
def removeLifted (s : State) : State :=
  putRestrictions (s.limits.restrictions.filter fun r => !(r.state = .lifting) || entryOverlaps s r) s

/-- Whether the fields of a restriction are in range (R62, R64). -/
def restrictionInRange (id start stop limit : Nat) : Bool :=
  1 ≤ id && id ≤ 255 && start ≤ 199999 && start < stop && stop ≤ Config.lineEnd && limit ≤ Config.maxSpeed

/-! ### The permit -/

/-- The permit made present or replaced, with its event (R65). -/
def putPermit (p : Permit) (s : State) : State :=
  raise .permit { s with limits := { s.limits with permit := some p } }

/-- The permit made absent, with its event where one was present (R65). -/
def dropPermit (s : State) : State :=
  if s.limits.permit.isSome then raise .permit { s with limits := { s.limits with permit := none } } else s

/-- Whether a permit end is nearer than another in a direction (R66). -/
def nearer (dir : Direction) (new old : Nat) : Bool :=
  match dir with
  | .downLine => old < new
  | _ => new < old

/-- The distance of a point ahead of a safe front in a direction (R67, R83). -/
def distanceAhead (dir : Direction) (front point : Int) : Int :=
  match dir with
  | .downLine => front - point
  | _ => point - front

/-- The net deceleration over the positions between a safe front and a point (R86). -/
def approachDecel (s : State) (front point : Int) : Nat :=
  netDecel s.store.params s.drive.faultState s.mode.direction s.store.segments
    (min front point) (max front point)

/-- The shortening test of a permit end (R67). While no envelope is formed, which LINE does not allow,
it fails (notes/assumptions/16.md). -/
def shorteningPasses (s : State) (stop : Nat) : Bool :=
  match envelopeSpan s with
  | none => false
  | some sp =>
    let front := safeFront s.mode.direction sp
    let d := distanceAhead s.mode.direction front stop
    if (Config.targetWindow : Int) < d then true
    else
      let dEff := (d - reactionDistance s.odo.speed s.store.params.tB).toNat
      let point : Int := if d < 0 then front else stop
      s.odo.speed ≤ curveSpeed 0 (approachDecel s front point) dEff

/-! ### The stop table and its row -/

/-- The stop entry of a station, 1..31. -/
def stopOf (s : State) (station : Nat) : StopKind := s.limits.stops.getD (station - 1) .none

/-- The stronger of two stop entries (R71). -/
def StopKind.stronger (a b : StopKind) : StopKind :=
  match a, b with
  | .emergencyStop, _ => .emergencyStop
  | _, .emergencyStop => .emergencyStop
  | .serviceStop, _ => .serviceStop
  | .none, x => x

/-- The strongest entry of the stop table (R72). -/
def strongestStop (l : List StopKind) : StopKind := l.foldl StopKind.stronger .none

/-- The RADIO row (R72). -/
def radioRow (k : StopKind) (still : Bool) : Kind :=
  match k with
  | .none => .none
  | .serviceStop => if still then .hold else .full
  | .emergencyStop => if still then .hold else .emergency

/-- The RADIO row formed (R72). -/
def formRadioRow (s : State) : State :=
  writeRows { s.dem.rows with radio := radioRow (strongestStop s.limits.stops) s.odo.standstill } s

/-- The stop table replaced, with the RESTRICTIONS event where it changes, and the row formed (R71, R72). -/
def putStops (l : List StopKind) (s : State) : State :=
  formRadioRow (raiseIf (!(l = s.limits.stops)) .restrictions
    { s with limits := { s.limits with stops := l } })

/-- The stop entry of one station replaced. -/
def putStop (station : Nat) (k : StopKind) (s : State) : State :=
  putStops (s.limits.stops.set (station - 1) k) s

end Sys2Proof.Machine
end

