-- ==== Sys2Proof/Machine/RadioOps.lean ====
section
/-!
DEFINITION. The Valley Radio Unit: frame classes and counters (R151 to R153), the current zone, the silence
timer and the coverage (R155 to R157), bulletins (R159 to R161), the inbox (R162 to R164), and the
acknowledgements, reports and windows (R165 to R169).
-/

namespace Sys2Proof.Machine

/-! ### Counters -/

/-- The value of a counter. -/
def Counters.get (c : Counters) : Counter → Nat
  | .goodFrames => c.goodFrames
  | .beacons => c.beacons
  | .bulletins => c.bulletins
  | .duplicates => c.duplicates
  | .crcErrors => c.crcErrors
  | .shortFrames => c.shortFrames
  | .longFrames => c.longFrames
  | .longBadFrames => c.longBadFrames
  | .foreignFrames => c.foreignFrames
  | .notAddressed => c.notAddressed
  | .inboxDrops => c.inboxDrops
  | .ackDrops => c.ackDrops

/-- The counters with one of them set. -/
def Counters.put (k : Counter) (v : Nat) (c : Counters) : Counters :=
  match k with
  | .goodFrames => { c with goodFrames := v }
  | .beacons => { c with beacons := v }
  | .bulletins => { c with bulletins := v }
  | .duplicates => { c with duplicates := v }
  | .crcErrors => { c with crcErrors := v }
  | .shortFrames => { c with shortFrames := v }
  | .longFrames => { c with longFrames := v }
  | .longBadFrames => { c with longBadFrames := v }
  | .foreignFrames => { c with foreignFrames := v }
  | .notAddressed => { c with notAddressed := v }
  | .inboxDrops => { c with inboxDrops := v }
  | .ackDrops => { c with ackDrops := v }

/-- The counters in the order of R153. -/
def Counters.toList (c : Counters) : List Nat :=
  [c.goodFrames, c.beacons, c.bulletins, c.duplicates, c.crcErrors, c.shortFrames, c.longFrames,
   c.longBadFrames, c.foreignFrames, c.notAddressed, c.inboxDrops, c.ackDrops]

/-- The state with its radio changed by a function. -/
def updRadio (f : Radio → Radio) (s : State) : State := { s with radio := f s.radio }

/-- A counter raised by one, with COUNTER_ALERT where it rises to 32,768 (R153). -/
def count (k : Counter) (s : State) : State :=
  let v := s.radio.counters.get k
  raiseIf (satInc v = Config.counterAlert && !(satInc v = v)) .counterAlert
    (updRadio (fun r => { r with counters := r.counters.put k (satInc v) }) s)

/-! ### Zone, silence and coverage -/

/-- The zone and the DARK condition of where the car stands (R155). -/
def zoneHere (s : State) : Nat × Bool :=
  match s.odo.posState with
  | .unknown => (0, false)
  | _ =>
    match carSegment s with
    | none => (0, false)
    | some g => (g.zone, g.dark)

/-- The coverage state (R157). -/
def coverageOf (s : State) : Coverage :=
  if s.odo.posState = .unknown ∨ carSegment s = none then .noZone
  else if s.radio.dark then .dark
  else if s.radio.zone = 0 then .noZone
  else if s.radio.silenceCount < s.store.params.tSilence then .covered
  else if s.radio.silenceCount < lostTime s.store.params then .silent
  else .lost

/-- The coverage formed anew, with the RADIO event of a change (R157). -/
def formCoverage (s : State) : State :=
  let c := coverageOf s
  raiseIf (!(c = s.radio.coverage)) .radio (updRadio (fun r => { r with coverage := c }) s)

/-- The silence timer at 0: running with a fresh tick, or held (R156). -/
def Radio.silence (running : Bool) (r : Radio) : Radio :=
  { r with silenceCount := 0, silenceRunning := running, silenceTick := 0 }

/-- The silence timer at a change of the zone or of DARK, to these: at 0 in every row of R156, held in zone 0 and in
DARK, and else started or restarted. -/
def silenceAfter (zone : Nat) (dark : Bool) (r : Radio) : Radio := r.silence (!(zone = 0) && !dark)

/-- The current zone and DARK formed anew, with the timer, the coverage and the events that follow a
change of them (R155 to R157). -/
def formZone (s : State) : State :=
  let z := zoneHere s
  if z = (s.radio.zone, s.radio.dark) then s
  else formCoverage (raiseIf (!(z.1 = s.radio.zone)) .radio
    (updRadio (fun r => { silenceAfter z.1 z.2 r with zone := z.1, dark := z.2 }) s))

/-! ### The uplink -/

/-- The bytes of a frame that the part sends (Formats). -/
def frameBytes (lineId station zone : Nat) (kind : Byte) (serial train : Nat) (body : List Byte) : List Byte :=
  let covered := natField 1 lineId ++ natField 1 station ++ natField 1 zone ++ [kind] ++
    natField 2 serial ++ natField 2 train ++ body
  covered ++ crcField covered

/-- The train number of the composition. -/
def trainOf (s : State) : Nat :=
  match s.mode.composition with
  | none => 0
  | some c => c.train

/-- An acknowledgement frame (R169). -/
def ackFrame (e : BulletinEntry) (s : State) : List Byte :=
  frameBytes s.store.lineId e.station s.radio.zone 0x20 e.serial (trainOf s) [e.result.code]

/-- A driven kind with its level, as the layouts show it (Formats). -/
def kindField (k : Kind) : List Byte := k.code :: natField 2 k.shownLevel

/-- The last applied bulletin: station, 00 for none, and serial (Formats). -/
def lastAppliedField (l : Option (Nat × Nat)) : List Byte :=
  match l with
  | none => 0 :: absentField 2
  | some (station, serial) => natField 1 station ++ natField 2 serial

/-- The body of a position report (R169). -/
def reportBody (s : State) : List Byte :=
  (match envelope s with
    | none => absentSigned 3
    | some e => intField 3 (frontOf s.mode.direction e)) ++
  natField 2 s.odo.uncertainty ++ natField 2 s.odo.speed ++ [s.mode.direction.code, s.mode.mode.code] ++
  optField 3 (s.limits.permit.map (·.endPos)) ++ kindField s.dem.driven ++ [loopCode s.doors.loopClosed] ++
  lastAppliedField s.radio.lastApplied

/-- A position report frame (R169). The Formats chapter names the station, the serial, the zone and the train number
of its header; that its line id is the store's, as in an acknowledgement, is the model's choice
(notes/assumptions/20.md). -/
def reportFrame (s : State) : List Byte :=
  frameBytes s.store.lineId 0 s.radio.zone 0x21 0 (trainOf s) (reportBody s)

/-- The transmission that waits to be begun, if any (R168). -/
def waitingFrame (s : State) : Option Transmission :=
  match s.radio.acks with
  | e :: _ => some ⟨.ack e true, ackFrame e s⟩
  | [] => if s.radio.reportDue then some ⟨.report, reportFrame s⟩ else none

/-- A transmission is begun where the window is open, none is in progress and fewer than two frames have
been begun (R168). -/
def beginTransmission (s : State) : State :=
  match s.radio.window, s.radio.transmission with
  | some w, none =>
    if w.framesBegun < 2 then
      match waitingFrame s with
      | none => s
      | some t => updRadio (fun r =>
          { r with transmission := some t, window := some { w with framesBegun := w.framesBegun + 1 } }) s
    else s
  | _, _ => s

/-- Whether a composition with role TRANSMIT is present (R165, R167). -/
def transmits (m : ModeUnit) : Bool :=
  match m.composition with
  | some c => c.role = .transmit
  | none => false

/-- An acknowledgement offered to the queue (R165). -/
def offerAck (e : BulletinEntry) (s : State) : State :=
  if transmits s.mode then
    if s.radio.acks.length < Config.ackSlots then
      beginTransmission (updRadio (fun r => { r with acks := r.acks ++ [e] }) s)
    else count .ackDrops s
  else s

/-- The uplink window opened by a beacon (R167). -/
def openWindow (s : State) : State :=
  if transmits s.mode && s.radio.window.isNone && s.radio.transmission.isNone then
    beginTransmission (updRadio (fun r => { r with window := some ⟨0, 0⟩ }) s)
  else s

/-! ### The inbox -/

/-- The number of free slots of an inbox (R162). -/
def freeSlots (inbox : List Message) : Nat := Config.inboxSlots - inbox.length

/-- The inbox replaced, the free count following it (R162). -/
def Radio.withInbox (inbox : List Message) (r : Radio) : Radio :=
  { r with inbox := inbox, freeCount := freeSlots inbox }

/-- A message stored (R162, R164). -/
def storeMessage (m : Message) (s : State) : State :=
  let old := s.radio.freeCount
  let s := raise .inbox (updRadio (fun r =>
    { r.withInbox (r.inbox ++ [m]) with arrivalCount := (r.arrivalCount + 1) % 256 }) s)
  raiseIf (decide (s.store.params.inboxLow < old) && decide (s.radio.freeCount ≤ s.store.params.inboxLow))
    .inboxLow s

/-- The messages in the order in which takes return them (R163). -/
def inboxOrder (inbox : List Message) : List Message :=
  inbox.filter (fun m => m.priority = .urgent) ++ inbox.filter (fun m => !(m.priority = .urgent))

/-- A priority from its code (Formats). -/
def priorityArg : Nat → Option Priority
  | 0 => some .normal
  | 1 => some .urgent
  | _ => none

/-! ### Bulletins -/

/-- The kinds of bulletin (R159). -/
inductive BulletinKind where
  | restrictionSet | restrictionLift | permitGrant | permitRevoke | stopOrder | stopRelease | text
  deriving DecidableEq, Repr

/-- A received frame of good CRC. -/
structure Frame where
  header : FrameHeader
  kind : Byte
  body : List Byte
  deriving DecidableEq, Repr

/-- The bulletin kind of a frame's kind code (Formats). -/
def bulletinKindOf (k : Byte) : Option BulletinKind :=
  if k = 0x10 then some .restrictionSet
  else if k = 0x11 then some .restrictionLift
  else if k = 0x12 then some .permitGrant
  else if k = 0x13 then some .permitRevoke
  else if k = 0x14 then some .stopOrder
  else if k = 0x15 then some .stopRelease
  else if k = 0x16 then some .text
  else none

/-- A RESTRICTION_SET applied (R64). -/
def applyRestrictionSet (h : FrameHeader) (b : List Byte) (s : State) : State × BulletinResult :=
  if b.length = 9 then
    let id := byteAt b 0
    let start := word24 b 1
    let stop := word24 b 4
    let limit := word16 b 7
    if restrictionInRange id start stop limit then
      let r := setRestriction ⟨.radio, h.station.toNat, id⟩ start stop limit s
      (r.1, if r.2 then .applied else .refusedFull)
    else (s, .refusedInvalid)
  else (s, .refusedInvalid)

/-- A RESTRICTION_LIFT applied (R64). -/
def applyRestrictionLift (h : FrameHeader) (b : List Byte) (s : State) : State × BulletinResult :=
  if b.length = 1 ∧ 1 ≤ byteAt b 0 then
    (liftRestriction ⟨.radio, h.station.toNat, byteAt b 0⟩ s, .applied)
  else (s, .refusedInvalid)

/-- A PERMIT_GRANT applied (R66, R161). -/
def applyPermitGrant (h : FrameHeader) (b : List Byte) (s : State) : State × BulletinResult :=
  if b.length = 4 ∧ h.train ≠ 0 then
    let stop := word24 b 0
    match directionArg (byteAt b 3) with
    | none => (s, .refusedInvalid)
    | some .none => (s, .refusedInvalid)
    | some dir =>
      if Config.lineEnd < stop then (s, .refusedInvalid)
      else if s.mode.mode ≠ .line then (s, .refusedMode)
      else if dir ≠ s.mode.direction then (s, .refusedDirection)
      else
        let taken := match s.limits.permit with
          | none => true
          | some p => !nearer dir stop p.endPos || shorteningPasses s stop
        if taken then
          (putPermit ⟨.radio, h.station.toNat, h.serial.toNat, stop, dir⟩ s, .applied)
        else (s, .refusedShorten)
  else (s, .refusedInvalid)

/-- A PERMIT_REVOKE applied (R68). -/
def applyPermitRevoke (b : List Byte) (s : State) : State × BulletinResult :=
  if b.length = 0 then (dropPermit s, .applied) else (s, .refusedInvalid)

/-- A STOP_ORDER applied (R71). -/
def applyStopOrder (h : FrameHeader) (b : List Byte) (s : State) : State × BulletinResult :=
  let station := h.station.toNat
  if b = [1] then (putStop station ((stopOf s station).stronger .serviceStop) s, .applied)
  else if b = [2] then (putStop station ((stopOf s station).stronger .emergencyStop) s, .applied)
  else (s, .refusedInvalid)

/-- A STOP_RELEASE applied (R71). -/
def applyStopRelease (h : FrameHeader) (b : List Byte) (s : State) : State × BulletinResult :=
  if b.length = 0 then (putStop h.station.toNat .none s, .applied) else (s, .refusedInvalid)

/-- A TEXT applied (R162). -/
def applyText (h : FrameHeader) (b : List Byte) (s : State) : State × BulletinResult :=
  match priorityArg (byteAt b 0) with
  | none => (s, .refusedInvalid)
  | some p =>
    if 1 ≤ byteAt b 1 ∧ b.length = 2 + byteAt b 1 then
      if 0 < s.radio.freeCount then
        (storeMessage ⟨h.station.toNat, h.serial.toNat, p, decide (96 < byteAt b 1),
          (b.drop 2).take 96, s.radio.arrivalCount⟩ s, .applied)
      else (count .inboxDrops s, .refusedFull)
    else (s, .refusedInvalid)

/-- A bulletin applied by its kind, with its result (R161). -/
def applyBulletin (k : BulletinKind) (h : FrameHeader) (b : List Byte) (s : State) :
    State × BulletinResult :=
  match k with
  | .restrictionSet => applyRestrictionSet h b s
  | .restrictionLift => applyRestrictionLift h b s
  | .permitGrant => applyPermitGrant h b s
  | .permitRevoke => applyPermitRevoke b s
  | .stopOrder => applyStopOrder h b s
  | .stopRelease => applyStopRelease h b s
  | .text => applyText h b s

/-- The recent bulletin list with an entry added (R160). -/
def addRecent (e : BulletinEntry) (l : List BulletinEntry) : List BulletinEntry :=
  (if l.length < Config.recentSlots then l else l.drop 1) ++ [e]

/-- A GOOD bulletin handled (R159). -/
def handleBulletin (k : BulletinKind) (h : FrameHeader) (b : List Byte) (s : State) : State :=
  let station := h.station.toNat
  let serial := h.serial.toNat
  match s.radio.recent.find? fun e => e.station = station && e.serial = serial with
  | some e => offerAck e (count .duplicates s)
  | none =>
    let r := applyBulletin k h b (count .bulletins s)
    let e : BulletinEntry := ⟨station, serial, r.2⟩
    offerAck e (updRadio (fun x => { x with
      recent := addRecent e x.recent
      lastApplied := if r.2 = .applied then some (station, serial) else x.lastApplied }) r.1)

/-- A GOOD beacon handled (R158). -/
def handleBeacon (h : FrameHeader) (b : List Byte) (s : State) : State :=
  match b with
  | [flag] =>
    let s := count .beacons s
    if h.zone.toNat = s.radio.zone ∧ s.radio.zone ≠ 0 then
      let s := updRadio (fun r => if r.silenceRunning then r.silence true else r) s
      let s := formCoverage s
      if flag.getLsbD 0 then openWindow s else s
    else s
  | _ => s

/-! ### Receiving a frame -/

/-- The classes a frame of good CRC and 10..128 bytes may have (R152). -/
inductive AddressClass where
  | foreign | notAddressed | good
  deriving DecidableEq, Repr

/-- Whether a number is that of a station or a zone: 1..31 (R152). -/
def inThirtyOne (b : Byte) : Bool := 1 ≤ b.toNat && b.toNat ≤ 31

/-- The class of a frame by its header (R152, orders 5 to 8). -/
def addressClass (s : State) (f : Frame) : AddressClass :=
  let h := f.header
  if h.lineId.toNat ≠ s.store.lineId ∨ s.store.lineId = 0 ∨ !inThirtyOne h.station ∨ !inThirtyOne h.zone then
    .foreign
  else if h.train ≠ 0 ∧ s.mode.composition.all (fun c => c.train ≠ h.train.toNat) then .notAddressed
  else if h.train = 0 ∧ (f.kind = 0x14 ∨ f.kind = 0x15) ∧ h.zone.toNat ≠ s.radio.zone then .notAddressed
  else .good

/-- A GOOD frame handled by its kind (R152, R158, R159). -/
def handleGood (f : Frame) (s : State) : State :=
  if f.kind = 0x01 then handleBeacon f.header f.body s
  else
    match bulletinKindOf f.kind with
    | some k => handleBulletin k f.header f.body s
    | none => s

/-- A frame of good CRC delivered: lost while the part transmits (R151), else classified, counted and
handled (R152, R153). -/
def receiveFrame (f : Frame) (s : State) : State :=
  if s.radio.transmission.isSome then s
  else if 118 < f.body.length then count .longFrames s
  else
    match addressClass s f with
    | .foreign => count .foreignFrames s
    | .notAddressed => count .notAddressed s
    | .good => handleGood f (count .goodFrames s)

/-- A frame read from its bytes, 10 of them at least (Formats). -/
def parseFrame (bytes : List Byte) : Frame where
  header := ⟨bytes.getD 0 0, bytes.getD 1 0, bytes.getD 2 0, BitVec.ofNat 16 (word16 bytes 4),
    BitVec.ofNat 16 (word16 bytes 6)⟩
  kind := bytes.getD 3 0
  body := (bytes.drop 8).take (bytes.length - 10)

/-- A frame delivered whole, by its bytes (R151, R152). -/
def receiveBytes (bytes : List Byte) (s : State) : State :=
  if s.radio.transmission.isSome then s
  else if bytes.length < 10 then count .shortFrames s
  else if crcGood bytes then receiveFrame (parseFrame bytes) s
  else if 128 < bytes.length then count .longBadFrames s
  else count .crcErrors s

end Sys2Proof.Machine
end

