-- ==== Sys2Proof/Machine/OdoOps.lean ====
section
/-!
DEFINITION. The Odometry Unit: distances, position and uncertainty (R19, R20, R25), speed (R22), source
(R21), marks (R26, R27), rollback and pinion fault (R30 to R32), the cross-check (R33), and what the
beginning and the end of standstill bring with them (R23).
-/

namespace Sys2Proof.Machine

/-- The state with its odometry changed by a function. -/
def updOdo (f : Odometry → Odometry) (s : State) : State := { s with odo := f s.odo }

/-- A POSITION event with its notice (R34). -/
def notice (n : Notice) (s : State) : State := raise .position (updOdo (fun o => { o with notice := n }) s)

/-- A notice where a condition holds. -/
def noticeIf (c : Bool) (n : Notice) (s : State) : State := if c then notice n s else s

/-! ### Position -/

/-- The count of a tachometer in the current interval. -/
def Odometry.countOf (o : Odometry) : Tacho → Int
  | .pinion => o.pinionCount
  | .axle => o.axleCount

/-- The window of a tachometer. -/
def Odometry.windowOf (o : Odometry) : Tacho → Quad Int
  | .pinion => o.pinionWindow
  | .axle => o.axleWindow

/-- The interval distance of a count in mm, rounded toward zero (R19). -/
def intervalDistance (p : Params) (t : Tacho) (n : Int) : Int :=
  match t with
  | .pinion => (n * p.toothPitch).tdiv 4
  | .axle => (n * p.wheelCircumference).tdiv p.axlePulses

/-- The remainder's units per pulse (R20). -/
def unitsPerPulse (p : Params) : Tacho → Nat
  | .pinion => p.toothPitch
  | .axle => p.wheelCircumference

/-- The remainder's units per dm (R20). -/
def unitsPerDm (p : Params) : Tacho → Nat
  | .pinion => 400
  | .axle => 100 * p.axlePulses

/-- The odometry error factor at the car position (R25). -/
def errorFactor (s : State) : Nat :=
  match carSegment s with
  | some g =>
    match g.kind with
    | .rack => s.store.params.odoErrorRack
    | .adhesion => s.store.params.odoErrorAdhesion
  | none => s.store.params.odoErrorAdhesion

/-- The uncertainty that an accumulator gives (R25). -/
def uncertaintyOf (accumulator : Nat) : Nat := Config.leastUncertainty + (accumulator + 999) / 1000

/-- The position state becomes LOST (R24). -/
def loseBy (n : Notice) (s : State) : State :=
  notice n (updOdo (fun o => { o with posState := .lost, uncertainty := Config.greatestUncertainty }) s)

/-- The uncertainty after `moved` whole decimetres at a factor, while KNOWN: each dm is added while it
keeps u within 600, and one that would not makes the state LOST (R24, R25). -/
def growUncertainty (factor moved : Nat) (s : State) : State :=
  if s.odo.posState ≠ .known ∨ moved = 0 then s
  else if s.odo.accumulator + factor * moved ≤ Config.greatestAccumulator then
    updOdo (fun o => { o with
      accumulator := o.accumulator + factor * moved
      uncertainty := uncertaintyOf (o.accumulator + factor * moved) }) s
  else
    let room := (Config.greatestAccumulator - s.odo.accumulator) / factor
    loseBy .lostByUncertainty
      (updOdo (fun o => { o with accumulator := o.accumulator + factor * room }) s)

/-- A net count of the source applied to the car position, with its effect on the uncertainty, on the
distance since the last correction and at the ends of the line (R20, R25). -/
def movePosition (net : Int) (s : State) : State :=
  if s.odo.posState = .unknown then s
  else
    let sum := (s.odo.remainder : Int) + net * unitsPerPulse s.store.params s.odo.source
    let unit := unitsPerDm s.store.params s.odo.source
    let reached := (s.odo.position : Int) + sum / unit
    let beyond := decide (reached < 0) || decide ((Config.lineEnd : Int) < reached)
    let position := (max 0 (min (Config.lineEnd : Int) reached)).toNat
    let moved := gapBetween position s.odo.position
    let factor := errorFactor s
    let s := updOdo (fun o => { o with
      position := position
      remainder := if beyond then 0 else (sum % unit).toNat
      sinceCorrection := min 1000000 (o.sinceCorrection + moved) }) s
    let s := growUncertainty factor moved s
    if beyond ∧ s.odo.posState = .known then loseBy .lostAtLineEnd s else s

/-- The part of the source's count not yet applied (R20, R26). -/
def unappliedCount (o : Odometry) : Int := o.countOf o.source - o.applied

/-! ### Speed and source -/

/-- A distance into a window, the oldest leaving it (R19). -/
def pushWindow (d : Int) (w : Quad Int) : Quad Int := ⟨w.d2, w.d3, w.d4, d⟩

/-- The speed of a window, in cm/s (R22). -/
def speedOf (w : Quad Int) : Nat :=
  min Config.maxSpeed ((w.d1.natAbs + w.d2.natAbs + w.d3.natAbs + w.d4.natAbs) / 2)

/-- The source for the next interval (R21). -/
def nextSource (s : State) : Tacho :=
  if s.odo.pinionFault ∨ s.odo.posState = .unknown then .axle
  else
    match carSegment s with
    | none => .axle
    | some g =>
      match g.kind with
      | .rack => .pinion
      | .adhesion => .axle

/-- The source selected; a change of it drops the remainder and the cross-check (R21). -/
def selectSource (s : State) : State :=
  let t := nextSource s
  if t = s.odo.source then s
  else updOdo (fun o => { o with source := t, remainder := 0, crossPinion := 0, crossAxle := 0 }) s

/-! ### Rows and standstill -/

/-- The ODOMETRY row formed (R32). -/
def formOdometryRow (s : State) : State :=
  writeRows { s.dem.rows with odometry := if s.odo.rollback || s.odo.pinionFault then .emergency else .none } s

/-- The link of a trainline port. -/
def linkOf (l : LinkPort) (m : ModeUnit) : Link :=
  match l with
  | .a => m.linkA
  | .b => m.linkB

/-- Whether the holder's link is LOST (R14). -/
def holderLinkLost (m : ModeUnit) : Bool :=
  match m.holder with
  | .none => false
  | .portA => m.linkA.state = .lost
  | .portB => m.linkB.state = .lost

/-- The LINK row (R14). -/
def linkRow (lost still : Bool) : Kind := if lost then (if still then .hold else .full) else .none

/-- The LINK row formed (R14). -/
def formLinkRow (s : State) : State :=
  writeRows { s.dem.rows with link := linkRow (holderLinkLost s.mode) s.odo.standstill } s

/-- The mapping formed anew for a change of standstill while the driven kind is HOLD (R112). -/
def remapHold (s : State) : State :=
  if s.drive.source = .mapping ∧ s.dem.driven = .hold then applyMapping s else s

/-- The rows that follow standstill, formed in the order of R95, and the mapping of a HOLD (R14, R72, R107,
R112, R148). The order is a choice of the model (notes/assumptions/9.md). -/
def formStandstillRows (begins : Bool) (s : State) : State :=
  remapHold (formOdometryRow (evaluateAlarm begins (formLinkRow (formRadioRow (formDoorsRow s)))))

/-- Standstill becomes true, with all that follows (R23, R30). -/
def beginStandstill (s : State) : State :=
  formStandstillRows true (notice .standstillBegin (updOdo (fun o => { o with
    standstill := true, quietTime := 0, quietRunning := false, reverse := 0, reverseCarry := 0,
    rollback := false, motion := .none }) s))

/-- The doors as standstill becomes false (R146). -/
def closeForMoving (s : State) : State :=
  let c := doorCtx s
  putDoors (s.doors.door.map (·.onMoving c)) false false s

/-- Standstill becomes false, with all that follows: the notice, the end of a brake test (R125), the DOORS row of the
doors as they stand (R148), the doors closing (R146), and the rows. That the test ends for the standstill lost before a
row becomes EMERGENCY, and so with the cause STANDSTILL_LOST, is the model's choice (notes/assumptions/9.md). -/
def endStandstill (s : State) : State :=
  formStandstillRows false (closeForMoving (formDoorsRow (abortTest .standstillLost (notice .standstillEnd
    (updOdo (fun o => { o with standstill := false }) s)))))

/-- PINION_FAULT is set (R31, R32). -/
def setPinionFault (s : State) : State :=
  formOdometryRow (notice .pinionFault (updOdo (fun o => { o with pinionFault := true }) s))

/-! ### The stages of a sampling expiry -/

/-- The interval distances enter their windows (R19). -/
def sampleDistances (s : State) : State :=
  let p := s.store.params
  updOdo (fun o => { o with
    pinionWindow := pushWindow (intervalDistance p .pinion o.pinionCount) o.pinionWindow
    axleWindow := pushWindow (intervalDistance p .axle o.axleCount) o.axleWindow }) s

/-- The speeds and the motion direction (R22). -/
def sampleSpeeds (s : State) : State :=
  updOdo (fun o => { o with
    speed := speedOf (o.windowOf o.source)
    axleSpeed := speedOf o.axleWindow
    motion :=
      if 0 < o.countOf o.source then .upLine
      else if o.countOf o.source < 0 then .downLine
      else o.motion }) s

/-- The cross-check of the two tachometers, while the pinion is the source (R33). -/
def sampleCross (s : State) : State :=
  match s.odo.source with
  | .axle => s
  | .pinion =>
    let p := s.odo.crossPinion + s.odo.pinionWindow.d4.natAbs
    let a := s.odo.crossAxle + s.odo.axleWindow.d4.natAbs
    if p < 10000 then updOdo (fun o => { o with crossPinion := p, crossAxle := a }) s
    else noticeIf (decide (p < 10 * gapBetween p a)) .tachoDisagree
      (updOdo (fun o => { o with crossPinion := 0, crossAxle := 0 }) s)

/-- Whether a distance counts as movement against the selected direction (R30). -/
def countsReverse (dir : Direction) (d : Int) : Bool :=
  match dir with
  | .upLine => d < 0
  | .downLine => 0 < d
  | .none => true

/-- The reverse-distance counter and ROLLBACK (R30). -/
def sampleReverse (s : State) : State :=
  let d := (s.odo.windowOf s.odo.source).d4
  if countsReverse s.mode.direction d then
    let carry := s.odo.reverseCarry + d.natAbs
    let s := updOdo (fun o => { o with
      reverse := min 65535 (o.reverse + carry / 100), reverseCarry := carry % 100 }) s
    if 5 < s.odo.reverse ∧ s.odo.rollback = false then
      formOdometryRow (notice .rollback (updOdo (fun o => { o with rollback := true }) s))
    else s
  else s

/-- Whether the pinion fails to turn as the axle does on the rack (R31). -/
def pinionSilent (s : State) : Bool :=
  !(s.odo.posState = .unknown) && (carSegment s).any (fun g => g.kind = .rack) &&
    decide (50 < s.odo.axleSpeed) && !s.odo.pinionSeen

/-- The pinion fault time and PINION_FAULT (R31). -/
def samplePinion (s : State) : State :=
  if s.odo.pinionFault then s
  else
    let t := if pinionSilent s then min Config.pinionFaultTime (s.odo.pinionFaultTime + Config.samplingPeriod)
      else 0
    let s := updOdo (fun o => { o with pinionFaultTime := t }) s
    if t = Config.pinionFaultTime then setPinionFault s else s

/-- Whether the car stands beyond a mark, in a direction, by more than a distance (R27). -/
def beyondMark (dir : Direction) (pos mark margin : Nat) : Bool :=
  match dir with
  | .upLine => mark + margin < pos
  | .downLine => pos + margin < mark
  | .none => false

/-- The awaited mark at a sampling expiry: kept, missed or chosen (R27). -/
def sampleAwaited (s : State) : State :=
  let put (m : Option Nat) := updOdo (fun o => { o with awaited := m })
  if s.odo.posState = .unknown ∨ s.mode.direction = .none then put none s
  else
    let marks := marksOf s.store.segments
    match s.odo.awaited.filter (marks.contains ·) with
    | none => put (nextMark marks s.mode.direction s.odo.position) s
    | some m =>
      if beyondMark s.mode.direction s.odo.position m (s.odo.uncertainty + 10) then
        notice .markMissed (put none s)
      else s

/-- The quiet time at a sampling expiry, and standstill where it has run its length (R23). -/
def sampleQuiet (s : State) : State :=
  let o := s.odo
  if o.speed = 0 ∧ o.axleSpeed = 0 ∧ o.pinionSeen = false ∧ o.axleSeen = false then
    if o.quietRunning then
      let s := updOdo (fun o => { o with
        quietTime := min Config.standstillTime (o.quietTime + Config.samplingPeriod) }) s
      if s.odo.quietTime = Config.standstillTime then beginStandstill s else s
    else if o.standstill then s
    else updOdo (fun o => { o with quietTime := 0, quietRunning := true }) s
  else updOdo (fun o => { o with quietTime := 0, quietRunning := false }) s

/-- The counts of the interval are cleared, and the sampling timer starts again (R18, R20). -/
def sampleClear (s : State) : State :=
  updOdo (fun o => { o with
    pinionCount := 0, axleCount := 0, pinionSeen := false, axleSeen := false, applied := 0,
    samplingTimer := 0 }) s

/-- A whole sampling expiry. What the other blocks do at it, the removal of lifted restrictions (R60), the
zone (R155) and the alarm (R103), comes after the position record is updated. -/
def sample (s : State) : State :=
  let s := sampleDistances s
  let s := movePosition (unappliedCount s.odo) s
  let s := sampleSpeeds s
  let s := sampleCross s
  let s := sampleReverse s
  let s := selectSource s
  let s := samplePinion s
  let s := sampleAwaited s
  let s := sampleQuiet s
  let s := sampleClear s
  evaluateAlarm false (formZone (removeLifted s))

/-! ### A pulse and a detection -/

/-- The sign with which a pulse counts: up-line, or down-line (R18). -/
def pulseSign (m : ModeUnit) (forward : Bool) : Int :=
  match orientationOf m with
  | .normal => if forward then 1 else -1
  | .reversed => if forward then -1 else 1

/-- A pulse counted (R18). -/
def countPulse (t : Tacho) (forward : Bool) (s : State) : State :=
  let d := pulseSign s.mode forward
  match t with
  | .pinion => updOdo (fun o => { o with pinionCount := o.pinionCount + d, pinionSeen := true }) s
  | .axle => updOdo (fun o => { o with axleCount := o.axleCount + d, axleSeen := true }) s

/-- A detection matched to a mark (R26). -/
def matchMark (m : Nat) (s : State) : State :=
  formZone (notice .markMatched (updOdo (fun o => { o with
    position := m, remainder := 0, accumulator := 0, uncertainty := Config.leastUncertainty,
    posState := .known, unexpectedMarks := 0, sinceCorrection := 0, awaited := none }) s))

/-- A detection with no mark in its window (R26). -/
def unexpectedMark (s : State) : State :=
  let n := min 255 (s.odo.unexpectedMarks + 1)
  let s := updOdo (fun o => { o with unexpectedMarks := n }) s
  if s.odo.posState = .known ∧ 2 ≤ n then loseBy .lostByMarks s else notice .markUnexpected s

/-- A track-mark detection handled (R26). -/
def detectMark (s : State) : State :=
  if s.odo.posState = .unknown then notice .markIgnored s
  else
    let s := movePosition (unappliedCount s.odo) s
    let s := updOdo (fun o => { o with applied := o.countOf o.source }) s
    match findMark (marksOf s.store.segments) s.odo.position (s.odo.uncertainty + 10) with
    | .nearest m => matchMark m s
    | .nothing => unexpectedMark s
    | .ambiguous => notice .markAmbiguous s

end Sys2Proof.Machine
end

