-- ==== Sys2Proof/Machine/StoreOps.lean ====
section
/-!
DEFINITION. The Profile Store: the segment record and its checks (R36, R43), the parameter record with its
ranges and constraints (R38, R49), the blocks of the profile memory (R40, Formats), the phases of a load
(R41 to R46), the pages of a commit (R51 to R53), and the bytes of the memory the part has stored.
-/

namespace Sys2Proof.Machine

/-- The state with its store changed by a function. -/
def updStore (f : Store → Store) (s : State) : State := { s with store := f s.store }

/-! ### The profile memory -/

/-- One byte of the memory as the part knows it. -/
def readCell (a : Nat) (m : Memory) : Option Byte := (m.find? fun c => c.1 = a).map (·.2)

/-- One byte stored, the addresses staying strictly rising. -/
def putCell (a : Nat) (b : Byte) : Memory → Memory
  | [] => [(a, b)]
  | c :: rest =>
    if c.1 < a then c :: putCell a b rest
    else if c.1 = a then (a, b) :: rest
    else (a, b) :: c :: rest

/-- Bytes stored from an address onward. -/
def putBytes : Nat → List Byte → Memory → Memory
  | _, [], m => m
  | a, b :: rest, m => putBytes (a + 1) rest (putCell a b m)

/-- The bytes of a page are no longer known (R53, R54). -/
def forgetPage (a : Nat) (m : Memory) : Memory := m.filter fun c => c.1 < a || a + 32 ≤ c.1

/-- The canonical form of the memory: addresses strictly rising, and within 0..65,535 (R40). -/
def Memory.wf (m : Memory) : Bool :=
  match m with
  | [] => true
  | c :: rest => c.1 < 65536 && rest.all (fun d => c.1 < d.1) && Memory.wf rest

/-! ### Segment records -/

/-- The fields of a segment record as its layout carries them (Formats). -/
structure RawSegment where
  start : Nat
  length : Nat
  gradient : Int
  kind : Nat
  lineLimit : Nat
  zone : Nat
  flags : Nat
  side : Nat
  fromOffset : Nat
  toOffset : Nat
  mark : Nat
  deriving DecidableEq, Repr

/-- The fields of bytes 5 to 18 of a segment record, with a start and a length (Formats). -/
def rawFields (start length : Nat) (b : List Byte) : RawSegment where
  start := start
  length := length
  gradient := signed16 b 0
  kind := byteAt b 2
  lineLimit := word16 b 3
  zone := byteAt b 5
  flags := byteAt b 6
  side := byteAt b 7
  fromOffset := word16 b 8
  toOffset := word16 b 10
  mark := word16 b 12

/-- A segment record read from its 19 bytes (Formats). -/
def rawSegment (b : List Byte) : RawSegment := rawFields (word24 b 0) (word16 b 3) (b.drop 5)

/-- The platform a record carries: absent at FF (Formats). -/
def RawSegment.platform (r : RawSegment) : Option Platform :=
  (platformSideArg r.side).map fun side => ⟨side, r.fromOffset, r.toOffset⟩

/-- The mark a record carries: absent at FFFF (Formats). -/
def RawSegment.markOffset (r : RawSegment) : Option Nat := if r.mark = 65535 then none else some r.mark

/-- The segment of a record that has passed its checks. -/
def RawSegment.toSegment (r : RawSegment) : Segment where
  start := r.start
  length := r.length
  gradient := r.gradient
  kind := (segKindArg r.kind).getD .rack
  lineLimit := r.lineLimit
  zone := r.zone
  dark := r.flags % 2 = 1
  noStop := r.flags / 2 % 2 = 1
  platform := r.platform
  mark := r.markOffset

/-- The RANGE check of a record (R43). -/
def RawSegment.inRange (r : RawSegment) : Bool :=
  r.start ≤ Config.lineEnd && 10 ≤ r.length && r.length ≤ 20000 && (segKindArg r.kind).isSome &&
    r.lineLimit ≤ Config.maxSpeed && r.zone ≤ 31 && r.flags ≤ 3 && (r.side = 255 || r.side ≤ 2)

/-- The greatest gradient of a segment kind (R36). -/
def gradientBound (kind : Nat) : Int := if kind = 1 then 80 else 300

/-- The first record check that fails, in the order of R43; `prev` is the up-line end of the record
before. -/
def recordFault (prev : Option Nat) (r : RawSegment) : Option LoadReason :=
  if !r.inRange then some .range
  else if !(-(gradientBound r.kind) ≤ r.gradient && r.gradient ≤ gradientBound r.kind) then some .gradient
  else if Config.lineEnd < r.start + r.length then some .extent
  else if prev.any (· ≠ r.start) then some .contiguity
  else if r.platform.any fun p => !(p.fromOffset < p.toOffset && p.toOffset ≤ r.length) then
    some .platform
  else if r.markOffset.any fun m => r.length ≤ m then some .markOffset
  else none

/-- The first record that fails, by its index and reason (R43). -/
def firstBadRecord : Nat → Option Nat → List RawSegment → Option (Nat × LoadReason)
  | _, _, [] => none
  | i, prev, r :: rest =>
    match recordFault prev r with
    | some why => some (i, why)
    | none => firstBadRecord (i + 1) (some (r.start + r.length)) rest

/-- The platform side of a segment, absent as FF, with its offsets (Formats). -/
def platformField (p : Option Platform) : List Byte :=
  match p with
  | none => absentField 1 ++ absentField 2 ++ absentField 2
  | some q => q.side.code :: natField 2 q.fromOffset ++ natField 2 q.toOffset

/-- The 19 bytes of a segment record (Formats). -/
def segmentBytes (g : Segment) : List Byte :=
  natField 3 g.start ++ natField 2 g.length ++ intField 2 g.gradient ++ [g.kind.code] ++
    natField 2 g.lineLimit ++ natField 1 g.zone ++ setField [g.dark, g.noStop] ++
    platformField g.platform ++ optField 2 g.mark

/-! ### The parameter record -/

/-- The bytes of a door map entry (Formats). -/
def doorMapBytes (e : DoorMapEntry) : List Byte := e.side.code :: intField 2 e.offset ++ boolField e.enabled

/-- The bytes of a valve point (Formats). -/
def valveBytes (v : Nat × Nat) : List Byte := natField 2 v.1 ++ natField 2 v.2

/-- The 100 bytes of the fields of R38, in table order (Formats). -/
def paramBytes (p : Params) : List Byte :=
  ([p.toothPitch, p.axlePulses, p.wheelCircumference, p.odoErrorRack, p.odoErrorAdhesion, p.aRack,
    p.aRackDeg, p.aAdh, p.aAdhDeg, p.tB, p.mSb, p.mEb, p.vMax, p.shuntLimit, p.radioLossLimit,
    p.cabPermitLimit, p.creepLimit] ++ p.glc ++ [p.pLo, p.pHi]).flatMap (natField 2) ++
  p.valve.toList.flatMap valveBytes ++
  [p.tResp, p.doorMoveTime, p.doorWarningTime, p.obstacleLimit].flatMap (natField 2) ++
  p.doorMap.toList.flatMap doorMapBytes ++
  [p.tSilence, p.tLost, p.reportInterval, p.inboxLow].flatMap (natField 2)

/-- A door map entry read from its four bytes. -/
def doorMapOf (b : List Byte) (i : Nat) : DoorMapEntry :=
  ⟨(carSideArg (byteAt b i)).getD .side1, signed16 b (i + 1), byteAt b (i + 3) = 1⟩

/-- Whether the codes of a door map entry are codes of its fields (R184). -/
def doorCodesGood (b : List Byte) (i : Nat) : Bool :=
  (carSideArg (byteAt b i)).isSome && (flagArg (byteAt b (i + 3))).isSome

/-- A valve point read from its four bytes. -/
def valveOf (b : List Byte) (i : Nat) : Nat × Nat := (word16 b i, word16 b (i + 2))

/-- The parameter record read from its 100 bytes (Formats). -/
def paramsOf (b : List Byte) : Params where
  toothPitch := word16 b 0
  axlePulses := word16 b 2
  wheelCircumference := word16 b 4
  odoErrorRack := word16 b 6
  odoErrorAdhesion := word16 b 8
  aRack := word16 b 10
  aRackDeg := word16 b 12
  aAdh := word16 b 14
  aAdhDeg := word16 b 16
  tB := word16 b 18
  mSb := word16 b 20
  mEb := word16 b 22
  vMax := word16 b 24
  shuntLimit := word16 b 26
  radioLossLimit := word16 b 28
  cabPermitLimit := word16 b 30
  creepLimit := word16 b 32
  glc := [word16 b 34, word16 b 36, word16 b 38, word16 b 40, word16 b 42, word16 b 44, word16 b 46]
  pLo := word16 b 48
  pHi := word16 b 50
  valve := ⟨valveOf b 52, valveOf b 56, valveOf b 60, valveOf b 64⟩
  tResp := word16 b 68
  doorMoveTime := word16 b 70
  doorWarningTime := word16 b 72
  obstacleLimit := word16 b 74
  doorMap := ⟨doorMapOf b 76, doorMapOf b 80, doorMapOf b 84, doorMapOf b 88⟩
  tSilence := word16 b 92
  tLost := word16 b 94
  reportInterval := word16 b 96
  inboxLow := word16 b 98

/-- A value within its range, both bounds included. -/
def within (lo hi v : Nat) : Bool := lo ≤ v && v ≤ hi

/-- A valve point within its ranges (R38). -/
def valveInRange (v : Nat × Nat) : Bool := within 0 5000 v.1 && within 0 1000 v.2

/-- A door map offset within its range (R38). -/
def doorMapInRange (e : DoorMapEntry) : Bool := -150 ≤ e.offset && e.offset ≤ 150

/-- The range tests of R38 in the order of its table: identifier, index, and whether it passes. `codes`
says of each door map entry whether its codes are codes of its fields. -/
def rangeTests (p : Params) (codes : Quad Bool) : List (Nat × Nat × Bool) :=
  [(0, 0, within 80 130 p.toothPitch), (1, 0, within 20 200 p.axlePulses),
   (2, 0, within 1500 3000 p.wheelCircumference), (3, 0, within 1 50 p.odoErrorRack),
   (4, 0, within 5 100 p.odoErrorAdhesion), (5, 0, within 3118 8000 p.aRack),
   (6, 0, within 3118 8000 p.aRackDeg), (7, 0, within 1081 8000 p.aAdh),
   (8, 0, within 1081 8000 p.aAdhDeg), (9, 0, within 200 3000 p.tB), (10, 0, within 10 100 p.mSb),
   (11, 0, within 20 200 p.mEb), (12, 0, within 139 1200 p.vMax), (13, 0, within 28 278 p.shuntLimit),
   (14, 0, within 28 556 p.radioLossLimit), (15, 0, within 28 556 p.cabPermitLimit),
   (16, 0, within 28 139 p.creepLimit)] ++
  p.glc.mapIdx (fun i v => (17, i + 1, within 0 1200 v)) ++
  [(18, 0, within 100 1500 p.pLo), (19, 0, within 1000 5000 p.pHi),
   (20, 1, valveInRange p.valve.d1), (20, 2, valveInRange p.valve.d2),
   (20, 3, valveInRange p.valve.d3), (20, 4, valveInRange p.valve.d4),
   (21, 0, within 300 3000 p.tResp), (22, 0, within 1000 10000 p.doorMoveTime),
   (23, 0, within 500 5000 p.doorWarningTime), (24, 0, within 1 5 p.obstacleLimit),
   (25, 1, codes.d1 && doorMapInRange p.doorMap.d1), (25, 2, codes.d2 && doorMapInRange p.doorMap.d2),
   (25, 3, codes.d3 && doorMapInRange p.doorMap.d3), (25, 4, codes.d4 && doorMapInRange p.doorMap.d4),
   (26, 0, within 2 60 p.tSilence), (27, 0, within 10 300 p.tLost),
   (28, 0, within 2 60 p.reportInterval), (29, 0, within 0 7 p.inboxLow)]

/-- The first field out of its range, by identifier and index (R42). -/
def firstOutOfRange (p : Params) (codes : Quad Bool) : Option (Nat × Nat) :=
  ((rangeTests p codes).find? fun t => !t.2.2).map fun t => (t.1, t.2.1)

/-- Whether two neighbouring valve points are in order (R38, VALVE_ORDER). -/
def valveStep (a b : Nat × Nat) : Bool := a.1 < b.1 && a.2 ≤ b.2

/-- The first constraint of R38 that fails, in the order of its table. -/
def brokenConstraint (p : Params) : Option ConstraintName :=
  if !(p.aRackDeg ≤ p.aRack && p.aAdhDeg ≤ p.aAdh) then some .decelOrder
  else if !(p.pLo < p.pHi) then some .pressureOrder
  else if !(valveStep p.valve.d1 p.valve.d2 && valveStep p.valve.d2 p.valve.d3 &&
      valveStep p.valve.d3 p.valve.d4) then some .valveOrder
  else none

/-- Whether a record passes every range and every constraint of R38. -/
def Params.valid (p : Params) : Bool :=
  (firstOutOfRange p (Quad.all true)).isNone && (brokenConstraint p).isNone

/-- One entry of four replaced, by its index 1..4. -/
def putFourth {α : Type} (i : Nat) (x : α) (q : Quad α) : Option (Quad α) :=
  match i with
  | 1 => some { q with d1 := x }
  | 2 => some { q with d2 := x }
  | 3 => some { q with d3 := x }
  | 4 => some { q with d4 := x }
  | _ => none

/-- A record with one single field replaced, by its identifier (R49). -/
def withSingle (id v : Nat) (p : Params) : Option Params :=
  match id with
  | 0 => some { p with toothPitch := v }
  | 1 => some { p with axlePulses := v }
  | 2 => some { p with wheelCircumference := v }
  | 3 => some { p with odoErrorRack := v }
  | 4 => some { p with odoErrorAdhesion := v }
  | 5 => some { p with aRack := v }
  | 6 => some { p with aRackDeg := v }
  | 7 => some { p with aAdh := v }
  | 8 => some { p with aAdhDeg := v }
  | 9 => some { p with tB := v }
  | 10 => some { p with mSb := v }
  | 11 => some { p with mEb := v }
  | 12 => some { p with vMax := v }
  | 13 => some { p with shuntLimit := v }
  | 14 => some { p with radioLossLimit := v }
  | 15 => some { p with cabPermitLimit := v }
  | 16 => some { p with creepLimit := v }
  | 18 => some { p with pLo := v }
  | 19 => some { p with pHi := v }
  | 21 => some { p with tResp := v }
  | 22 => some { p with doorMoveTime := v }
  | 23 => some { p with doorWarningTime := v }
  | 24 => some { p with obstacleLimit := v }
  | 26 => some { p with tSilence := v }
  | 27 => some { p with tLost := v }
  | 28 => some { p with reportInterval := v }
  | 29 => some { p with inboxLow := v }
  | _ => none

/-- A record with one field replaced from a PARAMETER WRITE's identifier, index and value bytes; `none`
where the identifier or the index is not one of R38, or a code is not a code of its field (R49). -/
def withField (id index : Nat) (value : List Byte) (p : Params) : Option Params :=
  if id = 17 then
    if within 1 7 index then some { p with glc := p.glc.set (index - 1) (word16 value 0) } else none
  else if id = 20 then (putFourth index (valveOf value 0) p.valve).map fun v => { p with valve := v }
  else if id = 25 then
    if doorCodesGood value 0 then
      (putFourth index (doorMapOf value 0) p.doorMap).map fun m => { p with doorMap := m }
    else none
  else if index = 0 then withSingle id (word16 value 0) p
  else none

/-! ### The load -/

/-- The load failure recorded (R46). -/
def failLoad (b : LoadBlock) (why : LoadReason) (d : LoadDetail) (s : State) : State :=
  updStore (fun x => { x with failure := some ⟨b, why, d⟩ }) s

/-- The end of a load, with its result (R1, R45). -/
def endLoad (r : LoadResult) (s : State) : State :=
  let s := updStore (fun x => { x with result := r, phase := .done, loader := .idle, differs := false }) s
  raise .mode (raise .profile { s with mode := { s.mode with mode := .shunt } })

/-- A load that ends NO_PROFILE (R41, R44, R45). -/
def endNoProfile (b : LoadBlock) (why : LoadReason) (s : State) : State :=
  endLoad .noProfile (failLoad b why .none (updStore (fun x => { x with
    lineId := 0, revision := 0, params := Params.default, segments := [] }) s))

/-- A load that ends NO_SEGMENTS (R43 to R45). -/
def endNoSegments (why : LoadReason) (d : LoadDetail) (s : State) : State :=
  endLoad .noSegments (failLoad .segments why d s)

/-- The length of a segment block (R40). -/
def segmentBlockLength (count : Nat) : Nat := 3 + 19 * count

/-- The first header test that fails (R41). -/
def headerFault (b : List Byte) : Option LoadReason :=
  if byteAt b 0 ≠ 0x3C then some .validMark
  else if !crcGood b then some .headerCrc
  else if byteAt b 1 ≠ 1 then some .format
  else if byteAt b 2 = 0 then some .lineId
  else if word16 b 7 < 16 ∨ word16 b 9 < 16 then some .address
  else none

/-- The segment read begun, or the load stopped, as the segment count and address say (R43, R44). -/
def beginSegments (s : State) : State :=
  let n := s.store.headerCount
  let s := updStore (fun x => { x with phase := .segments }) s
  if n = 0 ∨ Config.segmentSlots < n then endNoSegments .count .none s
  else if 65536 < s.store.headerSegAddr + segmentBlockLength n then endNoSegments .overflow .none s
  else updStore (fun x => { x with loader := .segmentRead }) s

/-- The end of the header read (R41, R42, R44). -/
def takeHeader (b : List Byte) (s : State) : State :=
  match headerFault b with
  | some why => endNoProfile .header why s
  | none =>
    let s := updStore (fun x => { x with
      lineId := byteAt b 2, revision := word16 b 3, phase := .parameters, loader := .parameterRead,
      headerCount := word16 b 5, headerParamAddr := word16 b 7, headerSegAddr := word16 b 9 }) s
    if 65408 < word16 b 7 then endNoProfile .parameters .overflow s else s

/-- What is wrong with a parameter block, by its reason and detail, or the record it carries (R42). -/
def readParams (b : List Byte) : (LoadReason × LoadDetail) ⊕ Params :=
  let body := b.drop 1
  let p := paramsOf body
  if byteAt b 0 ≠ 0x69 then .inl (.validMark, .none)
  else if !crcGood b then .inl (.blockCrc, .none)
  else
    match firstOutOfRange p ⟨doorCodesGood body 76, doorCodesGood body 80, doorCodesGood body 84,
        doorCodesGood body 88⟩ with
    | some f => .inl (.range, .field f.1 f.2)
    | none =>
      match brokenConstraint p with
      | some c => .inl (.constraint, .constraint c)
      | none => .inr p

/-- The end of the parameter block read (R42). -/
def takeParams (b : List Byte) (s : State) : State :=
  match readParams b with
  | .inl f => beginSegments (failLoad .parameters f.1 f.2 s)
  | .inr p => beginSegments (updStore (fun x => { x with params := p, paramSource := .memory }) s)

/-- The records of a segment block (Formats). -/
def recordsOf (n : Nat) (b : List Byte) : List RawSegment :=
  (List.range n).map fun i => rawSegment ((b.drop (1 + 19 * i)).take 19)

/-- The end of the segment block read (R43, R45). -/
def takeSegments (b : List Byte) (s : State) : State :=
  let records := recordsOf s.store.headerCount b
  if byteAt b 0 ≠ 0x96 then endNoSegments .validMark .none s
  else if !crcGood b then endNoSegments .blockCrc .none s
  else
    match firstBadRecord 0 none records with
    | some f => endNoSegments f.2 (.record f.1) s
    | none =>
      let s := updStore (fun x => { x with segments := records.map RawSegment.toSegment }) s
      endLoad (if s.store.paramSource = .memory then .profileLoaded else .paramsDefault) s

/-! ### The commit -/

/-- The header as a commit writes it, 16 bytes, with its mark (R51, Formats). -/
def headerBytes (st : Store) (mark : Byte) : List Byte :=
  let covered := [mark, 1] ++ natField 1 st.lineId ++ natField 2 ((st.revision + 1) % 65536) ++
    natField 2 st.segments.length ++ natField 2 32 ++ natField 2 160 ++ [0, 0, 0]
  covered ++ crcField covered

/-- The parameter block as a commit writes it, 128 bytes (R51, Formats). -/
def paramBlock (p : Params) : List Byte :=
  let covered := 0x69 :: paramBytes p ++ List.replicate 25 0
  covered ++ crcField covered

/-- The segment block as a commit writes it (R51, Formats). -/
def segmentBlock (l : List Segment) : List Byte :=
  let covered := 0x96 :: l.flatMap segmentBytes
  covered ++ crcField covered

/-- The pages that a segment block of `count` records takes (R51). -/
def segmentPages (count : Nat) : Nat := (segmentBlockLength count + 31) / 32

/-- The pages of a commit in all (R51). -/
def commitPages (count : Nat) : Nat := 6 + segmentPages count

/-- Some bytes filled out with 00 to a page of 32. -/
def fillPage (b : List Byte) : List Byte := b ++ List.replicate (32 - b.length) 0

/-- The address of a commit's page, numbered from 1 (R51). -/
def pageAddress (st : Store) (page : Nat) : Nat :=
  if page ≤ 1 ∨ commitPages st.segments.length ≤ page then 0 else 32 * (page - 1)

/-- The 32 bytes of a commit's page (R51). -/
def pageBytes (st : Store) (page : Nat) : List Byte :=
  if page ≤ 1 then fillPage (headerBytes st 0)
  else if commitPages st.segments.length ≤ page then fillPage (headerBytes st 0x3C)
  else if page ≤ 5 then ((paramBlock st.params).drop (32 * (page - 2))).take 32
  else fillPage (((segmentBlock st.segments).drop (32 * (page - 6))).take 32)

/-- A page that the memory has stored. -/
def storePage (page : Nat) (s : State) : State :=
  { s with memory := putBytes (pageAddress s.store page) (pageBytes s.store page) s.memory }

/-- A page that the memory may have stored in part or not at all. -/
def losePage (page : Nat) (s : State) : State :=
  { s with memory := forgetPage (pageAddress s.store page) s.memory }

/-- The end of a commit, with its event (R53). -/
def endCommit (r : LastCommit) (s : State) : State :=
  raise .profile (updStore (fun x => { x with lastCommit := r, commit := .idle }) s)

/-- A page ends good: the next page's cycle begins, or the commit ends COMMITTED (R52, R53). -/
def endPage (page : Nat) (s : State) : State :=
  let s := updStore (fun x => { x with pagesWritten := x.pagesWritten + 1 }) (storePage page s)
  if s.store.pagesAll ≤ page then
    endCommit .committed (updStore (fun x => { x with
      revision := (x.revision + 1) % 65536, differs := false }) s)
  else updStore (fun x => { x with commit := .writing (page + 1) .writeEnable }) s

/-- A page fails (R52, R53). -/
def failPage (page : Nat) (s : State) : State := endCommit (.failed page) (losePage page s)

/-- The memory as a RESTART leaves it: a page whose program has been sent is stored, one being sent may be
stored in part (R54). -/
def abandonByRestart (s : State) : State :=
  match s.store.commit with
  | .writing page (.poll _) => storePage page s
  | .writing page (.program _) => losePage page s
  | _ => s

/-- The memory as power-on leaves it: a page whose program has begun may be lost or torn (R54). -/
def abandonByPowerOn (s : State) : State :=
  match s.store.commit with
  | .writing page (.poll _) => losePage page s
  | .writing page (.program _) => losePage page s
  | _ => s

end Sys2Proof.Machine
end

