-- ==== Sys2Proof/Machine/Answers.lean ====
section
/-!
DEFINITION. What the masters read: the READ STATUS payload (R177), the entries of the tables of READ TABLE
(R178, R179) and the record of INBOX TAKE (R163), in the layouts of the Formats chapter.
-/

namespace Sys2Proof.Machine

/-! ### READ STATUS -/

/-- Offsets 0..5: the mode and authority items. -/
def statusMode (m : ModeUnit) : List Byte :=
  [m.mode.code, m.holder.code, m.direction.code] ++ boolField m.composition.isSome ++
    [m.linkA.state.code, m.linkB.state.code]

/-- Offsets 6..15: the position items. -/
def statusPosition (o : Odometry) : List Byte :=
  natField 3 o.position ++ [o.posState.code] ++ natField 2 o.uncertainty ++ natField 2 o.speed ++
    [o.motion.code] ++ boolField o.standstill

/-- The last commit with its failing page, FF where there is none. -/
def lastCommitField (l : LastCommit) : List Byte :=
  l.code :: (match l with | .failed page => natField 1 page | _ => absentField 1)

/-- Offsets 16..24: the store items. -/
def statusStore (x : Store) : List Byte :=
  [x.phase.code, x.result.code, x.paramSource.code] ++ boolField x.differs ++ [x.commit.code] ++
    natField 1 x.pagesWritten ++ natField 1 x.pagesAll ++ lastCommitField x.lastCommit

/-- The key of a target, FF where it is no RESTRICTION. -/
def targetKeyField (k : TargetKind) : List Byte :=
  match k with
  | .restriction key _ => key.origin.code :: natField 1 key.station ++ natField 1 key.id
  | _ => absentField 3

/-- The governing entry, all FF unless a target governs. -/
def governingField (x : Supervisor) : List Byte :=
  match x.governing with
  | .target i =>
    match x.targets[i]? with
    | some t => t.kind.code :: natField 3 t.point ++ natField 2 t.speed ++ natField 2 t.distance ++
        natField 2 t.vCurve ++ targetKeyField t.kind
    | none => absentField 13
  | _ => absentField 13

/-- Offsets 25..46: the supervision items (R92). -/
def statusSupervision (x : Supervisor) : List Byte :=
  [x.level.code] ++ natField 2 x.vPerm ++ natField 2 x.staticLimit ++
    [x.staticReason.code, x.governing.code] ++ natField 2 x.targets.length ++ governingField x

/-- The handle set. -/
def handleField (h : Quad Bool) : List Byte := setField h.toList

/-- Offsets 47..52: the demand items (R109). -/
def statusDemands (x : Demands) : List Byte :=
  kindField x.driven ++ boolField x.latch ++ [x.alarm.code] ++ handleField x.handles

/-- The brake test step, FF for none, and its step timer, FFFF for none. -/
def testStepField (t : Option TestStep) : List Byte :=
  match t with
  | none => absentField 1 ++ absentField 2
  | some x => natField 1 x.step ++ natField 2 x.timer

/-- Offsets 53..77: the brake drive items (R129). -/
def statusDrive (d : BrakeDrive) : List Byte :=
  natField 2 d.level ++ natField 2 d.target ++ natField 2 d.duty ++ natField 2 d.activeDuty ++
    optField 2 d.serviceReading ++ optField 2 d.releaseReading ++
    [d.valve.code, d.springStatus.code, d.serviceCheck.outcome.code, d.springCheck.outcome.code] ++
    boolField d.springStuck ++ setField [d.serviceSlow, d.springFail] ++
    [d.faultState.code, d.source.code] ++ testStepField d.testStep ++
    [d.testRecord.code, d.testRecord.second]

/-- The side release flags. -/
def sideFlagField (d : Doors) : List Byte := setField [d.leftReleased, d.rightReleased]

/-- Offsets 78..85: the door items (R149). -/
def statusDoors (d : Doors) (row : Kind) : List Byte :=
  sideFlagField d ++ [loopCode d.loopClosed, row.code] ++ d.door.toList.map (·.state.code) ++
    setField (d.door.toList.map (·.lockLost))

/-- Offsets 86..96: the radio items (R170). -/
def statusRadio (r : Radio) : List Byte :=
  natField 1 r.zone ++ [r.coverage.code] ++ natField 2 r.silenceCount ++ natField 1 r.freeCount ++
    natField 1 r.acks.length ++ boolField r.reportDue ++ [windowCode r.window] ++
    lastAppliedField r.lastApplied

/-- A port's flags and notice line (R182). -/
def flagField (r : PortRec) : List Byte := eventField r.raw ++ eventField r.mask ++ boolField r.notice

/-- The 104 bytes of the READ STATUS payload (R177). -/
def statusPayload (p : Port) (s : State) : List Byte :=
  statusMode s.mode ++ statusPosition s.odo ++ statusStore s.store ++ statusSupervision s.sup ++
    statusDemands s.dem ++ statusDrive s.drive ++ statusDoors s.doors s.dem.rows.doors ++
    statusRadio s.radio ++ flagField (portOf p s)

/-! ### READ TABLE -/

/-- The load failure: block, reason and detail, FF where absent (R46). -/
def failureField (f : Option LoadFailure) : List Byte :=
  match f with
  | none => absentField 4
  | some x => [x.block.code, x.reason.code] ++
      match x.detail with
      | .none => absentField 2
      | .field id index => natField 1 id ++ natField 1 index
      | .constraint c => natField 2 c.code
      | .record i => natField 2 i

/-- The one entry of PARAMETERS. -/
def parametersEntry (x : Store) : List Byte :=
  paramBytes x.params ++ natField 1 x.lineId ++ natField 2 x.revision ++ failureField x.failure

/-- An entry of RESTRICTIONS. -/
def restrictionEntry (r : Restriction) : List Byte :=
  [r.key.origin.code] ++ natField 1 r.key.station ++ natField 1 r.key.id ++ natField 3 r.start ++
    natField 3 r.stop ++ natField 2 r.limit ++ [r.state.code]

/-- The one entry of PERMIT. -/
def permitEntry (p : Option Permit) : List Byte :=
  match p with
  | none => List.replicate 9 0
  | some x => [1, x.origin.code] ++ natField 1 x.station ++ natField 2 x.serial ++ natField 3 x.endPos ++
      [x.direction.code]

/-- A row held in two parts, as an entry of DEMANDS. -/
def cabRowEntry (r : CabRow) : List Byte :=
  kindField r.kind ++ kindField r.service ++ [(emergencyPart r.emergency).code]

/-- A row of one kind, as an entry of DEMANDS. -/
def plainRowEntry (k : Kind) : List Byte := kindField k ++ absentField 4

/-- The ten entries of DEMANDS (R109). -/
def demandEntries (r : Rows) : List (List Byte) :=
  [cabRowEntry r.cabA, cabRowEntry r.cabB, cabRowEntry r.panel, plainRowEntry r.supervision,
   plainRowEntry r.doors, plainRowEntry r.radio, plainRowEntry r.link, plainRowEntry r.alarm,
   plainRowEntry r.odometry, plainRowEntry r.brakeCheck]

/-- What DEMANDS appends (R179). -/
def demandsAppended (x : Demands) : List Byte :=
  boolField x.latch ++ kindField x.driven ++ [x.alarm.code] ++ handleField x.handles ++ boolField x.traction

/-- The input set of a door. -/
def inputField (i : DoorInputs) : List Byte :=
  setField [i.openLimit, i.closed, i.locked, i.obstacle, i.button, i.isolation]

/-- A door's line position, a mark of none where it has none. -/
def linePositionField (x : Option Int) : List Byte :=
  match x with
  | none => absentField 3
  | some v => if 0 ≤ v then natField 3 v.toNat else (List.range 3).map (Config.wideByte 3 v)

/-- The door timer with its limit, FFFF while stopped. -/
def timerField (t : Option (Nat × Nat)) : List Byte :=
  match t with
  | none => absentField 2 ++ absentField 2
  | some x => natField 2 x.1 ++ natField 2 x.2

/-- The fault cause of a door. -/
def causeField (c : Option FaultCause) : List Byte :=
  match c with
  | none => absentField 1
  | some x => [x.code]

/-- An entry of DOORS (R149). -/
def doorEntry (e : DoorMapEntry) (d : Door) : List Byte :=
  doorMapBytes e ++ [d.lineSide.code] ++ linePositionField d.linePosition ++ [d.state.code] ++
    causeField d.cause ++ natField 1 d.obstacles ++ boolField d.openRequest ++ boolField d.lockLost ++
    inputField d.inputs ++ setField d.outputs ++ timerField d.timer

/-- The four entries of DOORS. -/
def doorEntries (s : State) : List (List Byte) :=
  let m := s.store.params.doorMap
  let q := s.doors.door
  [doorEntry m.d1 q.d1, doorEntry m.d2 q.d2, doorEntry m.d3 q.d3, doorEntry m.d4 q.d4]

/-- What DOORS appends (R179). -/
def doorsAppended (d : Doors) : List Byte := sideFlagField d ++ [loopCode d.loopClosed]

/-- A window of four signed distances (R34). The layout gives no order for them: the oldest first is the model's choice
(notes/assumptions/20.md). -/
def windowField (w : Quad Int) : List Byte := w.toList.flatMap (intField 2)

/-- The one entry of POSITION (R34). -/
def positionEntry (o : Odometry) : List Byte :=
  natField 3 o.position ++ natField 2 o.remainder ++ [o.posState.code] ++ natField 2 o.uncertainty ++
    natField 3 o.accumulator ++ natField 3 o.sinceCorrection ++ [tachoCode o.source] ++
    windowField o.pinionWindow ++ windowField o.axleWindow ++ natField 2 o.speed ++
    natField 2 o.axleSpeed ++ [o.motion.code] ++ boolField o.standstill ++ natField 2 o.quietTime ++
    boolField o.quietRunning ++ natField 2 o.reverse ++ natField 1 o.reverseCarry ++
    natField 1 o.unexpectedMarks ++ optField 3 o.awaited ++ setField [o.rollback, o.pinionFault] ++
    natField 2 o.pinionFaultTime ++ natField 3 o.crossPinion ++ natField 3 o.crossAxle ++ [o.notice.code]

/-- A message as an inbox record: its text filled with 00 to 96 characters. -/
def messageEntry (m : Message) : List Byte :=
  natField 1 m.station ++ natField 2 m.serial ++ [m.priority.code] ++ boolField m.truncated ++
    natField 1 m.arrival ++ natField 1 m.text.length ++ m.text ++ List.replicate (96 - m.text.length) 0

/-- An entry of PORTS (R179). `link` is none for port C. -/
def portEntry (link : Option Link) (held : Bool) (r : PortRec) : List Byte :=
  (match link with | none => absentField 1 | some l => [l.state.code]) ++ natField 2 r.framingErrors ++
    natField 2 r.crcErrors ++ natField 2 r.discarded ++ boolField held ++ flagField r

/-- The three entries of PORTS. The requesting port holds the request being answered. -/
def portEntries (p : Port) (s : State) : List (List Byte) :=
  [portEntry (some s.mode.linkA) (s.ports.a.held.isSome || p = .a) s.ports.a,
   portEntry (some s.mode.linkB) (s.ports.b.held.isSome || p = .b) s.ports.b,
   portEntry none (s.ports.c.held.isSome || p = .c) s.ports.c]

/-- The entries of a table, in order (R178). -/
def tableEntries (p : Port) (s : State) : TableName → List (List Byte)
  | .segments => s.store.segments.map segmentBytes
  | .parameters => [parametersEntry s.store]
  | .restrictions => s.limits.restrictions.map restrictionEntry
  | .permit => [permitEntry s.limits.permit]
  | .stops => s.limits.stops.map fun k => [k.code]
  | .demands => demandEntries s.dem.rows
  | .doors => doorEntries s
  | .position => [positionEntry s.odo]
  | .radioCounters => s.radio.counters.toList.map (natField 2)
  | .inbox => (inboxOrder s.radio.inbox).map messageEntry
  | .ports => portEntries p s

/-- What a table appends after its entries (R179). -/
def tableAppended (s : State) : TableName → List Byte
  | .demands => demandsAppended s.dem
  | .doors => doorsAppended s.doors
  | _ => []

/-- The most entries of a table in one answer (R185). -/
def tableMost : TableName → Nat
  | .segments => 12
  | .parameters => 1
  | .restrictions => 16
  | .permit => 1
  | .stops => 31
  | .demands => 10
  | .doors => 4
  | .position => 1
  | .radioCounters => 12
  | .inbox => 2
  | .ports => 3

/-- The payload of a READ TABLE answer for a table of which the first index does not pass the end (R178,
R185). -/
def tablePayload (p : Port) (s : State) (code : Nat) (t : TableName) (first count : Nat) : List Byte :=
  let entries := tableEntries p s t
  let returned := min count (min (entries.length - first) (tableMost t))
  natField 1 code ++ natField 2 first ++ natField 1 returned ++ natField 2 entries.length ++
    ((entries.drop first).take returned).flatten ++ tableAppended s t

end Sys2Proof.Machine
end

