-- ==== Sys2Proof/Machine/SpeedOps.lean ====
section
/-!
DEFINITION. The stages of a supervision cycle: the static limit now (R80 to R82), the target list (R83,
R84), the net deceleration and curve speed of each target (R85 to R87), the permitted speed (R88), the
level (R89) and the SUPERVISION row (R90).
-/

namespace Sys2Proof.Machine

/-! ### The static limit now -/

/-- The mode limit (R80, order 4). -/
def modeLimit (s : State) : Nat :=
  match s.mode.mode with
  | .line => s.store.params.vMax
  | _ => s.store.params.shuntLimit

/-- A component where its condition holds. -/
def component (c : Bool) (why : StaticReason) (limit : Nat) : List (StaticReason × Nat) :=
  if c then [(why, limit)] else []

/-- The components of the static limit over an envelope, in the order of R80. -/
def staticComponents (s : State) (sp : Span) : List (StaticReason × Nat) :=
  let p := s.store.params
  let line := s.mode.mode = .line
  (s.store.segments.filter fun g => overlaps g.start g.upEnd sp).map
      (fun g => (StaticReason.segment, segmentLimit p s.mode.direction g)) ++
    component (!s.store.segments.isEmpty && hasGap sp.low sp.high s.store.segments) .unprofiled p.shuntLimit ++
    (s.limits.restrictions.filter fun r => overlaps r.start r.stop sp).map
      (fun r => (StaticReason.restriction, r.limit)) ++
    [(.mode, modeLimit s)] ++
    component (line && s.radio.coverage = .lost) .radioLoss p.radioLossLimit ++
    component (s.odo.posState = .lost) .creep p.creepLimit ++
    component (s.limits.permit.any (·.origin = .cab)) .cabPermit p.cabPermitLimit

/-- The lowest of some components, the first of them where several are lowest (R80). -/
def lowestComponent : (StaticReason × Nat) → List (StaticReason × Nat) → StaticReason × Nat
  | best, [] => best
  | best, c :: rest => lowestComponent (if c.2 < best.2 then c else best) rest

/-- The stretch of the cycle's envelope, none while the position is UNKNOWN or the table empty (R82). -/
def cycleSpan (s : State) : Option Span := if s.store.segments.isEmpty then none else envelopeSpan s

/-- The static limit now with its reason (R80, R82). -/
def staticLimitNow (s : State) : StaticReason × Nat :=
  match cycleSpan s with
  | none => (.mode, modeLimit s)
  | some sp =>
    match staticComponents s sp with
    | [] => (.mode, modeLimit s)
    | c :: rest => lowestComponent c rest

/-! ### Targets -/

/-- A candidate target: its kind, point and target speed (R83). -/
structure Candidate where
  kind : TargetKind
  point : Nat
  speed : Nat
  deriving DecidableEq, Repr

/-- The SEGMENT candidates, in table order from an index (R83). -/
def segmentCandidates (p : Params) (dir : Direction) : Nat → List Segment → List Candidate
  | _, [] => []
  | i, g :: rest =>
    ⟨.segment i, (match dir with | .downLine => g.upEnd | _ => g.start), segmentLimit p dir g⟩ ::
      segmentCandidates p dir (i + 1) rest

/-- The TABLE_EDGE candidate (R83). -/
def edgeCandidate (s : State) : List Candidate :=
  let table := s.store.segments
  let edge := match s.mode.direction with
    | .downLine => table.head?.map Segment.start
    | _ => table.getLast?.map Segment.upEnd
  (edge.map fun x => (⟨.tableEdge, x, s.store.params.shuntLimit⟩ : Candidate)).toList

/-- The RESTRICTION candidates, in list order (R83). -/
def restrictionCandidates (s : State) : List Candidate :=
  s.limits.restrictions.map fun r =>
    ⟨.restriction r.key r.state, (match s.mode.direction with | .downLine => r.stop | _ => r.start), r.limit⟩

/-- The target entry of a candidate at a distance (R85 to R87). -/
def targetAt (s : State) (front : Int) (c : Candidate) (d : Nat) (held : Bool) : Target :=
  let dReact := reactionDistance s.odo.speed s.store.params.tB
  let aNet := approachDecel s front (if held then front else c.point)
  { kind := c.kind, point := c.point, speed := c.speed, distance := d, aNet := aNet, dReact := dReact,
    dEff := d - dReact, vCurve := curveSpeed c.speed aNet (d - dReact) }

/-- A candidate's entry where its distance is 0..6,000 (R83). -/
def inWindow (s : State) (front : Int) (c : Candidate) : Option Target :=
  let d := distanceAhead s.mode.direction front c.point
  if 0 ≤ d ∧ d ≤ (Config.targetWindow : Int) then some (targetAt s front c d.toNat false) else none

/-- The PERMIT_END entry (R83). -/
def permitTarget (s : State) (front : Int) : List Target :=
  match s.mode.mode, s.limits.permit with
  | .line, some p =>
    let d := distanceAhead s.mode.direction front p.endPos
    if d ≤ (Config.targetWindow : Int) then
      [targetAt s front ⟨.permitEnd, p.endPos, 0⟩ d.toNat (decide (d < 0))]
    else []
  | _, _ => []

/-- An entry put before the first of greater distance (R84). -/
def insertTarget (t : Target) : List Target → List Target
  | [] => [t]
  | x :: rest => if t.distance < x.distance then t :: x :: rest else x :: insertTarget t rest

/-- Entries by ascending distance, those of equal distance in their order (R84). -/
def sortTargets (l : List Target) : List Target := l.foldl (fun sorted t => insertTarget t sorted) []

/-- The target list of a cycle (R82 to R84). -/
def targetList (s : State) : List Target :=
  match cycleSpan s with
  | none => []
  | some sp =>
    let front := safeFront s.mode.direction sp
    let candidates := segmentCandidates s.store.params s.mode.direction 0 s.store.segments ++
      edgeCandidate s ++ restrictionCandidates s
    sortTargets (candidates.filterMap (inWindow s front) ++ permitTarget s front)

/-! ### The permitted speed and the level -/

/-- The first entry of lowest curve speed below a bound, by index from `i` (R88). -/
def lowestCurve : Nat → Nat → Option Nat → List Target → Nat × Option Nat
  | _, bound, best, [] => (bound, best)
  | i, bound, best, t :: rest =>
    if t.vCurve < bound then lowestCurve (i + 1) t.vCurve (some i) rest
    else lowestCurve (i + 1) bound best rest

/-- The permitted speed and what governs it (R88). -/
def permittedSpeed (s : State) (limit : Nat) (targets : List Target) : Nat × Governing :=
  if s.mode.mode = .line ∧ s.limits.permit = none then (0, .noPermit)
  else
    let r := lowestCurve 0 limit none targets
    (r.1, match r.2 with | none => .static | some i => .target i)

/-- The new supervision level (R89). -/
def nextLevel (l : Level) (still : Bool) (v vPerm mSb mEb : Nat) : Level :=
  match l with
  | .emergency => if still then .normal else .emergency
  | _ =>
    if vPerm + mEb < v then .emergency
    else if vPerm + mSb < v then .service
    else if l = .service ∧ vPerm < v then .service
    else if vPerm < v then .warning
    else .normal

/-- The SUPERVISION row (R90). -/
def supervisionRow : Level → Kind
  | .normal => .none
  | .warning => .none
  | .service => .full
  | .emergency => .emergency

/-- A level as decided, with its event and its row (R90). -/
def putLevel (l : Level) (s : State) : State :=
  let s' := raiseIf (!(l = s.sup.level)) .supervision { s with sup := { s.sup with level := l } }
  writeRows { s'.dem.rows with supervision := supervisionRow l } s'

/-- One supervision cycle (R75). -/
def superviseOnce (s : State) : State :=
  let limit := staticLimitNow s
  let targets := targetList s
  let perm := permittedSpeed s limit.2 targets
  let level := nextLevel s.sup.level s.odo.standstill s.odo.speed perm.1 s.store.params.mSb
    (emergencyMargin s.store.params)
  putLevel level { s with sup := { s.sup with
    cycleTimer := 0, vPerm := perm.1, staticLimit := limit.2, staticReason := limit.1,
    targets := targets, governing := perm.2 } }

end Sys2Proof.Machine
end

