-- ==== Sys2Proof/Machine/Ops.lean ====
section
/-!
DEFINITION. The shared operations of the commands: how a port takes a request and answers it (R13, R171 to
R175), who holds authority and the selected direction (R5 to R10), and the values that a reset sets (R15).
-/

namespace Sys2Proof.Machine

/-- The outcome of a command that has its effect. -/
abbrev Result := Host.Outcome State Fault Refusal

/-! ### The trainline links -/

/-- A link's record replaced. -/
def putLink (l : LinkPort) (x : Link) (s : State) : State :=
  match l with
  | .a => { s with mode := { s.mode with linkA := x } }
  | .b => { s with mode := { s.mode with linkB := x } }

/-- A valid request heard on a trainline port (R13, R14). -/
def heardOn (l : LinkPort) (s : State) : State :=
  let up := putLink l ⟨.up, some 0⟩ s
  if (linkOf l s.mode).state = .up then up else formLinkRow (raise .link up)

/-- A valid request heard on a port; port C is not supervised (R13). -/
def heard (p : Port) (s : State) : State :=
  match p with
  | .a => heardOn .a s
  | .b => heardOn .b s
  | .c => s

/-- The silence timer of a trainline port reaches its limit (R13, R14); one that a valid request has started again
has not. -/
def silenceOn (l : LinkPort) (s : State) : State :=
  if (linkOf l s.mode).state = .up ∧ (linkOf l s.mode).timeUp then
    formLinkRow (raise .link (putLink l ⟨.lost, none⟩ s))
  else s

/-! ### Taking a request -/

/-- The command's own rule: the state after it, and the answer (R174). -/
abbrev Rule := State → State × Reply

/-- A refusal that changes nothing. -/
def refuse (s : State) (r : Reply) : State × Reply := (s, r)

/-- The tests of R174 from the second on: the body's length, LOADING, and the command's own rule. -/
def judge (code : Byte) (args : List Byte) (length : Nat) (rule : Rule) (s : State) : State × Reply :=
  if args.length ≠ length then (s, plainReply .badArgument)
  else if s.mode.mode = .loading ∧ code ≠ 0x01 then (s, plainReply .loading)
  else rule s

/-- The receive state after a telegram, and the link heard (R13, R172). -/
def completeTelegram (p : Port) (s : State) : State :=
  heard p (updPort p (fun r => { r with rx := .awaiting }) s)

/-- A request counted and discarded, the port still sending (R173). -/
def discardRequest (p : Port) (s : State) : State :=
  updPort p (fun r => { r with discarded := satInc r.discarded }) s

/-- An answer held and begun (R173). -/
def holdAnswer (p : Port) (code : Byte) (r : State × Reply) : State :=
  updPort p (fun x => { x with held := some ⟨code, r.2, 0⟩ }) r.1

/-- A valid request complete on a port: discarded while one is held, else judged, acted on and answered
(R173, R174). -/
def takeRequest (p : Port) (code : Byte) (judged : Rule) (s : State) : State :=
  let s := completeTelegram p s
  if (portOf p s).held.isSome then discardRequest p s else holdAnswer p code (judged s)

/-- A request by its code, its arguments, the length its layout requires and its rule. -/
def request (p : Port) (code : Byte) (args : List Byte) (length : Nat) (rule : Rule) (s : State) : Result :=
  .next (takeRequest p code (judge code args length rule) s)

/-- A rule for the holder alone (R175). -/
def asHolder (p : Port) (rule : Rule) : Rule := fun s =>
  if isHolder p s then rule s else (s, notHolderReply p)

/-- A rule for the holder or port C (R175). -/
def asHolderOrPanel (p : Port) (rule : Rule) : Rule := fun s =>
  if isHolder p s ∨ p = .c then rule s else (s, plainReply .notAuthority)

/-- A rule under one more test, in its order (R174). -/
def refuseIf (failed : State → Bool) (answer : Reply) (rule : Rule) : Rule := fun s =>
  if failed s then (s, answer) else rule s

/-- Standstill does not hold. -/
def moving (s : State) : Bool := !s.odo.standstill

/-- A commit is in progress (R52). -/
def committing (s : State) : Bool :=
  match s.store.commit with
  | .idle => false
  | .writing _ _ => true

/-- The mode is not the one given. -/
def notMode (m : CarMode) (s : State) : Bool := !(s.mode.mode = m)

/-! ### Authority and direction -/

/-- The holder that a port is, port C being none (R5). -/
def holderOf : Port → Holder
  | .a => .portA
  | .b => .portB
  | .c => .none

/-- The selected direction changed: the awaited mark is made absent (R27), and a permit in another
direction with it (R10). A direction that is the present one changes nothing. -/
def changeDirection (d : Direction) (s : State) : State :=
  if d = s.mode.direction then s
  else
    let s := raise .authority (updOdo (fun o => { o with awaited := none })
      { s with mode := { s.mode with direction := d } })
    if s.limits.permit.any (fun p => !(p.direction = d)) then dropPermit s else s

/-- The holder changed, with its event (R5). -/
def changeHolder (h : Holder) (s : State) : State :=
  raise .authority { s with mode := { s.mode with holder := h } }

/-- Authority leaves a holder: its CAB row loses its service part (R9). -/
def dropService (h : Holder) (r : Rows) : Rows :=
  match h with
  | .none => r
  | .portA => { r with cabA := { r.cabA with service := .none } }
  | .portB => { r with cabB := { r.cabB with service := .none } }

/-- Authority passes from a holder to another or to none: the direction becomes NONE, the LINK row NONE,
and the service part of the holder that loses it (R7, R8, R9). R96 lets either row be taken first: that both are written at
once and the driven kind is formed once, as if the LINK row fell first, is the model's choice
(notes/assumptions/25.md). -/
def passAuthority (h : Holder) (s : State) : State :=
  let old := s.mode.holder
  let s := changeDirection .none (changeHolder h s)
  writeRows (dropService old { s.dem.rows with link := .none }) s

/-! ### Resets -/

/-- The rows after a reset (R93). -/
def resetRows (secured : Bool) (alarm : AlarmState) : Rows :=
  { Demands.reset.rows with doors := doorsRow secured false, alarm := alarmRow alarm false }

/-- The doors after a reset that finds these inputs, the default door map in use and no composition
(R130, R131). -/
def resetDoors (i : CarInputs) : Doors :=
  let m := Params.default.doorMap
  let side (e : DoorMapEntry) := lineSideOf .normal e.side
  let q : Quad Door := ⟨Door.found (side m.d1) i.doors.d1, Door.found (side m.d2) i.doors.d2,
    Door.found (side m.d3) i.doors.d3, Door.found (side m.d4) i.doors.d4⟩
  ⟨q, false, false, allSecured q⟩

/-- The demands after a reset that finds these inputs (R93). -/
def resetDemands (i : CarInputs) : Demands :=
  let alarm := alarmFromClear (alarmPulled i.handles) false
  { Demands.reset with
    rows := resetRows (resetDoors i).loopClosed alarm, alarm := alarm, handles := i.handles }

/-- The part as power-on leaves it, with its inputs as they stand. -/
def freshState (i : CarInputs) : State :=
  { State.reset with doors := resetDoors i, dem := resetDemands i }

/-- The inputs as the part has them. -/
def inputsNow (s : State) : CarInputs := ⟨s.doors.door.map (·.inputs), s.dem.handles⟩

/-- What a port keeps through a RESTART (R15, R171): its receive state, an answer in progress, and its error
counters. -/
def PortRec.restarted (r : PortRec) : PortRec :=
  { PortRec.reset with
    rx := r.rx, held := r.held, framingErrors := r.framingErrors, crcErrors := r.crcErrors,
    discarded := r.discarded }

/-- The part after a RESTART (R15, R16). -/
def restartedState (s : State) : State :=
  { freshState (inputsNow s) with
    mode := { ModeUnit.reset with linkA := s.mode.linkA, linkB := s.mode.linkB }
    radio := { Radio.reset with counters := s.radio.counters }
    ports := s.ports.map PortRec.restarted
    memory := (abandonByRestart s).memory
    pending := s.pending }

/-- The part after power-on (R16, R54). -/
def poweredState (i : CarInputs) (s : State) : State :=
  { freshState i with memory := (abandonByPowerOn s).memory, pending := s.pending }

end Sys2Proof.Machine
end

