-- ==== Sys2Proof/Machine/Authority.lean ====
section
/-!
DEFINITION. The commands of the Mode and Authority Unit and of the position: TAKE AUTHORITY, RELEASE
AUTHORITY, SET DIRECTION, SET COMPOSITION, SET POSITION, SELECT MODE (R2 to R12, R28).
-/

namespace Sys2Proof.Machine

/-- TAKE AUTHORITY (R6, R7). -/
def ruleTakeAuthority (p : Port) : Rule := fun s =>
  if p = .c then (s, plainReply .notPermitted)
  else if s.mode.holder = .none then (changeHolder (holderOf p) s, okReply [])
  else if isHolder p s then (s, okReply [])
  else if !holderLinkLost s.mode then (s, plainReply .busy)
  else if moving s then (s, plainReply .notStandstill)
  else (passAuthority (holderOf p) s, okReply [])

def execTakeAuthority (p : Port) (args : List Byte) (s : State) : Result :=
  request p 0x10 args 0 (ruleTakeAuthority p) s

/-- RELEASE AUTHORITY (R8, R9). -/
def ruleReleaseAuthority (p : Port) : Rule :=
  asHolder p <| refuseIf moving (plainReply .notStandstill) fun s => (passAuthority .none s, okReply [])

def execReleaseAuthority (p : Port) (args : List Byte) (s : State) : Result :=
  request p 0x11 args 0 (ruleReleaseAuthority p) s

/-- SET DIRECTION (R10). -/
def ruleSetDirection (p : Port) (args : List Byte) : Rule := asHolder p fun s =>
  match directionArg (byteAt args 0) with
  | none => (s, plainReply .badArgument)
  | some d => if moving s then (s, plainReply .notStandstill) else (changeDirection d s, okReply [])

def execSetDirection (p : Port) (args : List Byte) (s : State) : Result :=
  request p 0x12 args 1 (ruleSetDirection p args) s

/-- The composition that SET COMPOSITION carries, none where a field is out of range (R11). -/
def compositionArg (args : List Byte) : Option Composition :=
  let train := word16 args 0
  let length := word16 args 2
  let offset := word16 args 4
  match orientationArg (byteAt args 6), roleArg (byteAt args 7) with
  | some o, some r =>
    if within 1 4095 train && within 50 1200 length && decide (offset ≤ length) then
      some ⟨train, length, offset, o, r⟩
    else none
  | _, _ => none

/-- The radio's part of a SET COMPOSITION (R166). -/
def radioComposed (role : RadioRole) (interval : Nat) (r : Radio) : Radio :=
  match role with
  | .transmit => { r with reportDue := false, reportTimer := some (0, interval) }
  | .listen =>
    { r with
      reportDue := false, reportTimer := none, acks := []
      transmission := r.transmission.map fun t =>
        match t.kind with
        | .ack e _ => { t with kind := .ack e false }
        | .report => t }

/-- The composition record written, with all that follows (R11, R125, R127, R166). -/
def putComposition (c : Composition) (s : State) : State :=
  let s := raise .mode { s with mode := { s.mode with composition := some c } }
  let s := updRadio (radioComposed c.role s.store.params.reportInterval) s
  if s.drive.source = .test then abortTest .composition s
  else raise .brakeTest { s with drive := { s.drive with testRecord := .notRun false } }

/-- SET COMPOSITION (R11, R12). -/
def ruleSetComposition (p : Port) (args : List Byte) : Rule := asHolder p fun s =>
  match compositionArg args with
  | none => (s, plainReply .badArgument)
  | some c =>
    if notMode .shunt s then (s, plainReply .wrongMode)
    else if moving s then (s, plainReply .notStandstill)
    else (putComposition c s, okReply [])

def execSetComposition (p : Port) (args : List Byte) (s : State) : Result :=
  request p 0x13 args 8 (ruleSetComposition p args) s

/-- The position set by command (R28), the zone following it (R155). -/
def putPosition (x u : Nat) (s : State) : State :=
  formZone (notice .knownByCommand (updOdo (fun o => { o with
    position := x, remainder := 0, posState := .known, uncertainty := u,
    accumulator := (u - Config.leastUncertainty) * 1000, unexpectedMarks := 0, sinceCorrection := 0,
    awaited := none }) s))

/-- SET POSITION (R28). -/
def ruleSetPosition (p : Port) (args : List Byte) : Rule := asHolder p fun s =>
  let x := word24 args 0
  let u := word16 args 3
  if !(decide (x ≤ Config.lineEnd) && within 50 Config.greatestUncertainty u) then
    (s, plainReply .badArgument)
  else if moving s then (s, plainReply .notStandstill)
  else (putPosition x u s, okReply [])

def execSetPosition (p : Port) (args : List Byte) (s : State) : Result :=
  request p 0x14 args 5 (ruleSetPosition p args) s

/-- The first entry condition of LINE that fails (R3). -/
def lineCondition (s : State) : Option Condition :=
  if s.store.result ≠ .profileLoaded then some .profileNotLoaded
  else if s.odo.posState ≠ .known then some .positionNotKnown
  else if s.mode.composition = none then some .noComposition
  else if s.drive.testRecord ≠ .passed then some .brakeTestNotPassed
  else if s.drive.faultState ≠ .none then some .brakeFault
  else none

/-- The mode changed, with its event; a change to SHUNT makes the permit absent (R2, R4). -/
def changeMode (m : CarMode) (s : State) : State :=
  let s := raise .mode { s with mode := { s.mode with mode := m } }
  if m = .shunt then dropPermit s else s

/-- SELECT MODE (R2, R3, R4). -/
def ruleSelectMode (p : Port) (args : List Byte) : Rule := asHolder p fun s =>
  match modeArg (byteAt args 0) with
  | none => (s, plainReply .badArgument)
  | some m =>
    if moving s then (s, plainReply .notStandstill)
    else if committing s then (s, plainReply .busy)
    else if m = s.mode.mode then (s, okReply [])
    else if m = .line then
      match lineCondition s with
      | some c => (s, conditionReply c)
      | none => (changeMode .line s, okReply [])
    else (changeMode m s, okReply [])

def execSelectMode (p : Port) (args : List Byte) (s : State) : Result :=
  request p 0x15 args 1 (ruleSelectMode p args) s

end Sys2Proof.Machine
end

