-- ==== Sys2Proof/Machine/BrakeEvents.lean ====
section
/-!
DEFINITION. What arrives at the Brake Drive Unit: period starts, pressure readings, and the expiries of its
timers (R111, R115 to R120, R123, R124).
-/

namespace Sys2Proof.Machine

/-- The state with its brake drive changed by a function. -/
def updDrive (f : BrakeDrive → BrakeDrive) (s : State) : State := { s with drive := f s.drive }

/-- PERIOD_START (R115). -/
def execPeriodStart (s : State) : Result :=
  .next (updDrive (fun d => { d with activeDuty := d.duty, periodTimer := 0 }) s)

/-- A pressure reading, held at 5,000 kPa (R111). -/
def readingOf (kPa : Nat) : Nat := min 5000 kPa

/-- A service check judged by a reading (R116). -/
def ServiceCheck.judge (v : Nat) (c : ServiceCheck) : ServiceCheck :=
  if c.outcome = .running ∧ c.bandLow ≤ v ∧ v ≤ c.bandHigh then { c with outcome := .met } else c

/-- A service pressure reading used (R111, R116, R123). -/
def useServiceReading (v : Nat) (s : State) : State :=
  let s := updDrive (fun d => { d with serviceReading := some v }) s
  match s.drive.testStep with
  | some t => if serviceMeetsStep t.step s.drive v then meetStep t.step s else s
  | none => updDrive (fun d => { d with serviceCheck := d.serviceCheck.judge v }) s

/-- SERVICE_PRESSURE_READING (R111, R116). -/
def execServicePressureReading (kPa : Nat) (s : State) : Result := .next (useServiceReading (readingOf kPa) s)

/-- A spring check judged by a reading (R119, R120). -/
def SpringCheck.judge (v : Nat) (c : SpringCheck) : SpringCheck :=
  match c.outcome with
  | .releaseRunning => if Config.releasedAbove < v then { c with outcome := .met } else c
  | .applyRunning => if v < Config.appliedBelow then { c with outcome := .met } else c
  | _ => c

/-- The spring brake status for a reading and a release valve (R118). -/
def springStatusOf (v : Nat) (valve : Valve) : SpringStatus :=
  if v < Config.appliedBelow then .applied
  else if Config.releasedAbove < v then .released
  else match valve with | .energized => .releasing | .deEnergized => .applying

/-- The spring brake status formed from a reading, with its event (R118). -/
def formSpringStatus (v : Nat) (s : State) : State :=
  let st := springStatusOf v s.drive.valve
  raiseIf (!(st = s.drive.springStatus)) .brakeState (updDrive (fun d => { d with springStatus := st }) s)

/-- A reading above 2,500 kPa clears SPRING_STUCK (R119). -/
def clearStuck (v : Nat) (s : State) : State :=
  if Config.releasedAbove < v then
    raiseIf s.drive.springStuck .brakeState (updDrive (fun d => { d with springStuck := false }) s)
  else s

/-- A release pressure reading used: by the running check or step, and then for the status (R111, R118). -/
def useReleaseReading (v : Nat) (s : State) : State :=
  let s := updDrive (fun d => { d with releaseReading := some v }) s
  let s := match s.drive.testStep with
    | some t => if releaseMeetsStep t.step v then meetStep t.step s else s
    | none => updDrive (fun d => { d with springCheck := d.springCheck.judge v }) s
  formSpringStatus v (clearStuck v s)

/-- RELEASE_PRESSURE_READING (R111, R118 to R120). -/
def execReleasePressureReading (kPa : Nat) (s : State) : Result := .next (useReleaseReading (readingOf kPa) s)

/-- SERVICE_CHECK_TIMER_EXPIRY (R116, R117): of the check that has run its full time, not of one started since. -/
def execServiceCheckTimerExpiry (s : State) : Result :=
  .next (if s.drive.serviceCheck.timeUp then
    setFaults true s.drive.springFail
      (updDrive (fun d => { d with serviceCheck := { d.serviceCheck with outcome := .missed } }) s)
  else s)

/-- A spring check ends MISSED (R119, R120). -/
def missSpring (s : State) : State :=
  updDrive (fun d => { d with springCheck := { d.springCheck with outcome := .missed } }) s

/-- RELEASE_CHECK_TIMER_EXPIRY (R119). -/
def execReleaseCheckTimerExpiry (s : State) : Result :=
  .next (if s.drive.springCheck.releaseUp then
    raiseIf (!s.drive.springStuck) .brakeState
      (updDrive (fun d => { d with springStuck := true }) (missSpring s))
  else s)

/-- APPLY_CHECK_TIMER_EXPIRY (R120). -/
def execApplyCheckTimerExpiry (s : State) : Result :=
  .next (if s.drive.springCheck.applyUp then
    setFaults s.drive.serviceSlow true (missSpring s) else s)

/-- BRAKE_TEST_STEP_TIMER_EXPIRY (R123, R124): of the step that has run its time, not of one begun since. -/
def execBrakeTestStepTimerExpiry (s : State) : Result :=
  .next (match s.drive.testStep with
    | some t => if t.timeUp then endTest (.failed t.step) s else s
    | none => s)

end Sys2Proof.Machine
end

