-- ==== Sys2Proof/Machine/Braking.lean ====
section
/-!
DEFINITION. The commands of the brakes and of the passenger alarm: BRAKE DEMAND, EMERGENCY, EMERGENCY
WITHDRAW, EMERGENCY RESET, BRAKE TEST START, BRAKE TEST ABORT, ALARM CONFIRM, ALARM OVERRIDE (R98 to R101,
R105, R106, R122, R126).
-/

namespace Sys2Proof.Machine

/-- The service part for a level carried, after the clamp (R99). -/
def servicePart (level : Nat) : Kind :=
  if level = 0 then .none else if level < 1000 then .service level else .full

/-- The abort hold ends (R125). -/
def endHold (s : State) : State := if s.drive.source = .abortHold then takeMapping s else s

/-- BRAKE DEMAND (R99); it ends an abort hold whatever its level (R125). -/
def ruleBrakeDemand (p : Port) (args : List Byte) : Rule := asHolder p fun s =>
  let part := servicePart (word16 args 0)
  (endHold (writeRows (s.dem.rows.updPort p fun r => { r with service := part }) s), okReply [])

def execBrakeDemand (p : Port) (args : List Byte) (s : State) : Result :=
  request p 0x20 args 2 (ruleBrakeDemand p args) s

/-- The emergency part of a port's row as asked for; one that stands so already changes nothing (R100,
R101). -/
def putEmergency (p : Port) (e : Bool) : Rule := fun s =>
  if (s.dem.rows.ofPort p).emergency = e then (s, okReply [])
  else (raise .emergency (writeRows (s.dem.rows.updPort p fun r => { r with emergency := e }) s), okReply [])

/-- EMERGENCY (R100). -/
def ruleEmergency (p : Port) : Rule := putEmergency p true

def execEmergency (p : Port) (args : List Byte) (s : State) : Result :=
  request p 0x21 args 0 (ruleEmergency p) s

/-- EMERGENCY WITHDRAW (R101). -/
def ruleEmergencyWithdraw (p : Port) : Rule := putEmergency p false

def execEmergencyWithdraw (p : Port) (args : List Byte) (s : State) : Result :=
  request p 0x22 args 0 (ruleEmergencyWithdraw p) s

/-- The latch cleared, with its event, the driven kind following (R96, R98). -/
def clearLatch (s : State) : State :=
  refreshDriven (raise .emergency { s with dem := { s.dem with latch := false } })

/-- EMERGENCY RESET (R98). -/
def ruleEmergencyReset (p : Port) : Rule := asHolder p fun s =>
  if !s.dem.latch then (s, okReply [])
  else if moving s then (s, plainReply .notStandstill)
  else
    match firstEmergency s.dem.rows with
    | some r => (s, ⟨.condition, some .rowEmergency, [r.code]⟩)
    | none =>
      if s.drive.springStatus ≠ .applied then (s, conditionReply .springNotApplied)
      else (clearLatch s, okReply [])

def execEmergencyReset (p : Port) (args : List Byte) (s : State) : Result :=
  request p 0x23 args 0 (ruleEmergencyReset p) s

/-- A running service check ends neither met nor missed (R122). The rule names no outcome for it: that it shows IDLE,
its target, band, timer and limit standing, is the model's choice (notes/assumptions/23.md). -/
def ServiceCheck.dropped (c : ServiceCheck) : ServiceCheck :=
  if c.outcome = .running then { c with outcome := .idle } else c

/-- A running spring check ends neither met nor missed (R122). That it shows IDLE, its timer and limit standing, is the
model's choice (notes/assumptions/23.md). -/
def SpringCheck.dropped (c : SpringCheck) : SpringCheck :=
  if c.outcome = .releaseRunning ∨ c.outcome = .applyRunning then { c with outcome := .idle } else c

/-- The brake test begins (R122). -/
def beginTest (s : State) : State :=
  let s := writeRecord (.notRun false) s
  beginStep 1 { s with drive := { s.drive with
    source := .test, serviceCheck := s.drive.serviceCheck.dropped,
    springCheck := s.drive.springCheck.dropped } }

/-- A brake test is running (R122). -/
def testing (s : State) : Bool := s.drive.source = .test

/-- BRAKE TEST START (R122). -/
def ruleBrakeTestStart (p : Port) : Rule :=
  asHolder p <| refuseIf (notMode .shunt) (plainReply .wrongMode) <|
    refuseIf moving (plainReply .notStandstill) <| refuseIf testing (plainReply .busy) <|
    refuseIf (·.dem.latch) (conditionReply .latchSet) <|
    refuseIf (fun s => !(s.drive.faultState = .none)) (conditionReply .brakeFault)
      fun s => (beginTest s, plainReply .accepted)

def execBrakeTestStart (p : Port) (args : List Byte) (s : State) : Result :=
  request p 0x24 args 0 (ruleBrakeTestStart p) s

/-- BRAKE TEST ABORT (R126). -/
def ruleBrakeTestAbort (p : Port) : Rule :=
  asHolder p <| refuseIf (fun s => !testing s) (conditionReply .noTest) fun s =>
    (abortTest .request s, okReply [])

def execBrakeTestAbort (p : Port) (args : List Byte) (s : State) : Result :=
  request p 0x25 args 0 (ruleBrakeTestAbort p) s

/-- A request that sets the alarm state, refused while it is CLEAR (R105, R106). -/
def askAlarm (a : AlarmState) (p : Port) : Rule :=
  asHolder p <| refuseIf (fun s => s.dem.alarm = .clear) (conditionReply .noAlarm) fun s =>
    (setAlarm a s, okReply [])

/-- ALARM CONFIRM (R105). -/
def ruleAlarmConfirm (p : Port) : Rule := askAlarm .confirmed p

def execAlarmConfirm (p : Port) (args : List Byte) (s : State) : Result :=
  request p 0x33 args 0 (ruleAlarmConfirm p) s

/-- ALARM OVERRIDE (R106). -/
def ruleAlarmOverride (p : Port) : Rule := askAlarm .overridden p

def execAlarmOverride (p : Port) (args : List Byte) (s : State) : Result :=
  request p 0x34 args 0 (ruleAlarmOverride p) s

end Sys2Proof.Machine
end

