-- ==== Sys2Proof/Machine/DoorEvents.lean ====
section
/-!
DEFINITION. What arrives at the doors and at the passenger alarm handles (R103, R133 to R141).
-/

namespace Sys2Proof.Machine

/-- DOOR_TIMER_EXPIRY (R134, R136 to R138). -/
def execDoorTimerExpiry (d : DoorId) (s : State) : Result := .next (updDoor d (·.onTimer (doorCtx s)) s)

/-- Whether the change of an input of a door to absent sets LOCK_LOST (R140). -/
def losesLock (d : Door) (was present : Bool) : Bool := d.state = .closedLocked && was && !present

/-- DOOR_LOCKED_INPUT (R134, R138, R140). -/
def execDoorLockedInput (d : DoorId) (present : Bool) (s : State) : Result :=
  let old := doorOf d s.doors.door
  .next (updDoor d (·.onLocked (doorCtx s) present)
    (raiseIf (losesLock old old.inputs.locked present) .doorFault s))

/-- DOOR_CLOSED_INPUT (R137, R140). -/
def execDoorClosedInput (d : DoorId) (present : Bool) (s : State) : Result :=
  let old := doorOf d s.doors.door
  .next (updDoor d (·.onClosed present)
    (raiseIf (losesLock old old.inputs.closed present) .doorFault s))

/-- DOOR_OPEN_LIMIT_INPUT (R132, R136). -/
def execDoorOpenLimitInput (d : DoorId) (present : Bool) (s : State) : Result :=
  .next (updDoor d (·.onOpenLimit (doorCtx s) present) s)

/-- DOOR_OBSTACLE_INPUT (R139). -/
def execDoorObstacleInput (d : DoorId) (present : Bool) (s : State) : Result :=
  .next (updDoor d (·.onObstacle (doorCtx s) present) s)

/-- PASSENGER_BUTTON (R134, R135). -/
def execPassengerButton (d : DoorId) (pressed : Bool) (s : State) : Result :=
  .next (updDoor d (·.onButton (doorCtx s) pressed) s)

/-- ISOLATION_SWITCH (R141). -/
def execIsolationSwitch (d : DoorId) (on : Bool) (s : State) : Result :=
  .next (updDoor d (·.onIsolation on) s)

/-- Whether a handle is recorded as pulled. -/
def handleOf (h : HandleId) (q : Quad Bool) : Bool :=
  match h with
  | .h1 => q.d1
  | .h2 => q.d2
  | .h3 => q.d3
  | .h4 => q.d4

/-- One handle recorded. -/
def putHandle (h : HandleId) (pulled : Bool) (q : Quad Bool) : Quad Bool :=
  match h with
  | .h1 => { q with d1 := pulled }
  | .h2 => { q with d2 := pulled }
  | .h3 => { q with d3 := pulled }
  | .h4 => { q with d4 := pulled }

/-- HANDLE_CHANGE (R103, R104); an input found as it is recorded is no change. -/
def execHandleChange (h : HandleId) (pulled : Bool) (s : State) : Result :=
  .next (if handleOf h s.dem.handles = pulled then s
    else evaluateAlarm false (raise .alarm
      { s with dem := { s.dem with handles := putHandle h pulled s.dem.handles } }))

end Sys2Proof.Machine
end

