-- ==== Sys2Proof/Machine/DoorRequests.lean ====
section
/-!
DEFINITION. The commands of the doors: DOOR RELEASE, DOOR CLOSE, DOOR RETRY (R142 to R147).
-/

namespace Sys2Proof.Machine

/-- Whether a door of the map qualifies, once its line side and position stand as placed (R143). -/
def qualifiers (s : State) (side : LineSide) (q : Quad Door) : Quad Bool :=
  let m := s.store.params.doorMap
  ⟨doorQualifies s side m.d1 q.d1, doorQualifies s side m.d2 q.d2,
   doorQualifies s side m.d3 q.d3, doorQualifies s side m.d4 q.d4⟩

/-- A door acted on where it qualifies (R144). -/
def releaseWhere (c : DoorCtx) (auto qualifies : Bool) (d : Door) : Door :=
  if qualifies then d.onRelease c auto else d

/-- A release taken: the side flag, and each qualified door (R142, R144). -/
def releaseDoors (side : LineSide) (auto : Bool) (q : Quad Door) (w : Quad Bool) (s : State) : State :=
  let left := s.doors.leftReleased || side = .left
  let right := s.doors.rightReleased || side = .right
  let c := { doorCtx s with left := left, right := right }
  putDoors ⟨releaseWhere c auto w.d1 q.d1, releaseWhere c auto w.d2 q.d2,
    releaseWhere c auto w.d3 q.d3, releaseWhere c auto w.d4 q.d4⟩ left right s

/-- Test 5 of DOOR RELEASE and what follows it: the doors are placed anew whether or not one qualifies
(R131, R142). -/
def tryRelease (side : LineSide) (auto : Bool) : Rule := fun s =>
  let q := placeDoors s
  let w := qualifiers s side q
  let s := { s with doors := { s.doors with door := q } }
  if w.d1 || w.d2 || w.d3 || w.d4 then (releaseDoors side auto q w s, plainReply .accepted)
  else (s, plainReply .noPlatform)

/-- DOOR RELEASE (R142). -/
def ruleDoorRelease (p : Port) (args : List Byte) : Rule := asHolder p fun s =>
  match lineSideArg (byteAt args 0), flagArg (byteAt args 1) with
  | some side, some auto =>
    if moving s then (s, plainReply .notStandstill)
    else if s.drive.springStatus ≠ .applied then (s, conditionReply .springNotApplied)
    else tryRelease side auto s
  | _, _ => (s, plainReply .badArgument)

def execDoorRelease (p : Port) (args : List Byte) (s : State) : Result :=
  request p 0x30 args 2 (ruleDoorRelease p args) s

/-- A close of the sides named (R145). -/
def closeSides (left right : Bool) (s : State) : State :=
  let l := s.doors.leftReleased && !left
  let r := s.doors.rightReleased && !right
  let c := { doorCtx s with left := l, right := r }
  let close (d : Door) : Door :=
    if (match d.lineSide with | .left => left | .right => right) then d.onClose c else d
  putDoors (s.doors.door.map close) l r s

/-- DOOR CLOSE (R145). -/
def ruleDoorClose (p : Port) (args : List Byte) : Rule := asHolderOrPanel p fun s =>
  match closeSidesArg (byteAt args 0) with
  | none => (s, plainReply .badArgument)
  | some sides => (closeSides sides.1 sides.2 s, plainReply .accepted)

def execDoorClose (p : Port) (args : List Byte) (s : State) : Result :=
  request p 0x31 args 1 (ruleDoorClose p args) s

/-- Whether a door is in OBSTRUCTED or FAULT (R147). -/
def Door.waitsForRetry (d : Door) : Bool := d.state = .obstructed || d.state = .fault

/-- DOOR RETRY (R147). -/
def ruleDoorRetry (p : Port) (args : List Byte) : Rule := asHolderOrPanel p fun s =>
  match doorArg (byteAt args 0) with
  | none => (s, plainReply .badArgument)
  | some d =>
    if (doorOf d s.doors.door).waitsForRetry then
      (updDoor d (·.onRetry (doorCtx s)) s, plainReply .accepted)
    else (s, conditionReply .doorNotHeld)

def execDoorRetry (p : Port) (args : List Byte) (s : State) : Result :=
  request p 0x32 args 1 (ruleDoorRetry p args) s

end Sys2Proof.Machine
end

