-- ==== Sys2Proof/Machine/LimitRequests.lean ====
section
/-!
DEFINITION. The commands of the Restriction and Permit Table: RESTRICTION ADD, RESTRICTION LIFT, PERMIT
ENTER, PERMIT CLEAR, RADIO STOP OVERRIDE (R62, R63, R69, R70, R73).
-/

namespace Sys2Proof.Machine

/-- RESTRICTION ADD (R62). -/
def ruleRestrictionAdd (p : Port) (args : List Byte) : Rule := asHolder p fun s =>
  let id := byteAt args 0
  let start := word24 args 1
  let stop := word24 args 4
  let limit := word16 args 7
  if restrictionInRange id start stop limit then
    let r := setRestriction ⟨.cab, 0, id⟩ start stop limit s
    (r.1, plainReply (if r.2 then .ok else .full))
  else (s, plainReply .badArgument)

def execRestrictionAdd (p : Port) (args : List Byte) (s : State) : Result :=
  request p 0x40 args 9 (ruleRestrictionAdd p args) s

/-- RESTRICTION LIFT (R63). -/
def ruleRestrictionLift (p : Port) (args : List Byte) : Rule := asHolder p fun s =>
  if byteAt args 0 = 0 then (s, plainReply .badArgument)
  else (liftRestriction ⟨.cab, 0, byteAt args 0⟩ s, okReply [])

def execRestrictionLift (p : Port) (args : List Byte) (s : State) : Result :=
  request p 0x41 args 1 (ruleRestrictionLift p args) s

/-- A RADIO permit stands in the way of a cab permit (R69, test 6). -/
def radioPermitHolds (s : State) : Bool :=
  s.limits.permit.any (·.origin = .radio) && !(s.radio.coverage = .lost)

/-- PERMIT ENTER (R69). -/
def rulePermitEnter (p : Port) (args : List Byte) : Rule :=
  asHolder p <| refuseIf (fun _ => decide (Config.lineEnd < word24 args 0)) (plainReply .badArgument) <|
    refuseIf (notMode .line) (plainReply .wrongMode) <| refuseIf moving (plainReply .notStandstill) <|
    refuseIf (fun s => s.mode.direction = .none) (conditionReply .noDirection) <|
    refuseIf radioPermitHolds (conditionReply .radioPermitPresent)
      fun s => (putPermit ⟨.cab, 0, 0, word24 args 0, s.mode.direction⟩ s, okReply [])

def execPermitEnter (p : Port) (args : List Byte) (s : State) : Result :=
  request p 0x42 args 3 (rulePermitEnter p args) s

/-- PERMIT CLEAR (R70). -/
def rulePermitClear (p : Port) : Rule :=
  asHolder p <| refuseIf moving (plainReply .notStandstill) fun s => (dropPermit s, okReply [])

def execPermitClear (p : Port) (args : List Byte) (s : State) : Result :=
  request p 0x43 args 0 (rulePermitClear p) s

/-- RADIO STOP OVERRIDE (R73). -/
def ruleRadioStopOverride (p : Port) : Rule :=
  asHolder p <| refuseIf moving (plainReply .notStandstill) <|
    refuseIf (fun s => !(s.radio.coverage = .lost)) (conditionReply .coverageNotLost) fun s =>
      (putStops (s.limits.stops.map fun _ => .none) s, okReply [])

def execRadioStopOverride (p : Port) (args : List Byte) (s : State) : Result :=
  request p 0x44 args 0 (ruleRadioStopOverride p) s

end Sys2Proof.Machine
end

