-- ==== Sys2Proof/Machine/LoaderEvents.lean ====
section
/-!
DEFINITION. What arrives at the Profile Store from the profile memory: the answers and ends of the loader's
reads (R41 to R45) and of the commit's transfers and polls (R52, R53).
-/

namespace Sys2Proof.Machine

/-- Whether a status byte says that the memory is busy (Formats). -/
def memoryBusy (status : Byte) : Bool := status.getLsbD 0

/-- The loader polls the memory (R41). -/
def polling (s : State) : Bool :=
  match s.store.loader with
  | .poll _ => true
  | _ => false

/-- LOADER_STATUS_ANSWER (R41). -/
def execLoaderStatusAnswer (status : Byte) (s : State) : Result :=
  .next (if polling s && !memoryBusy status then updStore (fun x => { x with loader := .headerRead }) s else s)

/-- LOADER_BUSY_TIMEOUT (R41). -/
def execLoaderBusyTimeout (s : State) : Result :=
  .next (if s.store.loader.timeUp then endNoProfile .header .memoryBusy s else s)

/-- HEADER_READ_END (R41); the read ends with 16 bytes. -/
def execHeaderReadEnd (bytes : List Byte) (s : State) : Result :=
  .next (if s.store.loader = .headerRead ∧ bytes.length = 16 then takeHeader bytes s else s)

/-- PARAMETER_BLOCK_READ_END (R42); the read ends with 128 bytes. -/
def execParameterBlockReadEnd (bytes : List Byte) (s : State) : Result :=
  .next (if s.store.loader = .parameterRead ∧ bytes.length = 128 then takeParams bytes s else s)

/-- SEGMENT_BLOCK_READ_END (R43); the read ends with the bytes of the count read. -/
def execSegmentBlockReadEnd (bytes : List Byte) (s : State) : Result :=
  .next (if s.store.loader = .segmentRead ∧ bytes.length = segmentBlockLength s.store.headerCount then
    takeSegments bytes s else s)

/-- COMMIT_STATUS_ANSWER (R52); a busy answer is followed by another status read. -/
def execCommitStatusAnswer (status : Byte) (s : State) : Result :=
  .next (match s.store.commit with
    | .writing page (.poll _) => if memoryBusy status then s else endPage page s
    | _ => s)

/-- PAGE_TIMER_EXPIRY (R52, R53). -/
def execPageTimerExpiry (s : State) : Result :=
  .next (match s.store.commit with
    | .writing page _ => if s.store.commit.timeUp then failPage page s else s
    | .idle => s)

/-- COMMIT_TRANSFER_END (R52): after the write enable the page program is sent, which starts the page timer;
after the program the status is read. -/
def execCommitTransferEnd (s : State) : Result :=
  .next (match s.store.commit with
    | .writing page .writeEnable => updStore (fun x => { x with commit := .writing page (.program 0) }) s
    | .writing page (.program t) => updStore (fun x => { x with commit := .writing page (.poll t) }) s
    | _ => s)

end Sys2Proof.Machine
end

