-- ==== Sys2Proof/Machine/Motion.lean ====
section
/-!
DEFINITION. What arrives at the Odometry Unit and the Speed Supervisor: pulses, sampling expiries, the
beginning of standstill, the pinion fault, track marks, supervision cycles (R18 to R34, R75).
-/

namespace Sys2Proof.Machine

/-- TACHOMETER_PULSE (R18, R23). -/
def execTachometerPulse (t : Tacho) (forward : Bool) (s : State) : Result :=
  .next (let s := countPulse t forward s; if s.odo.standstill then endStandstill s else s)

/-- SAMPLING_EXPIRY (R19 to R33, R60, R103, R155). -/
def execSamplingExpiry (s : State) : Result := .next (sample s)

/-- STANDSTILL_BEGIN: the quiet time, running, reaches its length (R23). -/
def execStandstillBegin (s : State) : Result :=
  .next (if s.odo.quietRunning && !s.odo.standstill then beginStandstill s else s)

/-- PINION_FAULT: the pinion fault time, running, reaches its length (R31, R32). -/
def execPinionFault (s : State) : Result :=
  .next (if 0 < s.odo.pinionFaultTime ∧ s.odo.pinionFault = false then
    setPinionFault (updOdo (fun o => { o with pinionFaultTime := Config.pinionFaultTime }) s) else s)

/-- TRACK_MARK_DETECTION (R26). -/
def execTrackMarkDetection (s : State) : Result := .next (detectMark s)

/-- SUPERVISION_CYCLE (R75). -/
def execSupervisionCycle (s : State) : Result := .next (superviseOnce s)

end Sys2Proof.Machine
end

