-- ==== Sys2Proof/Machine/RadioRequests.lean ====
section
/-!
DEFINITION. The commands of the Valley Radio Unit: INBOX TAKE and COUNTER DECREMENT (R154, R163).
-/

namespace Sys2Proof.Machine

/-- INBOX TAKE (R163). -/
def ruleInboxTake : Rule := fun s =>
  match inboxOrder s.radio.inbox with
  | [] => (s, plainReply .notFound)
  | m :: _ => (updRadio (fun r => r.withInbox (r.inbox.erase m)) s, okReply (messageEntry m))

def execInboxTake (p : Port) (args : List Byte) (s : State) : Result :=
  request p 0x50 args 0 ruleInboxTake s

/-- COUNTER DECREMENT (R154). -/
def ruleCounterDecrement (args : List Byte) : Rule := fun s =>
  match counterArg (byteAt args 0) with
  | none => (s, plainReply .badArgument)
  | some k =>
    let v := s.radio.counters.get k - word16 args 1
    (updRadio (fun r => { r with counters := r.counters.put k v }) s, okReply (natField 2 v))

def execCounterDecrement (p : Port) (args : List Byte) (s : State) : Result :=
  request p 0x51 args 3 (ruleCounterDecrement args) s

end Sys2Proof.Machine
end

