-- ==== Sys2Proof/Machine/Reading.lean ====
section
/-!
DEFINITION. The commands that read the part and serve its event flags: READ STATUS, READ TABLE, READ EVENTS,
CLEAR EVENTS, SET MASK, CLEAR MASK (R177 to R183).
-/

namespace Sys2Proof.Machine

/-- READ STATUS (R177). -/
def ruleReadStatus (p : Port) : Rule := fun s => (s, okReply (statusPayload p s))

def execReadStatus (p : Port) (args : List Byte) (s : State) : Result :=
  request p 0x01 args 0 (ruleReadStatus p) s

/-- READ TABLE (R178, R179). -/
def ruleReadTable (p : Port) (args : List Byte) : Rule := fun s =>
  match tableArg (byteAt args 0) with
  | none => (s, plainReply .badArgument)
  | some t =>
    if (tableEntries p s t).length < word16 args 1 then (s, plainReply .notFound)
    else (s, okReply (tablePayload p s (byteAt args 0) t (word16 args 1) (byteAt args 3)))

def execReadTable (p : Port) (args : List Byte) (s : State) : Result :=
  request p 0x02 args 4 (ruleReadTable p args) s

/-- READ EVENTS (R182). -/
def ruleReadEvents (p : Port) : Rule := fun s => (s, okReply (flagField (portOf p s)))

def execReadEvents (p : Port) (args : List Byte) (s : State) : Result :=
  request p 0x03 args 0 (ruleReadEvents p) s

/-- A request that carries a set of event kinds, and changes the requesting port's flags by it (R181,
R182). -/
def withEventSet (p : Port) (args : List Byte) (f : EventSet → PortRec → PortRec) : Rule := fun s =>
  match eventSetArg (word24 args 0) with
  | none => (s, plainReply .badArgument)
  | some e => (updPort p (f e) s, okReply [])

/-- CLEAR EVENTS (R182). -/
def ruleClearEvents (p : Port) (args : List Byte) : Rule :=
  withEventSet p args fun e r => r.withFlags (r.raw &&& ~~~e) r.mask

def execClearEvents (p : Port) (args : List Byte) (s : State) : Result :=
  request p 0x04 args 3 (ruleClearEvents p args) s

/-- SET MASK (R181). -/
def ruleSetMask (p : Port) (args : List Byte) : Rule :=
  withEventSet p args fun e r => r.withFlags r.raw (r.mask ||| e)

def execSetMask (p : Port) (args : List Byte) (s : State) : Result :=
  request p 0x05 args 3 (ruleSetMask p args) s

/-- CLEAR MASK (R181). -/
def ruleClearMask (p : Port) (args : List Byte) : Rule :=
  withEventSet p args fun e r => r.withFlags r.raw (r.mask &&& ~~~e)

def execClearMask (p : Port) (args : List Byte) (s : State) : Result :=
  request p 0x06 args 3 (ruleClearMask p args) s

end Sys2Proof.Machine
end

