-- ==== Sys2Proof/Machine/Resets.lean ====
section
/-!
DEFINITION. The two resets: POWER_ON and RESTART (R15, R16, R17, R35, R55, R74, R93, R110, R130, R150,
R171).
-/

namespace Sys2Proof.Machine

/-- POWER_ON: every block takes its values after power-on, and the loader begins (R1, R15). What waits in
the queue goes on waiting: those commands come after the reset. -/
def execPowerOn (i : CarInputs) (s : State) : Result := .next (poweredState i s)

/-- RESTART (R15, R16): from the holder at standstill, from any port while the holder is NONE. -/
def ruleRestart (p : Port) : Rule := fun s =>
  if s.mode.holder = .none then (restartedState s, okReply [])
  else if !isHolder p s then (s, notHolderReply p)
  else if moving s then (s, plainReply .notStandstill)
  else (restartedState s, okReply [])

def execRestart (p : Port) (args : List Byte) (s : State) : Result :=
  request p 0x16 args 0 (ruleRestart p) s

end Sys2Proof.Machine
end

