-- ==== Sys2Proof/Machine/StoreRequests.lean ====
section
/-!
DEFINITION. The commands of the Profile Store: PROFILE WRITE, PARAMETER WRITE, PROFILE COMMIT (R47 to R54).
-/

namespace Sys2Proof.Machine

/-- The tests that every field edit makes last (R47, R49), then the edit. -/
def editing (rule : Rule) : Rule :=
  refuseIf (notMode .shunt) (plainReply .wrongMode) <| refuseIf moving (plainReply .notStandstill) <|
    refuseIf committing (plainReply .busy) rule

/-- The store edited, with its event (R47, R49). -/
def edit (f : Store → Store) (s : State) : State :=
  raise .profile (updStore (fun x => { f x with differs := true }) s)

/-- PROFILE WRITE (R47). -/
def ruleProfileWrite (p : Port) (args : List Byte) : Rule := asHolder p fun s =>
  let i := word16 args 0
  match s.store.segments[i]? with
  | none => (s, plainReply .notFound)
  | some g =>
    let r := rawFields g.start g.length (args.drop 2)
    if (recordFault none r).isSome then (s, plainReply .badArgument)
    else editing (fun s =>
      (edit (fun x => { x with segments := x.segments.set i r.toSegment }) s, okReply [])) s

def execProfileWrite (p : Port) (args : List Byte) (s : State) : Result :=
  request p 0x60 args 16 (ruleProfileWrite p args) s

/-- Whether a parameter is of the tachometer geometry: TOOTH_PITCH, AXLE_PULSES, WHEEL_CIRCUMFERENCE
(R50). -/
def isGeometry (id : Nat) : Bool := id ≤ 2

/-- PARAMETER WRITE (R49, R50). -/
def ruleParameterWrite (p : Port) (args : List Byte) : Rule := asHolder p fun s =>
  let id := byteAt args 0
  match withField id (byteAt args 1) (args.drop 2) s.store.params with
  | none => (s, plainReply .badArgument)
  | some q =>
    if !q.valid then (s, plainReply .badArgument)
    else editing (fun s =>
      (updOdo (fun o => if isGeometry id then { o with remainder := 0 } else o)
        (edit (fun x => { x with params := q }) s), okReply [])) s

def execParameterWrite (p : Port) (args : List Byte) (s : State) : Result :=
  request p 0x61 args 6 (ruleParameterWrite p args) s

/-- The commit begins at its first page's write enable (R51, R52). -/
def beginCommit (s : State) : State :=
  updStore (fun x => { x with
    commit := .writing 1 .writeEnable, pagesWritten := 0, pagesAll := commitPages x.segments.length }) s

/-- PROFILE COMMIT (R51). -/
def ruleProfileCommit (p : Port) : Rule :=
  asHolder p <| refuseIf (notMode .shunt) (plainReply .wrongMode) <|
    refuseIf moving (plainReply .notStandstill) <| refuseIf committing (plainReply .busy) <|
    refuseIf (fun s => s.store.lineId = 0) (conditionReply .noLineId)
      fun s => (beginCommit s, plainReply .accepted)

def execProfileCommit (p : Port) (args : List Byte) (s : State) : Result :=
  request p 0x62 args 0 (ruleProfileCommit p) s

end Sys2Proof.Machine
end

