-- ==== Sys2Proof/Machine/PortEvents.lean ====
section
/-!
DEFINITION. What arrives at the telegram ports besides the requests of the chapters: bytes, whole telegrams
of an unknown code, framing and CRC errors, the gap time, the end of an answer, and the silence of a link
(R13, R171 to R174).
-/

namespace Sys2Proof.Machine

/-- The length after the code, and the rule, of a command code (Formats, R174). -/
def ruleOf (code : Byte) (p : Port) (args : List Byte) : Option (Nat × Rule) :=
  match code.toNat with
  | 0x01 => some (0, ruleReadStatus p)
  | 0x02 => some (4, ruleReadTable p args)
  | 0x03 => some (0, ruleReadEvents p)
  | 0x04 => some (3, ruleClearEvents p args)
  | 0x05 => some (3, ruleSetMask p args)
  | 0x06 => some (3, ruleClearMask p args)
  | 0x10 => some (0, ruleTakeAuthority p)
  | 0x11 => some (0, ruleReleaseAuthority p)
  | 0x12 => some (1, ruleSetDirection p args)
  | 0x13 => some (8, ruleSetComposition p args)
  | 0x14 => some (5, ruleSetPosition p args)
  | 0x15 => some (1, ruleSelectMode p args)
  | 0x16 => some (0, ruleRestart p)
  | 0x20 => some (2, ruleBrakeDemand p args)
  | 0x21 => some (0, ruleEmergency p)
  | 0x22 => some (0, ruleEmergencyWithdraw p)
  | 0x23 => some (0, ruleEmergencyReset p)
  | 0x24 => some (0, ruleBrakeTestStart p)
  | 0x25 => some (0, ruleBrakeTestAbort p)
  | 0x30 => some (2, ruleDoorRelease p args)
  | 0x31 => some (1, ruleDoorClose p args)
  | 0x32 => some (1, ruleDoorRetry p args)
  | 0x33 => some (0, ruleAlarmConfirm p)
  | 0x34 => some (0, ruleAlarmOverride p)
  | 0x40 => some (9, ruleRestrictionAdd p args)
  | 0x41 => some (1, ruleRestrictionLift p args)
  | 0x42 => some (3, rulePermitEnter p args)
  | 0x43 => some (0, rulePermitClear p)
  | 0x44 => some (0, ruleRadioStopOverride p)
  | 0x50 => some (0, ruleInboxTake)
  | 0x51 => some (3, ruleCounterDecrement args)
  | 0x60 => some (16, ruleProfileWrite p args)
  | 0x61 => some (6, ruleParameterWrite p args)
  | 0x62 => some (0, ruleProfileCommit p)
  | _ => none

/-- A request judged from its code on (R174). -/
def judgeByCode (p : Port) (code : Byte) (args : List Byte) : Rule := fun s =>
  match ruleOf code p args with
  | none => (s, plainReply .unknownCommand)
  | some r => judge code args r.1 r.2 s

/-- A valid telegram with this code and these arguments (R173, R174). -/
def takeTelegram (p : Port) (code : Byte) (args : List Byte) (s : State) : State :=
  takeRequest p code (judgeByCode p code args) s

/-- UNKNOWN_COMMAND (R174). -/
def execUnknownCommand (p : Port) (code : Byte) (args : List Byte) (s : State) : Result :=
  .next (takeTelegram p code args s)

/-- A telegram discarded for a framing error (R172). -/
def framingFault (r : PortRec) : PortRec :=
  { r with rx := .awaiting, framingErrors := satInc r.framingErrors }

/-- A telegram discarded for a bad CRC (R172). -/
def crcFault (r : PortRec) : PortRec := { r with rx := .awaiting, crcErrors := satInc r.crcErrors }

/-- TELEGRAM_CRC_ERROR (R172). -/
def execTelegramCrcError (p : Port) (s : State) : Result := .next (updPort p crcFault s)

/-- FRAMING_ERROR (R172). -/
def execFramingError (p : Port) (s : State) : Result := .next (updPort p framingFault s)

/-- The gap time expires while a telegram is being received (R172); a byte that arrived before it has started the gap
again. -/
def gapFault (r : PortRec) : PortRec := if r.rx.timeUp then framingFault r else r

/-- GAP_TIME_EXPIRY (R172). -/
def execGapTimeExpiry (p : Port) (s : State) : Result := .next (updPort p gapFault s)

/-- ANSWER_SENT (R173). -/
def execAnswerSent (p : Port) (s : State) : Result :=
  .next (updPort p (fun r => { r with held := none }) s)

/-- LINK_SILENCE_EXPIRY (R13, R14). -/
def execLinkSilenceExpiry (l : LinkPort) (s : State) : Result := .next (silenceOn l s)

/-- Whether a byte is a length that a telegram may have (R172). -/
def lengthGood (b : Byte) : Bool := 1 ≤ b.toNat && b.toNat ≤ 250

/-- A telegram complete: its length byte, its body and its CRC (R172). -/
def endTelegram (p : Port) (bytes : List Byte) (s : State) : State :=
  if crcGood bytes then
    match (bytes.drop 1).take (byteAt bytes 0) with
    | code :: args => takeTelegram p code args s
    | [] => updPort p framingFault s
  else updPort p crcFault s

/-- A byte received (R172). -/
def receiveByte (p : Port) (b : Byte) (s : State) : State :=
  match (portOf p s).rx with
  | .awaiting => if b = 0xC5 then updPort p (fun r => { r with rx := .receiving [] 0 }) s else s
  | .receiving [] _ =>
    if lengthGood b then updPort p (fun r => { r with rx := .receiving [b] 0 }) s
    else updPort p framingFault s
  | .receiving (n :: rest) _ =>
    let bytes := n :: rest ++ [b]
    if bytes.length < n.toNat + 3 then updPort p (fun r => { r with rx := .receiving bytes 0 }) s
    else endTelegram p bytes s

/-- TELEGRAM_BYTE_ARRIVAL (R172); the byte that completes a telegram hands it on (R173). -/
def execTelegramByteArrival (p : Port) (b : Byte) (s : State) : Result := .next (receiveByte p b s)

end Sys2Proof.Machine
end

