-- ==== Sys2Proof/Machine/RadioEvents.lean ====
section
/-!
DEFINITION. What arrives at the Valley Radio Unit: frames, the end of a transmission, and the expiries of its
timers (R151 to R168).
-/

namespace Sys2Proof.Machine

/-- DISCARDED_FRAME: a frame delivered by its bytes, of whatever class (R151, R152); one whose reception began before
the last reset is discarded and not counted (R150). -/
def execDiscardedFrame (x : Delivery) (s : State) : Result :=
  .next (if x.straddles then s else receiveBytes x.bytes s)

/-- BEACON (R158). -/
def execBeacon (h : FrameHeader) (body : List Byte) (s : State) : Result :=
  .next (receiveFrame ⟨h, 0x01, body⟩ s)

/-- RESTRICTION_SET (R64, R159). -/
def execRestrictionSet (h : FrameHeader) (body : List Byte) (s : State) : Result :=
  .next (receiveFrame ⟨h, 0x10, body⟩ s)

/-- RESTRICTION_LIFT (R64, R159). -/
def execRestrictionLiftBulletin (h : FrameHeader) (body : List Byte) (s : State) : Result :=
  .next (receiveFrame ⟨h, 0x11, body⟩ s)

/-- PERMIT_GRANT (R66, R159). -/
def execPermitGrant (h : FrameHeader) (body : List Byte) (s : State) : Result :=
  .next (receiveFrame ⟨h, 0x12, body⟩ s)

/-- PERMIT_REVOKE (R68, R159). -/
def execPermitRevoke (h : FrameHeader) (body : List Byte) (s : State) : Result :=
  .next (receiveFrame ⟨h, 0x13, body⟩ s)

/-- STOP_ORDER (R71, R159). -/
def execStopOrder (h : FrameHeader) (body : List Byte) (s : State) : Result :=
  .next (receiveFrame ⟨h, 0x14, body⟩ s)

/-- STOP_RELEASE (R71, R159). -/
def execStopRelease (h : FrameHeader) (body : List Byte) (s : State) : Result :=
  .next (receiveFrame ⟨h, 0x15, body⟩ s)

/-- TEXT (R159, R162). -/
def execText (h : FrameHeader) (body : List Byte) (s : State) : Result :=
  .next (receiveFrame ⟨h, 0x16, body⟩ s)

/-- The radio after the frame in progress has been sent (R168). -/
def Radio.sent (r : Radio) : Radio :=
  match r.transmission with
  | none => r
  | some t =>
    match t.kind with
    | .ack _ queued => { r with transmission := none, acks := if queued then r.acks.drop 1 else r.acks }
    | .report => { r with transmission := none, reportDue := false }

/-- TRANSMISSION_END (R168). -/
def execTransmissionEnd (s : State) : Result :=
  .next (if s.radio.transmission.isSome then beginTransmission (updRadio Radio.sent s) else s)

/-- WINDOW_TIMER_EXPIRY (R167). -/
def execWindowTimerExpiry (s : State) : Result :=
  .next (if s.radio.windowUp then updRadio (fun r => { r with window := none }) s else s)

/-- SILENCE_TIMER_TICK (R156, R157): the tick of a second that has run whole, not of one restarted since. -/
def execSilenceTimerTick (s : State) : Result :=
  .next (if s.radio.tickUp then
    formCoverage (updRadio (fun r => { r with silenceCount := satInc r.silenceCount, silenceTick := 0 }) s)
  else s)

/-- REPORT_TIMER_EXPIRY (R166, R168). -/
def execReportTimerExpiry (s : State) : Result :=
  .next (if s.radio.reportUp then
    beginTransmission (updRadio (fun r => { r with
      reportDue := true, reportTimer := some (0, s.store.params.reportInterval) }) s)
  else s)

end Sys2Proof.Machine
end

