-- ==== Sys2Proof/Machine/Dispatch.lean ====
section
/-!
DEFINITION. The commands of the part, one arm for each row of spec/opcode_table.json, each arm one call of
the command's own meaning.
-/

namespace Sys2Proof.Machine

/-- The effect of a command on everything but the queue. -/
def exec (i : Instr) (s : State) : Host.Outcome State Fault Refusal :=
  match i with
  | .powerOn inputs => Sys2Proof.Machine.execPowerOn inputs s
  | .readStatus p args => Sys2Proof.Machine.execReadStatus p args s
  | .readTable p args => Sys2Proof.Machine.execReadTable p args s
  | .readEvents p args => Sys2Proof.Machine.execReadEvents p args s
  | .clearEvents p args => Sys2Proof.Machine.execClearEvents p args s
  | .setMask p args => Sys2Proof.Machine.execSetMask p args s
  | .clearMask p args => Sys2Proof.Machine.execClearMask p args s
  | .takeAuthority p args => Sys2Proof.Machine.execTakeAuthority p args s
  | .releaseAuthority p args => Sys2Proof.Machine.execReleaseAuthority p args s
  | .setDirection p args => Sys2Proof.Machine.execSetDirection p args s
  | .setComposition p args => Sys2Proof.Machine.execSetComposition p args s
  | .setPosition p args => Sys2Proof.Machine.execSetPosition p args s
  | .selectMode p args => Sys2Proof.Machine.execSelectMode p args s
  | .restart p args => Sys2Proof.Machine.execRestart p args s
  | .brakeDemand p args => Sys2Proof.Machine.execBrakeDemand p args s
  | .emergency p args => Sys2Proof.Machine.execEmergency p args s
  | .emergencyWithdraw p args => Sys2Proof.Machine.execEmergencyWithdraw p args s
  | .emergencyReset p args => Sys2Proof.Machine.execEmergencyReset p args s
  | .brakeTestStart p args => Sys2Proof.Machine.execBrakeTestStart p args s
  | .brakeTestAbort p args => Sys2Proof.Machine.execBrakeTestAbort p args s
  | .doorRelease p args => Sys2Proof.Machine.execDoorRelease p args s
  | .doorClose p args => Sys2Proof.Machine.execDoorClose p args s
  | .doorRetry p args => Sys2Proof.Machine.execDoorRetry p args s
  | .alarmConfirm p args => Sys2Proof.Machine.execAlarmConfirm p args s
  | .alarmOverride p args => Sys2Proof.Machine.execAlarmOverride p args s
  | .restrictionAdd p args => Sys2Proof.Machine.execRestrictionAdd p args s
  | .restrictionLift p args => Sys2Proof.Machine.execRestrictionLift p args s
  | .permitEnter p args => Sys2Proof.Machine.execPermitEnter p args s
  | .permitClear p args => Sys2Proof.Machine.execPermitClear p args s
  | .radioStopOverride p args => Sys2Proof.Machine.execRadioStopOverride p args s
  | .inboxTake p args => Sys2Proof.Machine.execInboxTake p args s
  | .counterDecrement p args => Sys2Proof.Machine.execCounterDecrement p args s
  | .profileWrite p args => Sys2Proof.Machine.execProfileWrite p args s
  | .parameterWrite p args => Sys2Proof.Machine.execParameterWrite p args s
  | .profileCommit p args => Sys2Proof.Machine.execProfileCommit p args s
  | .unknownCommand p code args => Sys2Proof.Machine.execUnknownCommand p code args s
  | .telegramCrcError p => Sys2Proof.Machine.execTelegramCrcError p s
  | .framingError p => Sys2Proof.Machine.execFramingError p s
  | .gapTimeExpiry p => Sys2Proof.Machine.execGapTimeExpiry p s
  | .answerSent p => Sys2Proof.Machine.execAnswerSent p s
  | .linkSilenceExpiry l => Sys2Proof.Machine.execLinkSilenceExpiry l s
  | .tachometerPulse t forward => Sys2Proof.Machine.execTachometerPulse t forward s
  | .samplingExpiry => Sys2Proof.Machine.execSamplingExpiry s
  | .standstillBegin => Sys2Proof.Machine.execStandstillBegin s
  | .pinionFault => Sys2Proof.Machine.execPinionFault s
  | .trackMarkDetection => Sys2Proof.Machine.execTrackMarkDetection s
  | .supervisionCycle => Sys2Proof.Machine.execSupervisionCycle s
  | .periodStart => Sys2Proof.Machine.execPeriodStart s
  | .servicePressureReading kPa => Sys2Proof.Machine.execServicePressureReading kPa s
  | .releasePressureReading kPa => Sys2Proof.Machine.execReleasePressureReading kPa s
  | .serviceCheckTimerExpiry => Sys2Proof.Machine.execServiceCheckTimerExpiry s
  | .releaseCheckTimerExpiry => Sys2Proof.Machine.execReleaseCheckTimerExpiry s
  | .applyCheckTimerExpiry => Sys2Proof.Machine.execApplyCheckTimerExpiry s
  | .brakeTestStepTimerExpiry => Sys2Proof.Machine.execBrakeTestStepTimerExpiry s
  | .doorTimerExpiry d => Sys2Proof.Machine.execDoorTimerExpiry d s
  | .doorLockedInput d present => Sys2Proof.Machine.execDoorLockedInput d present s
  | .doorClosedInput d present => Sys2Proof.Machine.execDoorClosedInput d present s
  | .doorOpenLimitInput d present => Sys2Proof.Machine.execDoorOpenLimitInput d present s
  | .doorObstacleInput d present => Sys2Proof.Machine.execDoorObstacleInput d present s
  | .passengerButton d pressed => Sys2Proof.Machine.execPassengerButton d pressed s
  | .isolationSwitch d on => Sys2Proof.Machine.execIsolationSwitch d on s
  | .handleChange h pulled => Sys2Proof.Machine.execHandleChange h pulled s
  | .discardedFrame x => Sys2Proof.Machine.execDiscardedFrame x s
  | .beacon h body => Sys2Proof.Machine.execBeacon h body s
  | .restrictionSet h body => Sys2Proof.Machine.execRestrictionSet h body s
  | .restrictionLiftBulletin h body => Sys2Proof.Machine.execRestrictionLiftBulletin h body s
  | .permitGrant h body => Sys2Proof.Machine.execPermitGrant h body s
  | .permitRevoke h body => Sys2Proof.Machine.execPermitRevoke h body s
  | .stopOrder h body => Sys2Proof.Machine.execStopOrder h body s
  | .stopRelease h body => Sys2Proof.Machine.execStopRelease h body s
  | .text h body => Sys2Proof.Machine.execText h body s
  | .transmissionEnd => Sys2Proof.Machine.execTransmissionEnd s
  | .windowTimerExpiry => Sys2Proof.Machine.execWindowTimerExpiry s
  | .silenceTimerTick => Sys2Proof.Machine.execSilenceTimerTick s
  | .reportTimerExpiry => Sys2Proof.Machine.execReportTimerExpiry s
  | .loaderStatusAnswer status => Sys2Proof.Machine.execLoaderStatusAnswer status s
  | .loaderBusyTimeout => Sys2Proof.Machine.execLoaderBusyTimeout s
  | .headerReadEnd bytes => Sys2Proof.Machine.execHeaderReadEnd bytes s
  | .parameterBlockReadEnd bytes => Sys2Proof.Machine.execParameterBlockReadEnd bytes s
  | .segmentBlockReadEnd bytes => Sys2Proof.Machine.execSegmentBlockReadEnd bytes s
  | .commitStatusAnswer status => Sys2Proof.Machine.execCommitStatusAnswer status s
  | .pageTimerExpiry => Sys2Proof.Machine.execPageTimerExpiry s
  | .telegramByteArrival p byte => Sys2Proof.Machine.execTelegramByteArrival p byte s
  | .commitTransferEnd => Sys2Proof.Machine.execCommitTransferEnd s

end Sys2Proof.Machine
end

