-- ==== Sys2Proof/Machine/Tick.lean ====
section
/-!
DEFINITION. What a millisecond brings: every running timer of the part advances by one, and each that
reaches its limit joins the queue as its expiry. DESIGN CHOICE (notes/assumptions/3.md): this is what a
step does while no command waits.
-/

namespace Sys2Proof.Machine

/-- A silence timer advanced (R13). -/
def Link.tick (l : Link) : Link := { l with timer := l.timer.map (· + 1) }

/-- A service check's timer advanced while it runs (R116). -/
def ServiceCheck.tick (c : ServiceCheck) : ServiceCheck :=
  if c.outcome = .running then { c with timer := c.timer + 1 } else c

/-- Whether a spring check runs (R119, R120). -/
def SpringCheck.runs (c : SpringCheck) : Bool := c.outcome = .releaseRunning || c.outcome = .applyRunning

/-- A spring check's timer advanced while it runs (R119, R120). -/
def SpringCheck.tick (c : SpringCheck) : SpringCheck := if c.runs then { c with timer := c.timer + 1 } else c

/-- The brake drive's timers advanced (R115, R116, R119, R120, R123). -/
def BrakeDrive.tick (d : BrakeDrive) : BrakeDrive :=
  { d with
    periodTimer := d.periodTimer + 1
    serviceCheck := d.serviceCheck.tick
    springCheck := d.springCheck.tick
    testStep := d.testStep.map fun t => { t with timer := t.timer + 1 } }

/-- A door's timer advanced (R133). -/
def Door.tick (d : Door) : Door := { d with timer := d.timer.map fun t => (t.1 + 1, t.2) }

/-- The radio's timers advanced (R156, R166, R167). -/
def Radio.tick (r : Radio) : Radio :=
  { r with
    silenceTick := if r.silenceRunning then r.silenceTick + 1 else r.silenceTick
    reportTimer := r.reportTimer.map fun t => (t.1 + 1, t.2)
    window := r.window.map fun w => { w with timer := w.timer + 1 } }

/-- The loader's busy time advanced (R41). -/
def LoaderOp.tick : LoaderOp → LoaderOp
  | .poll t => .poll (t + 1)
  | x => x

/-- The page timer advanced (R52). -/
def CommitState.tick : CommitState → CommitState
  | .writing page (.program t) => .writing page (.program (t + 1))
  | .writing page (.poll t) => .writing page (.poll (t + 1))
  | x => x

/-- A receive gap advanced (R172). -/
def RxState.tick : RxState → RxState
  | .receiving bytes gap => .receiving bytes (gap + 1)
  | .awaiting => .awaiting

/-- A port's receive gap and the time of its answer advanced (R172, R173). -/
def PortRec.tick (r : PortRec) : PortRec :=
  { r with rx := r.rx.tick, held := r.held.map fun h => { h with sending := h.sending + 1 } }

/-- One millisecond in every timer. -/
def advance (s : State) : State :=
  { s with
    mode := { s.mode with linkA := s.mode.linkA.tick, linkB := s.mode.linkB.tick }
    odo := { s.odo with samplingTimer := s.odo.samplingTimer + 1 }
    store := { s.store with loader := s.store.loader.tick, commit := s.store.commit.tick }
    sup := { s.sup with cycleTimer := s.sup.cycleTimer + 1 }
    drive := s.drive.tick
    doors := { s.doors with door := s.doors.door.map Door.tick }
    radio := s.radio.tick
    ports := s.ports.map PortRec.tick }

/-- A command where a timer has reached its limit. -/
def due (c : Bool) (i : Instr) : List Instr := if c then [i] else []

/-- Whether a port has been sending its answer for as long as its bytes take, at 230,400 bit/s and 10 bits a
byte (R171). -/
def answerDone (r : PortRec) : Bool :=
  match r.held with
  | none => false
  | some h => 100 * (telegramBytes h.body).length ≤ 2304 * h.sending

/-- What the ports' timers have brought. -/
def portsDue (s : State) : List Instr :=
  due s.mode.linkA.timeUp (.linkSilenceExpiry .a) ++
  due s.mode.linkB.timeUp (.linkSilenceExpiry .b) ++
  due s.ports.a.rx.timeUp (.gapTimeExpiry .a) ++ due s.ports.b.rx.timeUp (.gapTimeExpiry .b) ++
  due s.ports.c.rx.timeUp (.gapTimeExpiry .c) ++ due (answerDone s.ports.a) (.answerSent .a) ++
  due (answerDone s.ports.b) (.answerSent .b) ++ due (answerDone s.ports.c) (.answerSent .c)

/-- What the brake drive's and the doors' timers have brought. -/
def brakesDue (s : State) : List Instr :=
  due (Config.pwmPeriod ≤ s.drive.periodTimer) .periodStart ++
  due s.drive.serviceCheck.timeUp .serviceCheckTimerExpiry ++
  due s.drive.springCheck.releaseUp .releaseCheckTimerExpiry ++
  due s.drive.springCheck.applyUp .applyCheckTimerExpiry ++
  due (s.drive.testStep.any TestStep.timeUp) .brakeTestStepTimerExpiry ++
  due s.doors.door.d1.timeUp (.doorTimerExpiry .d1) ++ due s.doors.door.d2.timeUp (.doorTimerExpiry .d2) ++
  due s.doors.door.d3.timeUp (.doorTimerExpiry .d3) ++ due s.doors.door.d4.timeUp (.doorTimerExpiry .d4)

/-- What the radio's and the store's timers have brought. -/
def radioDue (s : State) : List Instr :=
  due s.radio.tickUp .silenceTimerTick ++ due s.radio.reportUp .reportTimerExpiry ++
  due s.radio.windowUp .windowTimerExpiry ++
  due s.store.loader.timeUp .loaderBusyTimeout ++ due s.store.commit.timeUp .pageTimerExpiry

/-- The expiries of one millisecond, in a fixed order: where the spec lets either of two come first, this
order is a choice of the model (notes/assumptions/3.md). -/
def expiries (s : State) : List Instr :=
  due (Config.samplingPeriod ≤ s.odo.samplingTimer) .samplingExpiry ++
  due (Config.cyclePeriod ≤ s.sup.cycleTimer) .supervisionCycle ++ brakesDue s ++ radioDue s ++ portsDue s

/-- One millisecond passes. -/
def passTime (s : State) : State :=
  let s := advance s
  { s with pending := s.pending ++ expiries s }

end Sys2Proof.Machine
end

