-- ==== Sys2Proof/Safety.lean ====
section
/-!
DEFINITION. The terms of the statements: the blocks that a command leaves as they were, the answer a port
holds, and the invariants that every step keeps.
-/

namespace Sys2Proof.Machine

/-! ### Frames and answers -/

/-- The blocks of the state (the overview chapter's blocks, the memory and the queue). -/
inductive Block where
  | mode | odo | store | limits | sup | dem | drive | doors | radio | ports | memory | pending
  deriving DecidableEq, Repr

/-- Whether two states agree on a block. -/
def Block.same (s t : State) : Block → Prop
  | .mode => t.mode = s.mode
  | .odo => t.odo = s.odo
  | .store => t.store = s.store
  | .limits => t.limits = s.limits
  | .sup => t.sup = s.sup
  | .dem => t.dem = s.dem
  | .drive => t.drive = s.drive
  | .doors => t.doors = s.doors
  | .radio => t.radio = s.radio
  | .ports => t.ports = s.ports
  | .memory => t.memory = s.memory
  | .pending => t.pending = s.pending

/-- Every block named is as it was. -/
def Keeps (l : List Block) (s t : State) : Prop := ∀ b ∈ l, b.same s t

/-- The blocks but the mode, the demands, the brake drive and the ports. -/
def restBlocks : List Block := [.odo, .store, .limits, .sup, .doors, .radio, .memory, .pending]

/-- Every block but the ports. -/
def allButPorts : List Block := .mode :: .dem :: .drive :: restBlocks

/-- The answer that a port holds. -/
def answerOf (p : Port) (s : State) : Option Reply := (portOf p s).held.map Held.reply

/-- Nothing stands between a request on a port and its own rule: no request held (R173), and the load over
(R174). -/
def Ready (p : Port) (s : State) : Prop := (portOf p s).held = none ∧ s.mode.mode ≠ .loading

/-- An event's raw flag is set in all three ports (R180). -/
def raisedAll (e : Event) (s : State) : Prop := ∀ p, (portOf p s).raw.has e = true

/-- What a command may do to the ports: set raw flags of the kinds `may`, and change the held request of the
port `answering`; every other flag, every mask, receive state and counter stays (R180). -/
structure PortsKeep (may : List Event) (answering : Option Port) (s t : State) : Prop where
  rx : ∀ p, (portOf p t).rx = (portOf p s).rx
  mask : ∀ p, (portOf p t).mask = (portOf p s).mask
  framing : ∀ p, (portOf p t).framingErrors = (portOf p s).framingErrors
  crc : ∀ p, (portOf p t).crcErrors = (portOf p s).crcErrors
  discarded : ∀ p, (portOf p t).discarded = (portOf p s).discarded
  held : ∀ p, answering ≠ some p → (portOf p t).held = (portOf p s).held
  stays : ∀ p e, (portOf p s).raw.has e = true → (portOf p t).raw.has e = true
  only : ∀ p e, (portOf p t).raw.has e = true → (portOf p s).raw.has e = true ∨ e ∈ may

/-- What of the brake drive no change of the outputs touches: the readings, the spring brake status, the
faults, and what the valve drives in the present period. -/
structure DriveKeeps (d e : BrakeDrive) : Prop where
  serviceReading : e.serviceReading = d.serviceReading
  releaseReading : e.releaseReading = d.releaseReading
  springStatus : e.springStatus = d.springStatus
  serviceSlow : e.serviceSlow = d.serviceSlow
  springFail : e.springFail = d.springFail
  faultState : e.faultState = d.faultState
  activeDuty : e.activeDuty = d.activeDuty
  periodTimer : e.periodTimer = d.periodTimer

/-- What a writing of the rows brings with it among the demands (R95 to R97, R108): the rows stand as written;
the latch is set where a row becomes EMERGENCY; the driven kind is the one that the latch and the rows give; the
traction inhibit follows a change of it; and the events of the changes are raised. -/
structure DemandsTake (new : Rows) (s t : State) : Prop where
  rows : t.dem.rows = new
  driven : t.dem.driven = drivenOf t.dem.latch new
  latch : t.dem.latch = (s.dem.latch || becomesEmergency s.dem.rows new)
  traction : t.dem.traction = if t.dem.driven = s.dem.driven then s.dem.traction else !(t.dem.driven = .none)
  alarm : t.dem.alarm = s.dem.alarm
  handles : t.dem.handles = s.dem.handles
  brakeState : t.dem.driven ≠ s.dem.driven → raisedAll .brakeState t
  emergency : t.dem.latch ≠ s.dem.latch → raisedAll .emergency t

/-- A service check begun for a target: its band, its timer at 0, and the limit T_RESP (R116). -/
def serviceStarted (p : Params) (target : Nat) : ServiceCheck :=
  ⟨.running, target, (bandOf target).1, (bandOf target).2, 0, p.tResp⟩

/-- The spring check of a release valve as it has come to stand, begun (R119, R120). -/
def springStarted : Valve → SpringCheck
  | .energized => ⟨.releaseRunning, 0, 3000⟩
  | .deEnergized => ⟨.applyRunning, 0, 1000⟩

/-- A level and a release valve commanded (R112 to R114, R119): a change of the level forms the target and the commanded
duty with the parameters as they stand, and without one both stay; de-energizing the valve clears SPRING_STUCK. -/
structure OutputsFormed (p : Params) (o : Nat × Valve) (d e : BrakeDrive) : Prop where
  outputs : (e.level, e.valve) = o
  stand : e.level = d.level → e.target = d.target ∧ e.duty = d.duty
  formed : e.level ≠ d.level → e.target = targetOf p e.level ∧ e.duty = dutyOf p.valve e.target
  stuck : e.springStuck = if d.valve = .energized ∧ e.valve = .deEnergized then false else d.springStuck
  keeps : DriveKeeps d e

/-- Outputs that the mapping forms anew (R112, R116, R119, R120): a service check begins where the target changes, a
release or an apply check where the release valve does, and else the checks stay. -/
structure MappingFollowed (p : Params) (o : Nat × Valve) (d e : BrakeDrive) : Prop where
  formed : OutputsFormed p o d e
  service : e.serviceCheck = if e.target = d.target then d.serviceCheck else serviceStarted p e.target
  spring : e.springCheck = if e.valve = d.valve then d.springCheck else springStarted e.valve
  test : e.source = d.source ∧ e.testStep = d.testStep ∧ e.testRecord = d.testRecord

/-- Outputs that the mapping takes back from a test or an abort hold: both checks begin, whatever changes (R127). -/
structure MappingTaken (p : Params) (o : Nat × Valve) (d e : BrakeDrive) : Prop where
  formed : OutputsFormed p o d e
  service : e.serviceCheck = serviceStarted p e.target
  spring : e.springCheck = springStarted e.valve
  test : e.source = .mapping ∧ e.testStep = none ∧ e.testRecord = d.testRecord

/-- An abort hold begun in place of a running test, with its record: the full service brake and the spring brake, the
service check, and the apply check where the valve changes (R125). -/
structure HoldTaken (p : Params) (record : TestRecord) (d e : BrakeDrive) : Prop where
  formed : OutputsFormed p (1000, .deEnergized) d e
  service : e.serviceCheck = serviceStarted p e.target
  spring : e.springCheck = if e.valve = d.valve then d.springCheck else springStarted e.valve
  test : e.source = .abortHold ∧ e.testStep = none ∧ e.testRecord = record

/-- What the brake drive does with a driven kind that was `k` and is `l`; `fresh` where a row has become EMERGENCY
(R112, R125). The mapping forms its outputs anew at a change; a change ends an abort hold; and a running test goes on,
unless a row has become EMERGENCY, which ends it: in an abort hold, or, where the abort is taken before the change of the
driven kind, in the mapping that ends that hold again. -/
structure DriveFollows (p : Params) (still fresh : Bool) (k l : Kind) (d e : BrakeDrive) : Prop where
  unmoved : l = k → d.source ≠ .test → e = d
  mapping : l ≠ k → d.source = .mapping → MappingFollowed p (mappedOutputs l still) d e
  hold : l ≠ k → d.source = .abortHold → MappingTaken p (mappedOutputs l still) d e
  test : d.source = .test → fresh = false → e = d
  aborted : d.source = .test → fresh = true → HoldTaken p (.aborted .rowEmergency) d e ∨
    ∃ h, HoldTaken p (.aborted .rowEmergency) d h ∧ MappingTaken p (mappedOutputs l still) h e

/-- What a writing of the rows brings with it in all (R96, R112, R125): the demands as above; a change of the
driven kind brings the outputs of the mapping where the mapping commands them, with their target, duty and checks; a
brake test that runs is ended by a row that becomes EMERGENCY; and SPRING_STUCK cleared raises BRAKE_STATE (R119). -/
structure RowsFollow (new : Rows) (s t : State) : Prop where
  dem : DemandsTake new s t
  drive : DriveKeeps s.drive t.drive
  outputs : DriveFollows s.store.params s.odo.standstill (becomesEmergency s.dem.rows new) s.dem.driven t.dem.driven
    s.drive t.drive
  unmoved : t.dem.driven = s.dem.driven → s.drive.source ≠ .test → t.drive = s.drive
  mapped : t.dem.driven ≠ s.dem.driven → t.drive.source = .mapping →
    (t.drive.level, t.drive.valve) = mappedOutputs t.dem.driven s.odo.standstill
  untested : s.drive.source ≠ .test → t.drive.testRecord = s.drive.testRecord
  aborted : s.drive.source = .test → becomesEmergency s.dem.rows new = true →
    t.drive.testRecord = .aborted .rowEmergency ∧ t.drive.testStep = none ∧ raisedAll .brakeTest t
  unstuck : s.drive.springStuck = true → t.drive.springStuck = false → raisedAll .brakeState t

/-- The latch, the rows, the driven kind and the brake drive: what a writing of the rows reads and changes. -/
structure BrakeSide where
  latch : Bool
  rows : Rows
  driven : Kind
  drive : BrakeDrive

/-- The brake side of a state. -/
def brakeSide (s : State) : BrakeSide := ⟨s.dem.latch, s.dem.rows, s.dem.driven, s.drive⟩

/-- A writing of the rows on the brake side alone (R96, R97, R112, R125). -/
structure RowsBring (p : Params) (still : Bool) (new : Rows) (a b : BrakeSide) : Prop where
  rows : b.rows = new
  latch : b.latch = (a.latch || becomesEmergency a.rows new)
  driven : b.driven = drivenOf b.latch new
  drive : DriveFollows p still (becomesEmergency a.rows new) a.driven b.driven a.drive b.drive

/-- Writings of the rows one after another. -/
def RowsInTurn (p : Params) (still : Bool) : List (Rows → Rows) → BrakeSide → BrakeSide → Prop
  | [], a, b => b = a
  | f :: rest, a, b => ∃ c, RowsBring p still (f a.rows) a c ∧ RowsInTurn p still rest c b

/-- The events that a writing of the rows may raise. -/
def rowEvents : List Event := [.emergency, .brakeState, .brakeTest]

/-- A writing of the rows, with what it leaves as it was. -/
structure RowsWritten (new : Rows) (s t : State) : Prop where
  follow : RowsFollow new s t
  keeps : Keeps (.mode :: restBlocks) s t
  ports : PortsKeep rowEvents none s t

/-- The link of a trainline that a port is, none for port C (R13). -/
def trainlineOf : Port → Option LinkPort
  | .a => some .a
  | .b => some .b
  | .c => none

/-- What hearing a valid telegram on a port does, whatever its code (R13, R14, R172): the port awaits a start
byte; its link, if it has one, is UP with its silence timer at 0; the LINK row follows where the link was not
UP; all else of the mode, of the ports and of the rows stays. -/
structure Heard (p : Port) (s t : State) : Prop where
  rx : (portOf p t).rx = .awaiting
  otherRx : ∀ q, q ≠ p → (portOf q t).rx = (portOf q s).rx
  held : ∀ q, (portOf q t).held = (portOf q s).held
  mask : ∀ q, (portOf q t).mask = (portOf q s).mask
  errors : ∀ q, (portOf q t).framingErrors = (portOf q s).framingErrors ∧
    (portOf q t).crcErrors = (portOf q s).crcErrors ∧ (portOf q t).discarded = (portOf q s).discarded
  stays : ∀ q e, (portOf q s).raw.has e = true → (portOf q t).raw.has e = true
  only : ∀ q e, (portOf q t).raw.has e = true → (portOf q s).raw.has e = true ∨
    e ∈ [Event.link, .emergency, .brakeState, .brakeTest]
  up : ∀ l, trainlineOf p = some l → linkOf l t.mode = ⟨.up, some 0⟩
  otherLink : ∀ l, trainlineOf p ≠ some l → linkOf l t.mode = linkOf l s.mode
  modeKeeps : t.mode = { s.mode with linkA := t.mode.linkA, linkB := t.mode.linkB }
  event : ∀ l, trainlineOf p = some l → (linkOf l s.mode).state ≠ .up → raisedAll .link t
  quiet : (∀ l, trainlineOf p = some l → (linkOf l s.mode).state = .up) →
    t.dem = s.dem ∧ t.drive = s.drive ∧ ∀ q, (portOf q t).raw = (portOf q s).raw
  rows : t.dem.rows = s.dem.rows ∨
    t.dem.rows = { s.dem.rows with link := linkRow (holderLinkLost t.mode) s.odo.standstill }
  row : ∀ l, trainlineOf p = some l → (linkOf l s.mode).state ≠ .up →
    t.dem.rows = { s.dem.rows with link := linkRow (holderLinkLost t.mode) s.odo.standstill }
  follow : ∀ l, trainlineOf p = some l → (linkOf l s.mode).state ≠ .up →
    RowsFollow { s.dem.rows with link := linkRow (holderLinkLost t.mode) s.odo.standstill } s t
  keeps : Keeps restBlocks s t

/-- A request answered: the port holds the command's code with its answer and begins to send it, and against
the state just after the telegram was heard only the blocks not listed, and flags of the kinds `may`, have
changed (R173, R180). -/
structure Answered (p : Port) (code : Byte) (r : Reply) (kept : List Block) (may : List Event) (s t : State) :
    Prop where
  held : (portOf p t).held = some ⟨code, r, 0⟩
  keeps : Keeps kept (completeTelegram p s) t
  ports : PortsKeep may (some p) (completeTelegram p s) t

/-- The blocks that a passing of authority leaves. -/
def passedBlocks : List Block := [.store, .sup, .doors, .radio, .memory, .pending]

/-- What a passing of authority from the holder to another or to none does (R7 to R10): the direction becomes
NONE, and a change of it makes the awaited mark absent and a permit that has a direction; the LINK row becomes
NONE, and the former holder's row loses its service part. That both rows are written at once, the driven kind formed once,
is the model's choice (notes/assumptions/25.md). -/
structure AuthorityPassed (heir : Holder) (s t : State) : Prop where
  mode : t.mode = { s.mode with holder := heir, direction := .none }
  odo : t.odo = if s.mode.direction = .none then s.odo else { s.odo with awaited := none }
  limits : t.limits = { s.limits with permit :=
    if s.mode.direction = .none then s.limits.permit else s.limits.permit.filter (·.direction = .none) }
  rows : RowsFollow (dropService s.mode.holder { s.dem.rows with link := .none }) s t
  event : raisedAll .authority t
  permitEvent : t.limits.permit ≠ s.limits.permit → raisedAll .permit t

/-- The inputs of one door of four. -/
def inputOf (d : DoorId) (q : Quad DoorInputs) : DoorInputs :=
  match d with
  | .d1 => q.d1
  | .d2 => q.d2
  | .d3 => q.d3
  | .d4 => q.d4

/-- The demands and the doors as a reset leaves them that finds these inputs (R93, R130, R131, R148): the latch set and
every row NONE but DOORS and ALARM, which follow the inputs; each door ISOLATED, CLOSED_LOCKED or in FAULT with the
cause AT_RESET, its line side that of the default door map in a car taken as NORMAL. -/
structure ResetFound (i : CarInputs) (t : State) : Prop where
  latch : t.dem.latch = true
  driven : t.dem.driven = .emergency
  traction : t.dem.traction = true
  handles : t.dem.handles = i.handles
  alarm : t.dem.alarm = if alarmPulled i.handles then .active else .clear
  rows : ∀ r, t.dem.rows.kind r = match r with
    | .doors => if t.doors.loopClosed then .none else .emergency
    | .alarm => if alarmPulled i.handles then .full else .none
    | _ => .none
  loop : t.doors.loopClosed = allSecured t.doors.door
  left : t.doors.leftReleased = false
  right : t.doors.rightReleased = false
  inputs : ∀ d, (doorOf d t.doors.door).inputs = inputOf d i.doors
  state : ∀ d, (doorOf d t.doors.door).state =
    if (inputOf d i.doors).isolation then .isolated
    else if (inputOf d i.doors).closed && (inputOf d i.doors).locked then .closedLocked else .fault
  cause : ∀ d, (doorOf d t.doors.door).cause =
    if (doorOf d t.doors.door).state = .fault then some .atReset else none
  lineSide : ∀ d, (doorOf d t.doors.door).lineSide = match d with
    | .d1 => .left
    | .d2 => .left
    | .d3 => .right
    | .d4 => .right
  stopped : ∀ d, (doorOf d t.doors.door).timer = none ∧ (doorOf d t.doors.door).linePosition = none ∧
    (doorOf d t.doors.door).obstacles = 0 ∧ (doorOf d t.doors.door).openRequest = false ∧
    (doorOf d t.doors.door).lockLost = false

/-- The bytes of the memory after a commit in progress was abandoned by a reset that cuts the power (R54): a page whose
program had begun is no longer known. -/
structure PageLost (s t : State) : Prop where
  begun : ∀ page n, s.store.commit = .writing page (.program n) ∨ s.store.commit = .writing page (.poll n) →
    t.memory = forgetPage (pageAddress s.store page) s.memory
  untouched : s.store.commit = .idle ∨ (∃ page, s.store.commit = .writing page .writeEnable) → t.memory = s.memory

/-- The bytes of the memory after a commit in progress was abandoned by a reset that keeps the power (R54): a page
whose program has been sent is stored, one being sent is no longer known. -/
structure PageLeft (s t : State) : Prop where
  sent : ∀ page n, s.store.commit = .writing page (.poll n) →
    t.memory = putBytes (pageAddress s.store page) (pageBytes s.store page) s.memory
  sending : ∀ page n, s.store.commit = .writing page (.program n) →
    t.memory = forgetPage (pageAddress s.store page) s.memory
  untouched : s.store.commit = .idle ∨ (∃ page, s.store.commit = .writing page .writeEnable) → t.memory = s.memory

/-- The arguments of SET COMPOSITION (Formats; the codes by R184). -/
def compositionBytes (train length offset : Nat) (o : Orientation) (r : RadioRole) : List Byte :=
  natField 2 train ++ natField 2 length ++ natField 2 offset ++
    [match o with | .normal => (0 : Byte) | .reversed => 1, match r with | .transmit => (0 : Byte) | .listen => 1]

/-- A transmission whose acknowledgement no longer stands in the queue; a report is as it was (R166,
notes/assumptions/17.md). -/
def unqueued (x : Transmission) : Transmission :=
  match x.kind with
  | .ack e _ => { x with kind := .ack e false }
  | .report => x

/-- The condition of the first test that fails, if one does. -/
def firstFailing : List (Bool × Condition) → Option Condition
  | [] => none
  | x :: rest => if x.1 then some x.2 else firstFailing rest

/-- A port's own flags changed by a request that it takes: answered OK, the notice line as the flags then have it,
the other ports and all else as they were (R181 to R183). -/
structure FlagsSet (p : Port) (code : Byte) (s t : State) : Prop where
  held : (portOf p t).held = some ⟨code, okReply [], 0⟩
  notice : (portOf p t).notice = noticeOf (portOf p t).raw (portOf p t).mask
  rest : portOf p t = { portOf p (completeTelegram p s) with
    raw := (portOf p t).raw, mask := (portOf p t).mask, notice := (portOf p t).notice, held := (portOf p t).held }
  others : ∀ q, q ≠ p → portOf q t = portOf q (completeTelegram p s)
  keeps : Keeps allButPorts (completeTelegram p s) t

/-- The code of a table, in the order of R178. -/
def tableNumber : TableName → Nat
  | .segments => 0 | .parameters => 1 | .restrictions => 2 | .permit => 3 | .stops => 4 | .demands => 5
  | .doors => 6 | .position => 7 | .radioCounters => 8 | .inbox => 9 | .ports => 10

/-- The width of an entry of a table (R185). -/
def tableWidth : TableName → Nat
  | .segments => 19 | .parameters => 107 | .restrictions => 12 | .permit => 9 | .stops => 1 | .demands => 7
  | .doors => 19 | .position => 57 | .radioCounters => 2 | .inbox => 103 | .ports => 15

/-- The most entries of a table that one answer takes (R185). -/
def tableGreatest : TableName → Nat
  | .segments => 12 | .parameters => 1 | .restrictions => 16 | .permit => 1 | .stops => 31 | .demands => 10
  | .doors => 4 | .position => 1 | .radioCounters => 12 | .inbox => 2 | .ports => 3

/-- A running brake test ended before its last step (R125): the record is written, and the full service brake and
the spring brake are commanded, with the service check of the new target begun; SPRING_STUCK cleared raises BRAKE_STATE
(R119). -/
structure TestAborted (record : TestRecord) (s t : State) : Prop where
  drive : HoldTaken s.store.params record s.drive t.drive
  event : raisedAll .brakeTest t
  unstuck : s.drive.springStuck = true → t.drive.springStuck = false → raisedAll .brakeState t

/-- The row that a port's own requests write (R95). -/
def rowOfPort : Port → Row
  | .a => .cabA
  | .b => .cabB
  | .c => .panel

/-- The blocks that no act of the doors touches. -/
def doorlessBlocks : List Block := [.mode, .odo, .store, .limits, .sup, .radio, .memory, .pending]

/-- The locked loop and the DOORS row after an act of the doors (R148), with the DOORS event where a door's state,
its LOCK_LOST, a side release flag or the loop has changed (R132, R140, R142). -/
structure DoorsFormed (s t : State) : Prop where
  loop : t.doors.loopClosed = allSecured t.doors.door
  row : RowsFollow { s.dem.rows with doors := doorsRow t.doors.loopClosed s.odo.standstill } s t
  event : t.doors.loopClosed ≠ s.doors.loopClosed ∨ t.doors.leftReleased ≠ s.doors.leftReleased ∨
    t.doors.rightReleased ≠ s.doors.rightReleased ∨
    (∃ d, doorChanged (doorOf d s.doors.door) (doorOf d t.doors.door) = true) → raisedAll .doors t

/-- One door acted on alone: its record becomes `e`, the others and the side flags stay, the loop and the row
follow, and an entry to FAULT or OBSTRUCTED raises DOOR_FAULT (R132, R148). -/
structure DoorActed (a : Option Port) (d : DoorId) (e : Door) (s t : State) : Prop where
  door : doorOf d t.doors.door = e
  others : ∀ x, x ≠ d → doorOf x t.doors.door = doorOf x s.doors.door
  left : t.doors.leftReleased = s.doors.leftReleased
  right : t.doors.rightReleased = s.doors.rightReleased
  formed : DoorsFormed s t
  faulted : doorFaulted (doorOf d s.doors.door) e = true → raisedAll .doorFault t
  keeps : Keeps doorlessBlocks s t
  ports : PortsKeep (.doors :: .doorFault :: rowEvents) a s t

/-- A door sent to OPENING (R133, R136): it opens, or, with the open-limit input present already, stands OPEN, and
goes on to WARNING where its side is not released. -/
structure OpeningEntered (moveTime warningTime : Nat) (released : Bool) (d e : Door) : Prop where
  opens : d.inputs.openLimit = false →
    e = { d with state := .opening, timer := some (0, moveTime), heldOpen := false }
  stands : d.inputs.openLimit = true → released = true →
    e = { d with state := .opened, timer := none, openRequest := false, heldOpen := false }
  warns : d.inputs.openLimit = true → released = false →
    e = { d with state := .warning, timer := some (0, warningTime), openRequest := false, heldOpen := false }

/-- What a DOOR RELEASE does to a qualified door, by its state (R133 to R136, R144), the open permission holding and
the door's side released: an unlocked door of CLOSED_LOCKED or LOCKING goes on to RELEASED, and under an auto-open on
to OPENING. -/
structure DoorReleased (auto : Bool) (moveTime warningTime : Nat) (d e : Door) : Prop where
  unlocking : d.state = .closedLocked ∨ d.state = .locking → d.inputs.locked = true →
    e = { d with state := .unlocking, timer := some (0, 800), obstacles := 0, lockLost := false
                 openRequest := auto, heldOpen := false }
  unlocked : d.state = .closedLocked ∨ d.state = .locking → d.inputs.locked = false → auto = false →
    e = { d with state := .released, timer := none, obstacles := 0, lockLost := false
                 openRequest := false, heldOpen := false }
  unlockedOpens : d.state = .closedLocked ∨ d.state = .locking → d.inputs.locked = false → auto = true →
    OpeningEntered moveTime warningTime true { d with obstacles := 0, lockLost := false, openRequest := true } e
  opening : d.state = .warning ∨ d.state = .closing → OpeningEntered moveTime warningTime true d e
  asked : d.state = .unlocking → e = { d with openRequest := d.openRequest || auto }
  opened : d.state = .released → (d.openRequest || auto) = true →
    OpeningEntered moveTime warningTime true { d with openRequest := true } e
  waits : d.state = .released → (d.openRequest || auto) = false → e = d
  stays : d.state ∈ [DoorState.opening, .opened, .obstructed, .fault, .isolated] → e = d

/-- What a DOOR CLOSE does to a door of a side that it names, by its state (R133, R145). -/
structure DoorClosed (warningTime : Nat) (d e : Door) : Prop where
  locking : d.state = .unlocking ∨ d.state = .released → d.inputs.locked = false →
    e = { d with state := .locking, timer := some (0, 800), openRequest := false, heldOpen := false }
  locked : d.state = .unlocking ∨ d.state = .released → d.inputs.locked = true →
    e = { d with state := .closedLocked, timer := none, obstacles := 0, openRequest := false, lockLost := false
                 heldOpen := false }
  warning : d.state = .opening ∨ d.state = .opened →
    e = { d with state := .warning, timer := some (0, warningTime), openRequest := false, heldOpen := false }
  stays : d.state ∉ [DoorState.unlocking, .released, .opening, .opened] → e = { d with openRequest := false }

/-- The door map entry of a door (R131). -/
def mapOf (d : DoorId) (q : Quad DoorMapEntry) : DoorMapEntry :=
  match d with
  | .d1 => q.d1
  | .d2 => q.d2
  | .d3 => q.d3
  | .d4 => q.d4

/-- A door with the line side and the line position that its map entry gives it, where no composition counts as
NORMAL, and nothing else changed (R131). -/
structure DoorPlaced (s : State) (m : DoorMapEntry) (d e : Door) : Prop where
  normal : (∀ c, s.mode.composition = some c → c.orientation = .normal) →
    e.lineSide = (match m.side with | .side1 => .left | .side2 => .right) ∧
    (s.odo.posState ≠ .unknown → e.linePosition = some ((s.odo.position : Int) + m.offset))
  reversed : ∀ c, s.mode.composition = some c → c.orientation = .reversed →
    e.lineSide = (match m.side with | .side1 => .right | .side2 => .left) ∧
    (s.odo.posState ≠ .unknown → e.linePosition = some ((s.odo.position : Int) - m.offset))
  unknown : s.odo.posState = .unknown → e.linePosition = none
  rest : e = { d with lineSide := e.lineSide, linePosition := e.linePosition }

/-- A door's line position lies on the line and in a segment, and the platform of some one segment, on the side asked for
or on both, holds the whole interval from `x - u` to `x + u` (R143). -/
structure OnPlatform (table : List Segment) (side : LineSide) (x : Int) (u : Nat) : Prop where
  line : 0 ≤ x ∧ x ≤ 200000
  within : ∃ g ∈ table, (g.start : Int) ≤ x ∧ x < g.start + g.length
  holds : ∃ g ∈ table, ∃ q, g.platform = some q ∧
    (q.side = .both ∨ q.side = match side with | .left => .left | .right => .right) ∧
    ((g.start : Int) + q.fromOffset ≤ x - u) ∧ x + u < (g.start : Int) + q.toOffset

/-- A door, placed, qualifies for a release of a side (R143): it is enabled, its line side is the side asked for, and it
passes the platform check, made with the uncertainty while the position is KNOWN and with 600 while it is LOST, and
skipped in SHUNT while it is UNKNOWN. In LINE with the position UNKNOWN, which the rule does not list, none passes
(notes/assumptions/15.md). -/
structure DoorQualified (s : State) (side : LineSide) (m : DoorMapEntry) (e : Door) : Prop where
  enabled : m.enabled = true
  lineSide : e.lineSide = side
  known : s.odo.posState = .known → ∃ x, e.linePosition = some x ∧
    OnPlatform s.store.segments side x s.odo.uncertainty
  lost : s.odo.posState = .lost → ∃ x, e.linePosition = some x ∧ OnPlatform s.store.segments side x 600
  unknown : s.odo.posState = .unknown → s.mode.mode = .shunt

/-- The number of a door (R184). -/
def doorNumber : DoorId → Byte
  | .d1 => 1 | .d2 => 2 | .d3 => 3 | .d4 => 4

/-- Entries in ascending order of start with a new one put after those of the same start (R56). -/
def placedAmong (x : Restriction) (l : List Restriction) : List Restriction :=
  l.filter (·.start ≤ x.start) ++ x :: l.filter (x.start < ·.start)

/-- A set of a restriction by the five cases of R58, in a list that is in order and has at most one ACTIVE entry for
a key; a change raises the RESTRICTIONS event (R61). -/
structure RestrictionSet (k : Key) (start stop limit : Nat) (full : Bool) (s t : State) : Prop where
  added : (∀ r ∈ s.limits.restrictions, r.activeOf k = false) → s.limits.restrictions.length < 16 →
    full = false ∧ t.limits.restrictions = placedAmong ⟨k, start, stop, limit, .active⟩ s.limits.restrictions
  noRoom : (∀ r ∈ s.limits.restrictions, r.activeOf k = false) → 16 ≤ s.limits.restrictions.length →
    full = true ∧ t.limits.restrictions = s.limits.restrictions
  replaced : ∀ old ∈ s.limits.restrictions, old.activeOf k = true →
    entryOverlaps s old = false ∨ (limit ≤ old.limit ∧ start ≤ old.start ∧ old.stop ≤ stop) →
    full = false ∧ t.limits.restrictions =
      if start = old.start then
        s.limits.restrictions.map fun r => if r = old then ⟨k, start, stop, limit, .active⟩ else r
      else placedAmong ⟨k, start, stop, limit, .active⟩ (s.limits.restrictions.filter (· ≠ old))
  beside : ∀ old ∈ s.limits.restrictions, old.activeOf k = true → entryOverlaps s old = true →
    ¬(limit ≤ old.limit ∧ start ≤ old.start ∧ old.stop ≤ stop) → s.limits.restrictions.length < 16 →
    full = false ∧ t.limits.restrictions = placedAmong ⟨k, start, stop, limit, .active⟩
      (s.limits.restrictions.map fun r => if r = old then { old with state := .lifting } else r)
  refused : ∀ old ∈ s.limits.restrictions, old.activeOf k = true → entryOverlaps s old = true →
    ¬(limit ≤ old.limit ∧ start ≤ old.start ∧ old.stop ≤ stop) → 16 ≤ s.limits.restrictions.length →
    full = true ∧ t.limits.restrictions = s.limits.restrictions
  others : t.limits = { s.limits with restrictions := t.limits.restrictions }
  event : t.limits.restrictions ≠ s.limits.restrictions → raisedAll .restrictions t

/-- A lift of a restriction (R59), with the RESTRICTIONS event of a change (R61). -/
structure RestrictionLifted (k : Key) (s t : State) : Prop where
  lifting : ∀ old ∈ s.limits.restrictions, old.activeOf k = true → entryOverlaps s old = true →
    t.limits.restrictions =
      s.limits.restrictions.map fun r => if r = old then { old with state := .lifting } else r
  removed : ∀ old ∈ s.limits.restrictions, old.activeOf k = true → entryOverlaps s old = false →
    t.limits.restrictions = s.limits.restrictions.filter (· ≠ old)
  unknown : (∀ r ∈ s.limits.restrictions, r.activeOf k = false) →
    t.limits.restrictions = s.limits.restrictions
  others : t.limits = { s.limits with restrictions := t.limits.restrictions }
  event : t.limits.restrictions ≠ s.limits.restrictions → raisedAll .restrictions t

/-- The number of a counter, in the order of R153. -/
def counterNumber : Counter → Nat
  | .goodFrames => 0 | .beacons => 1 | .bulletins => 2 | .duplicates => 3 | .crcErrors => 4
  | .shortFrames => 5 | .longFrames => 6 | .longBadFrames => 7 | .foreignFrames => 8 | .notAddressed => 9
  | .inboxDrops => 10 | .ackDrops => 11

/-- A segment whose fields its record can carry (Formats). -/
def SegmentFits (g : Segment) : Prop :=
  -32768 ≤ g.gradient ∧ g.gradient ≤ 32767 ∧ g.lineLimit < 65536 ∧ g.zone < 256 ∧
    (∀ p, g.platform = some p → p.fromOffset < 65536 ∧ p.toOffset < 65536) ∧ (∀ m, g.mark = some m → m < 65535)

/-- A segment that passes the record checks of R43, contiguity aside. -/
def SegmentGood (g : Segment) : Prop :=
  g.start ≤ 200000 ∧ 10 ≤ g.length ∧ g.length ≤ 20000 ∧ g.lineLimit ≤ 1200 ∧ g.zone ≤ 31 ∧
    g.gradient.natAbs ≤ (match g.kind with | .rack => 300 | .adhesion => 80) ∧ g.start + g.length ≤ 200000 ∧
    (∀ p, g.platform = some p → p.fromOffset < p.toOffset ∧ p.toOffset ≤ g.length) ∧
    (∀ m, g.mark = some m → m < g.length)

/-- The blocks that the store's own acts leave, the memory and the ports aside. -/
def storeless : List Block := [.mode, .odo, .limits, .sup, .dem, .drive, .doors, .radio, .pending]

/-- An edit of the store by its last tests and its effect (R47, R49): WRONG_MODE outside SHUNT, NOT_STANDSTILL, BUSY
under a commit; else the store and the odometry become those given, with the PROFILE event. -/
structure EditJudged (p : Port) (code : Byte) (x : Store) (o : Odometry) (s t : State) : Prop where
  mode : s.mode.mode ≠ .shunt → Answered p code (plainReply .wrongMode) allButPorts [] s t
  moves : s.mode.mode = .shunt → s.odo.standstill = false →
    Answered p code (plainReply .notStandstill) allButPorts [] s t
  busy : s.mode.mode = .shunt → s.odo.standstill = true → s.store.commit ≠ .idle →
    Answered p code (plainReply .busy) allButPorts [] s t
  done : s.mode.mode = .shunt → s.odo.standstill = true → s.store.commit = .idle →
    Answered p code (okReply []) [.mode, .limits, .sup, .dem, .drive, .doors, .radio, .memory, .pending]
      [.profile] s t ∧ t.store = x ∧ t.odo = o ∧ raisedAll .profile t

/-- A counter that stays at its greatest value, 65,535 (R153, R171). -/
def raisedByOne (n : Nat) : Nat := if n < 65535 then n + 1 else n

/-- One port's record becomes `r`, and nothing else changes. -/
structure PortActed (p : Port) (r : PortRec) (s t : State) : Prop where
  port : portOf p t = r
  others : ∀ q, q ≠ p → portOf q t = portOf q s
  keeps : Keeps allButPorts s t

/-- A pulse counted with its sign (R18). -/
def pulseCounted (tacho : Tacho) (sign : Int) (o : Odometry) : Odometry :=
  match tacho with
  | .pinion => { o with pinionCount := o.pinionCount + sign, pinionSeen := true }
  | .axle => { o with axleCount := o.axleCount + sign, axleSeen := true }

/-- The ODOMETRY row (R32). -/
def odometryRow (rollback fault : Bool) : Kind := if rollback || fault then .emergency else .none

/-- The rows that follow standstill, written in the order of R95 as `t` has their causes (R14, R32, R72, R107, R148). That
order is the model's choice (notes/assumptions/9.md). -/
def standstillWrites (begins : Bool) (t : State) : List (Rows → Rows) :=
  [fun r => { r with doors := doorsRow t.doors.loopClosed begins },
   fun r => { r with radio := radioRow (strongestStop t.limits.stops) begins },
   fun r => { r with link := linkRow (holderLinkLost t.mode) begins },
   fun r => { r with alarm := alarmRow t.dem.alarm begins },
   fun r => { r with odometry := odometryRow t.odo.rollback t.odo.pinionFault }]

/-- The outputs formed anew for a change of standstill while the driven kind is HOLD and the mapping commands (R112). -/
structure HoldRemapped (p : Params) (still : Bool) (a b : BrakeSide) : Prop where
  demands : b.latch = a.latch ∧ b.rows = a.rows ∧ b.driven = a.driven
  formed : a.drive.source = .mapping → a.driven = .hold → MappingFollowed p (mappedOutputs .hold still) a.drive b.drive
  stand : a.drive.source ≠ .mapping ∨ a.driven ≠ .hold → b.drive = a.drive

/-- What a change of standstill does to the brakes, from the brake side `a` to that of `t`, with the rows written in
turn (R112, R125). -/
def StandstillBrakes (begins : Bool) (writes : List (Rows → Rows)) (p : Params) (a : BrakeSide) (t : State) : Prop :=
  ∃ x, RowsInTurn p begins writes a x ∧ HoldRemapped p begins x (brakeSide t)

/-- The rows that follow standstill, after a change of it, with what of the demands and the brake drive goes with
them (R14, R32, R72, R96, R97, R107, R146, R148); `begins` where standstill becomes true. The latch is set by each row
that becomes EMERGENCY, the DOORS row being first formed with the doors as they stood. The end of standstill ends a
running brake test before any row is written (R125, notes/assumptions/9.md). -/
structure StandstillRows (begins : Bool) (s t : State) : Prop where
  rows : t.dem.rows = { s.dem.rows with
    doors := doorsRow t.doors.loopClosed begins
    radio := radioRow (strongestStop s.limits.stops) begins
    link := linkRow (holderLinkLost s.mode) begins
    alarm := alarmRow t.dem.alarm begins
    odometry := odometryRow t.odo.rollback t.odo.pinionFault }
  loop : t.doors.loopClosed = allSecured t.doors.door
  alarm : t.dem.alarm = alarmNext s.dem.alarm (alarmPulled s.dem.handles) (noStopOverlap s) begins
  handles : t.dem.handles = s.dem.handles
  latch : t.dem.latch = (s.dem.latch || becomesEmergency s.dem.rows
    { t.dem.rows with doors := doorsRow (allSecured s.doors.door) begins })
  driven : t.dem.driven = drivenOf t.dem.latch t.dem.rows
  drive : DriveKeeps s.drive t.drive
  begun : begins = true → StandstillBrakes true (standstillWrites true t) s.store.params (brakeSide s) t
  ended : begins = false → ∃ h, (s.drive.source = .test → HoldTaken s.store.params (.aborted .standstillLost) s.drive h) ∧
    (s.drive.source ≠ .test → h = s.drive) ∧
    StandstillBrakes false ((fun r => { r with doors := doorsRow (allSecured s.doors.door) false }) ::
      standstillWrites false t) s.store.params { brakeSide s with drive := h } t
  unstuck : s.drive.springStuck = true → t.drive.springStuck = false → raisedAll .brakeState t
  event : raisedAll .position t
  alarmEvent : t.dem.alarm ≠ s.dem.alarm → raisedAll .alarm t

/-- The events that a change of standstill may raise. -/
def standstillEvents : List Event := .position :: .doors :: .alarm :: rowEvents

/-- Whether the quiet time reaches its length at a sampling expiry that leaves `t` (R23). -/
def quietEnds (s t : State) : Bool :=
  t.odo.speed = 0 && t.odo.axleSpeed = 0 && !s.odo.pinionSeen && !s.odo.axleSeen && s.odo.quietRunning &&
    decide (1000 ≤ s.odo.quietTime + 50)

/-- The remainder with a net count of the source added to it (R20). -/
def movedSum (net : Int) (s : State) : Int := s.odo.remainder + net * unitsPerPulse s.store.params s.odo.source

/-- Where a net count of the source brings the car position, not held within the line (R20). -/
def movedTo (net : Int) (s : State) : Int :=
  s.odo.position + movedSum net s / (unitsPerDm s.store.params s.odo.source : Nat)

/-- A net count of the source applied to the car position (R20, R24, R25): its whole decimetres move the position,
held within the line; the part left is the remainder, 0 at an end of the line; each decimetre moved counts in the
distance since the last correction and, while KNOWN, adds the error factor to the accumulator, as far as the
uncertainty stays within 600. -/
structure PositionMoved (net : Int) (s h : State) : Prop where
  unknown : s.odo.posState = .unknown → h = s
  position : s.odo.posState ≠ .unknown → h.odo.position = (max 0 (min 200000 (movedTo net s))).toNat
  remainder : s.odo.posState ≠ .unknown → h.odo.remainder = if 0 ≤ movedTo net s ∧ movedTo net s ≤ 200000
    then (movedSum net s % (unitsPerDm s.store.params s.odo.source : Nat)).toNat else 0
  since : s.odo.posState ≠ .unknown →
    h.odo.sinceCorrection = min 1000000 (s.odo.sinceCorrection + gapBetween h.odo.position s.odo.position)
  lost : s.odo.posState = .lost → h.odo.posState = .lost ∧ h.odo.accumulator = s.odo.accumulator ∧
    h.odo.uncertainty = s.odo.uncertainty
  grows : s.odo.posState = .known →
    s.odo.accumulator + errorFactor s * gapBetween h.odo.position s.odo.position ≤ 580000 →
    h.odo.accumulator = s.odo.accumulator + errorFactor s * gapBetween h.odo.position s.odo.position ∧
    (0 ≤ movedTo net s ∧ movedTo net s ≤ 200000 → h.odo.posState = .known ∧
      (h.odo.position ≠ s.odo.position → h.odo.uncertainty = 20 + (h.odo.accumulator + 999) / 1000)) ∧
    (movedTo net s < 0 ∨ 200000 < movedTo net s → h.odo.posState = .lost ∧ h.odo.uncertainty = 600 ∧
      h.odo.notice = .lostAtLineEnd ∧ raisedAll .position h)
  outgrows : s.odo.posState = .known → s.odo.accumulator ≤ 580000 →
    580000 < s.odo.accumulator + errorFactor s * gapBetween h.odo.position s.odo.position →
    h.odo.posState = .lost ∧ h.odo.uncertainty = 600 ∧ h.odo.notice = .lostByUncertainty ∧ raisedAll .position h ∧
    h.odo.accumulator ≤ 580000 ∧ 580000 < h.odo.accumulator + errorFactor s ∧
    ∃ k, h.odo.accumulator = s.odo.accumulator + errorFactor s * k
  others : h.odo = { s.odo with
    position := h.odo.position, remainder := h.odo.remainder, sinceCorrection := h.odo.sinceCorrection
    posState := h.odo.posState, accumulator := h.odo.accumulator, uncertainty := h.odo.uncertainty
    notice := h.odo.notice }
  keeps : Keeps allButPorts s { h with odo := s.odo }
  ports : PortsKeep [.position] none s h

/-- The outputs and the limit of a step of the brake test (R123). -/
structure StepOutputs (n tResp : Nat) (d : BrakeDrive) : Prop where
  service : d.level = if n = 1 then 300 else if n = 5 then 0 else 1000
  valve : d.valve = if n = 3 then .energized else .deEnergized
  step : d.testStep = some ⟨n, 0, if n = 3 then 3000 else if n = 4 then 1000 else tResp⟩

/-- A step of the brake test begun: its outputs, with the target and the duty formed, and its timer at 0 (R123). -/
structure StepBegun (n : Nat) (s t : State) : Prop where
  outputs : StepOutputs n s.store.params.tResp t.drive
  target : t.drive.target = targetOf s.store.params t.drive.level
  duty : t.drive.duty = dutyOf s.store.params.valve t.drive.target
  source : t.drive.source = s.drive.source
  record : t.drive.testRecord = s.drive.testRecord
  checks : t.drive.serviceCheck = s.drive.serviceCheck ∧ t.drive.springCheck = s.drive.springCheck
  stuck : t.drive.springStuck =
    if s.drive.valve = .energized ∧ t.drive.valve = .deEnergized then false else s.drive.springStuck
  event : raisedAll .brakeTest t
  unstuck : s.drive.springStuck = true → t.drive.springStuck = false → raisedAll .brakeState t

/-- The end of a brake test that has run its course or failed: the record is written, the mapping takes the outputs
back, and both checks start (R124, R127). -/
structure TestEnded (record : TestRecord) (s t : State) : Prop where
  drive : MappingTaken s.store.params (mappedOutputs s.dem.driven s.odo.standstill)
    { s.drive with testRecord := record } t.drive
  event : t.drive.testRecord ≠ s.drive.testRecord → raisedAll .brakeTest t
  unstuck : s.drive.springStuck = true → t.drive.springStuck = false → raisedAll .brakeState t

/-- Every block but the brake drive and the ports. -/
def allButDrive : List Block := .mode :: .dem :: restBlocks

/-- The mode limit (R80, order 4). -/
def modeLimitOf (s : State) : Nat := if s.mode.mode = .line then s.store.params.vMax else s.store.params.shuntLimit

/-- Each segment of a table starts where the one before it ends (R37). -/
def contiguous (l : List Segment) : Prop :=
  ∀ i x y, l[i]? = some x → l[i + 1]? = some y → y.start = x.start + x.length

/-- A target entry of a cycle, with its reaction distance, its effective distance and its curve speed (R87), and a net
deceleration that is the lowest of the terms met before it: none undercuts it, and in a table whose segments have a
length and join, which every step keeps (R37), it is one of them (R86). -/
structure TargetGood (front : Int) (s : State) (x : Target) : Prop where
  window : x.distance ≤ 6000
  reaction : s.odo.speed * s.store.params.tB ≤ 10000 * x.dReact ∧
    10000 * x.dReact < s.odo.speed * s.store.params.tB + 10000
  effective : x.dEff = x.distance - x.dReact
  curve : x.vCurve * x.vCurve ≤ x.speed * x.speed + 2 * x.aNet * x.dEff ∧
    x.speed * x.speed + 2 * x.aNet * x.dEff < (x.vCurve + 1) * (x.vCurve + 1)
  profiled : ∀ g ∈ s.store.segments, ∀ y : Int, (g.start : Int) ≤ y → y < g.start + g.length →
    0 ≤ distanceAhead s.mode.direction front y → distanceAhead s.mode.direction front y ≤ x.distance →
    x.aNet ≤ brakeDecel s.store.params s.drive.faultState g.kind - gravity (descentOf s.mode.direction g.gradient)
  unprofiled : ∀ y : Int, segmentAt s.store.segments y = none →
    0 ≤ distanceAhead s.mode.direction front y → distanceAhead s.mode.direction front y ≤ x.distance →
    x.aNet ≤ brakeDecel s.store.params s.drive.faultState .adhesion - 781
  met : (∀ g ∈ s.store.segments, 1 ≤ g.length) → contiguous s.store.segments → ∃ y : Int,
    0 ≤ distanceAhead s.mode.direction front y ∧ distanceAhead s.mode.direction front y ≤ x.distance ∧
    ((∃ g ∈ s.store.segments, (g.start : Int) ≤ y ∧ y < g.start + g.length ∧ x.aNet =
        brakeDecel s.store.params s.drive.faultState g.kind - gravity (descentOf s.mode.direction g.gradient)) ∨
      (segmentAt s.store.segments y = none ∧
        x.aNet = brakeDecel s.store.params s.drive.faultState .adhesion - 781))

/-- The candidates of R83 in the order of R84, each with its kind, its point and its target speed. -/
def candidatesOf (s : State) : List (TargetKind × Nat × Nat) :=
  let p := s.store.params
  let down := s.mode.direction = .downLine
  s.store.segments.zipIdx.map (fun (g, i) =>
      (TargetKind.segment i, if down then g.start + g.length else g.start, segmentLimit p s.mode.direction g)) ++
    ((if down then s.store.segments.head?.map (·.start)
      else s.store.segments.getLast?.map fun g => g.start + g.length).map fun x =>
        (TargetKind.tableEdge, x, p.shuntLimit)).toList ++
    s.limits.restrictions.map (fun r =>
      (TargetKind.restriction r.key r.state, if down then r.stop else r.start, r.limit)) ++
    (if s.mode.mode = .line then s.limits.permit.toList.map fun q => (TargetKind.permitEnd, q.endPos, 0) else [])

/-- Whether a candidate enters the list at a distance: its own distance ahead, or 0 for a permit's end behind (R83). -/
def entersAt (dir : Direction) (front : Int) (n : Nat) (c : TargetKind × Nat × Nat) : Bool :=
  (0 ≤ distanceAhead dir front c.2.1 || c.1 = .permitEnd) && max 0 (distanceAhead dir front c.2.1) = (n : Int)

/-- A target of a kind, a point and a speed stands in the list where its distance ahead is 0 to 6,000 (R83). -/
def TargetListed (front : Int) (kind : TargetKind) (point speed : Nat) (s t : State) : Prop :=
  0 ≤ distanceAhead s.mode.direction front point → distanceAhead s.mode.direction front point ≤ 6000 →
  ∃ x ∈ t.sup.targets, x.kind = kind ∧ x.point = point ∧ x.speed = speed ∧
    (x.distance : Int) = distanceAhead s.mode.direction front point

/-- Every block but the radio and the ports. -/
def allButRadio : List Block := [.mode, .odo, .store, .limits, .sup, .dem, .drive, .doors, .memory, .pending]

/-- A segment is the one of a table that a position lies in: its extent runs from its start up to, and not with, its end,
and no segment before it in the table holds the position too, as in a table whose segments join none can (R36, R37). -/
def StandsIn (table : List Segment) (x : Nat) (g : Segment) : Prop :=
  ∃ before after, table = before ++ g :: after ∧ g.start ≤ x ∧ x < g.start + g.length ∧
    ∀ h ∈ before, ¬(h.start ≤ x ∧ x < h.start + h.length)

/-- The position state is UNKNOWN, or the car position lies in no segment (R155, R157). -/
def Nowhere (s : State) : Prop :=
  s.odo.posState = .unknown ∨ ∀ g ∈ s.store.segments, ¬(g.start ≤ s.odo.position ∧ s.odo.position < g.start + g.length)

/-- The current zone and the DARK condition, by the table of R155. -/
structure ZoneOf (s : State) (zone : Nat) (dark : Bool) : Prop where
  nowhere : Nowhere s → zone = 0 ∧ dark = false
  segment : s.odo.posState ≠ .unknown → ∀ g, StandsIn s.store.segments s.odo.position g → zone = g.zone ∧ dark = g.dark

/-- The coverage state, by the table of R157 in its order, with T_LOST as R39 has it used. -/
structure CoverageOf (s : State) (c : Coverage) : Prop where
  nowhere : Nowhere s → c = .noZone
  dark : ¬Nowhere s → s.radio.dark = true → c = .dark
  noZone : s.radio.dark = false → s.radio.zone = 0 → c = .noZone
  covered : ¬Nowhere s → s.radio.dark = false → s.radio.zone ≠ 0 →
    s.radio.silenceCount < s.store.params.tSilence → c = .covered
  silent : ¬Nowhere s → s.radio.dark = false → s.radio.zone ≠ 0 → s.store.params.tSilence ≤ s.radio.silenceCount →
    s.radio.silenceCount < max s.store.params.tLost (s.store.params.tSilence + 2) → c = .silent
  lost : ¬Nowhere s → s.radio.dark = false → s.radio.zone ≠ 0 →
    max s.store.params.tLost (s.store.params.tSilence + 2) ≤ s.radio.silenceCount → c = .lost

/-- The current zone and DARK formed anew (R155): where neither changes the radio stays; a change of either sets the
silence timer to 0, held in zone 0 and in DARK and else started with a whole second to its tick (R156), and forms the
coverage (R157); and a change of the zone or of the coverage raises the RADIO event. -/
structure ZoneFormed (s t : State) : Prop where
  zone : ZoneOf t t.radio.zone t.radio.dark
  stands : t.radio.zone = s.radio.zone → t.radio.dark = s.radio.dark → t.radio = s.radio
  silence : t.radio.zone ≠ s.radio.zone ∨ t.radio.dark ≠ s.radio.dark →
    t.radio.silenceCount = 0 ∧ t.radio.silenceTick = 0 ∧
    (t.radio.silenceRunning = true ↔ t.radio.zone ≠ 0 ∧ t.radio.dark = false)
  coverage : t.radio.zone ≠ s.radio.zone ∨ t.radio.dark ≠ s.radio.dark → CoverageOf t t.radio.coverage
  event : t.radio.zone ≠ s.radio.zone ∨ t.radio.coverage ≠ s.radio.coverage → raisedAll .radio t
  rest : t.radio = { s.radio with
    zone := t.radio.zone, dark := t.radio.dark, coverage := t.radio.coverage
    silenceCount := t.radio.silenceCount, silenceRunning := t.radio.silenceRunning
    silenceTick := t.radio.silenceTick }

/-- One counter raised by one and nothing else changed, COUNTER_ALERT at its rise to 32,768 (R153). -/
structure Counted (k : Counter) (s t : State) : Prop where
  counter : t.radio.counters.get k = raisedByOne (s.radio.counters.get k)
  others : ∀ j, j ≠ k → t.radio.counters.get j = s.radio.counters.get j
  rest : t.radio = { s.radio with counters := t.radio.counters }
  alert : s.radio.counters.get k = 32767 → raisedAll .counterAlert t
  quiet : s.radio.counters.get k ≠ 32767 → t.ports = s.ports
  keeps : Keeps allButRadio s t
  ports : PortsKeep [.counterAlert] none s t

/-- Whether a frame is of this line and from a station and a zone that exist (R152, order 5). -/
def lineGood (f : Frame) (s : State) : Prop :=
  f.header.lineId.toNat = s.store.lineId ∧ s.store.lineId ≠ 0 ∧
    1 ≤ f.header.station.toNat ∧ f.header.station.toNat ≤ 31 ∧ 1 ≤ f.header.zone.toNat ∧ f.header.zone.toNat ≤ 31

/-- Whether a frame is addressed to this car (R152, orders 6 and 7). -/
def addressedHere (f : Frame) (s : State) : Prop :=
  (f.header.train ≠ 0 → ∃ c, s.mode.composition = some c ∧ c.train = f.header.train.toNat) ∧
    (f.header.train = 0 → f.kind = 0x14 ∨ f.kind = 0x15 → f.header.zone.toNat = s.radio.zone)

/-- A frame that the part takes as GOOD (R151, R152). -/
def frameGood (f : Frame) (s : State) : Prop :=
  s.radio.transmission = none ∧ f.body.length ≤ 118 ∧ lineGood f s ∧ addressedHere f s

/-- A moment at which a transmission may begin: it does where the window is open, none is in progress and fewer than
two frames have been begun in it, with the acknowledgement at the front of the queue or else the report that is due
(R168). -/
structure TransmissionBegun (s t : State) : Prop where
  ack : ∀ w e rest, s.radio.window = some w → s.radio.transmission = none → w.framesBegun < 2 →
    s.radio.acks = e :: rest → t = { s with radio := { s.radio with
      transmission := some ⟨.ack e true, ackFrame e s⟩, window := some { w with framesBegun := w.framesBegun + 1 } } }
  report : ∀ w, s.radio.window = some w → s.radio.transmission = none → w.framesBegun < 2 →
    s.radio.acks = [] → s.radio.reportDue = true → t = { s with radio := { s.radio with
      transmission := some ⟨.report, reportFrame s⟩, window := some { w with framesBegun := w.framesBegun + 1 } } }
  nothing : s.radio.acks = [] → s.radio.reportDue = false → t = s
  closed : s.radio.window = none ∨ s.radio.transmission ≠ none ∨
    (∀ w, s.radio.window = some w → 2 ≤ w.framesBegun) → t = s

/-- An acknowledgement offered to the queue (R165, R168). -/
structure AckOffered (e : BulletinEntry) (s t : State) : Prop where
  silent : (∀ c, s.mode.composition = some c → c.role = .listen) → t = s
  queued : ∀ c, s.mode.composition = some c → c.role = .transmit → s.radio.acks.length < 8 →
    TransmissionBegun { s with radio := { s.radio with acks := s.radio.acks ++ [e] } } t
  dropped : ∀ c, s.mode.composition = some c → c.role = .transmit → 8 ≤ s.radio.acks.length → Counted .ackDrops s t

/-- The entry that names a bulletin with its result (R160). -/
def entryOf (h : FrameHeader) (r : BulletinResult) : BulletinEntry := ⟨h.station.toNat, h.serial.toNat, r⟩

/-- The bulletin is new: its station and serial stand in no entry of the recent bulletin list (R159). -/
def newBulletin (h : FrameHeader) (s : State) : Prop :=
  ∀ e ∈ s.radio.recent, ¬(e.station = h.station.toNat ∧ e.serial = h.serial.toNat)

/-- A bulletin taken as new, from `s`: counted up to `b`, applied from `b` to `a` with its result, and from `a` entered
in the recent bulletin list and acknowledged (R159, R160). -/
structure BulletinTaken (h : FrameHeader) (r : BulletinResult) (s b a t : State) : Prop where
  counted : ∃ g, Counted .goodFrames s g ∧ Counted .bulletins g b
  ended : AckOffered (entryOf h r) { a with radio := { a.radio with
    recent := a.radio.recent.drop (if a.radio.recent.length < 32 then 0 else 1) ++ [entryOf h r]
    lastApplied := if r = .applied then some (h.station.toNat, h.serial.toNat) else a.radio.lastApplied } } t

/-- The blocks that a bulletin for the tables leaves while it is applied. -/
def tableless : List Block := [.mode, .odo, .store, .sup, .doors, .radio, .memory, .pending]

/-- The stop entry of a station becomes `k` (R71), the RADIO row and the events following (R72). -/
structure StopPut (station : Nat) (k : StopKind) (b a : State) : Prop where
  stops : a.limits = { b.limits with stops := b.limits.stops.set (station - 1) k }
  event : a.limits.stops ≠ b.limits.stops → raisedAll .restrictions a
  row : RowsFollow { b.dem.rows with radio := radioRow (strongestStop a.limits.stops) b.odo.standstill } b a
  keeps : Keeps tableless b a
  ports : PortsKeep (.restrictions :: rowEvents) none b a

/-- A message stored in the inbox (R162, R164). -/
structure MessageStored (m : Message) (b a : State) : Prop where
  radio : a.radio = { b.radio with
    inbox := b.radio.inbox ++ [m], freeCount := 8 - (b.radio.inbox.length + 1)
    arrivalCount := (b.radio.arrivalCount + 1) % 256 }
  event : raisedAll .inbox a
  low : b.store.params.inboxLow < b.radio.freeCount → a.radio.freeCount ≤ b.store.params.inboxLow →
    raisedAll .inboxLow a
  keeps : Keeps allButRadio b a
  ports : PortsKeep [.inbox, .inboxLow] none b a

/-- The end of a load with its result, the store otherwise being `x` (R1, R45). -/
structure LoadEnded (result : LoadResult) (x : Store) (s t : State) : Prop where
  store : t.store = { x with result := result, phase := .done, loader := .idle, differs := false }
  mode : t.mode = { s.mode with mode := .shunt }
  profileEvent : raisedAll .profile t
  modeEvent : raisedAll .mode t
  keeps : Keeps [.odo, .limits, .sup, .dem, .drive, .doors, .radio, .memory, .pending] s t
  ports : PortsKeep [.profile, .mode] none s t

/-- A load that ends NO_PROFILE: the line id and the revision 0, the defaults, an empty table, and the failure (R45,
R46). -/
def NoProfile (block : LoadBlock) (why : LoadReason) (x : Store) (s t : State) : Prop :=
  LoadEnded .noProfile { x with
    lineId := 0, revision := 0, params := Params.default, segments := [], failure := some ⟨block, why, .none⟩ } s t

/-- A load that ends NO_SEGMENTS with its failure (R43, R46). -/
def NoSegments (why : LoadReason) (detail : LoadDetail) (x : Store) (s t : State) : Prop :=
  LoadEnded .noSegments { x with failure := some ⟨.segments, why, detail⟩ } s t

/-- The store becomes `x` and nothing else changes. -/
structure StoreOnly (x : Store) (s t : State) : Prop where
  store : t.store = x
  keeps : Keeps (.memory :: .ports :: storeless) s t

/-- The segments phase begun from the store `x`: the count, then the extent of the block are tested, and the read is
made (R43, R44). -/
structure SegmentsBegun (x : Store) (s t : State) : Prop where
  count : x.headerCount = 0 ∨ 384 < x.headerCount → NoSegments .count .none { x with phase := .segments } s t
  overflow : 1 ≤ x.headerCount → x.headerCount ≤ 384 → 65536 < x.headerSegAddr + 3 + 19 * x.headerCount →
    NoSegments .overflow .none { x with phase := .segments } s t
  read : 1 ≤ x.headerCount → x.headerCount ≤ 384 → x.headerSegAddr + 3 + 19 * x.headerCount ≤ 65536 →
    StoreOnly { x with phase := .segments, loader := .segmentRead } s t

/-- Commands one after another, as long as each has a next state. -/
def runAll : List Instr → State → Host.Outcome State Fault Refusal
  | [], s => .next s
  | c :: rest, s =>
    match exec c s with
    | .next t => runAll rest t
    | o => o

/-! ### The clock -/

/-- One millisecond counted in every timer that runs, and in nothing else (R13, R41, R52, R115, R116, R119, R120, R123,
R133, R156, R166, R167, R172, R173). -/
structure TimersAdvanced (s t : State) : Prop where
  sampling : t.odo = { s.odo with samplingTimer := s.odo.samplingTimer + 1 }
  cycle : t.sup = { s.sup with cycleTimer := s.sup.cycleTimer + 1 }
  mode : t.mode = { s.mode with linkA := t.mode.linkA, linkB := t.mode.linkB }
  link : ∀ l, linkOf l t.mode = { linkOf l s.mode with timer := (linkOf l s.mode).timer.map (· + 1) }
  drive : t.drive = { s.drive with
    periodTimer := s.drive.periodTimer + 1, serviceCheck := t.drive.serviceCheck, springCheck := t.drive.springCheck
    testStep := s.drive.testStep.map fun x => { x with timer := x.timer + 1 } }
  serviceCheck : t.drive.serviceCheck = if s.drive.serviceCheck.outcome = .running
    then { s.drive.serviceCheck with timer := s.drive.serviceCheck.timer + 1 } else s.drive.serviceCheck
  springCheck : t.drive.springCheck =
    if s.drive.springCheck.outcome = .releaseRunning ∨ s.drive.springCheck.outcome = .applyRunning
    then { s.drive.springCheck with timer := s.drive.springCheck.timer + 1 } else s.drive.springCheck
  doors : t.doors = { s.doors with door := t.doors.door }
  door : ∀ d, doorOf d t.doors.door = { doorOf d s.doors.door with
    timer := (doorOf d s.doors.door).timer.map fun x => (x.1 + 1, x.2) }
  radio : t.radio = { s.radio with
    silenceTick := if s.radio.silenceRunning then s.radio.silenceTick + 1 else s.radio.silenceTick
    reportTimer := s.radio.reportTimer.map fun x => (x.1 + 1, x.2)
    window := s.radio.window.map fun w => { w with timer := w.timer + 1 } }
  store : t.store = { s.store with loader := t.store.loader, commit := t.store.commit }
  poll : t.store.loader = match s.store.loader with
    | .poll n => .poll (n + 1)
    | x => x
  page : t.store.commit = match s.store.commit with
    | .writing page (.program n) => .writing page (.program (n + 1))
    | .writing page (.poll n) => .writing page (.poll (n + 1))
    | x => x
  port : ∀ p, portOf p t = { portOf p s with
    rx := match (portOf p s).rx with
      | .awaiting => .awaiting
      | .receiving bytes gap => .receiving bytes (gap + 1)
    held := (portOf p s).held.map fun h => { h with sending := h.sending + 1 } }

/-- What a millisecond puts in an empty queue: the expiry of each timer that it brings to its limit, and no expiry of
one that it does not; an answer is sent after as long as its bytes take at 10 bits a byte (R171). -/
structure ExpiriesQueued (s t : State) : Prop where
  sampling : Instr.samplingExpiry ∈ t.pending ↔ 50 ≤ s.odo.samplingTimer + 1
  cycle : Instr.supervisionCycle ∈ t.pending ↔ 50 ≤ s.sup.cycleTimer + 1
  period : Instr.periodStart ∈ t.pending ↔ 20 ≤ s.drive.periodTimer + 1
  link : ∀ l, Instr.linkSilenceExpiry l ∈ t.pending ↔ ∃ n, (linkOf l s.mode).timer = some n ∧ 500 ≤ n + 1
  service : Instr.serviceCheckTimerExpiry ∈ t.pending ↔
    s.drive.serviceCheck.outcome = .running ∧ s.drive.serviceCheck.limit ≤ s.drive.serviceCheck.timer + 1
  release : Instr.releaseCheckTimerExpiry ∈ t.pending ↔
    s.drive.springCheck.outcome = .releaseRunning ∧ s.drive.springCheck.limit ≤ s.drive.springCheck.timer + 1
  apply : Instr.applyCheckTimerExpiry ∈ t.pending ↔
    s.drive.springCheck.outcome = .applyRunning ∧ s.drive.springCheck.limit ≤ s.drive.springCheck.timer + 1
  step : Instr.brakeTestStepTimerExpiry ∈ t.pending ↔ ∃ x, s.drive.testStep = some x ∧ x.limit ≤ x.timer + 1
  door : ∀ d, Instr.doorTimerExpiry d ∈ t.pending ↔
    ∃ x, (doorOf d s.doors.door).timer = some x ∧ x.2 ≤ x.1 + 1
  silence : Instr.silenceTimerTick ∈ t.pending ↔ s.radio.silenceRunning = true ∧ 1000 ≤ s.radio.silenceTick + 1
  report : Instr.reportTimerExpiry ∈ t.pending ↔ ∃ x, s.radio.reportTimer = some x ∧ 1000 * x.2 ≤ x.1 + 1
  window : Instr.windowTimerExpiry ∈ t.pending ↔ ∃ w, s.radio.window = some w ∧ 500 ≤ w.timer + 1
  loader : Instr.loaderBusyTimeout ∈ t.pending ↔ ∃ n, s.store.loader = .poll n ∧ 25 ≤ n + 1
  page : Instr.pageTimerExpiry ∈ t.pending ↔ ∃ page n,
    (s.store.commit = .writing page (.program n) ∨ s.store.commit = .writing page (.poll n)) ∧ 25 ≤ n + 1
  gap : ∀ p, Instr.gapTimeExpiry p ∈ t.pending ↔ ∃ bytes n, (portOf p s).rx = .receiving bytes n ∧ 2 ≤ n + 1
  answer : ∀ p, Instr.answerSent p ∈ t.pending ↔
    ∃ h, (portOf p s).held = some h ∧ 100 * (telegramBytes h.body).length ≤ 2304 * (h.sending + 1)

/-! ### Layouts -/

/-- The entry of a READ STATUS that governs the permitted speed, all FF unless it is a target (Formats). -/
def governingEntry (x : Supervisor) : List Byte :=
  match x.governing with
  | .target i =>
    match x.targets[i]? with
    | none => List.replicate 13 0xFF
    | some g => g.kind.code :: natField 3 g.point ++ natField 2 g.speed ++ natField 2 g.distance ++
        natField 2 g.vCurve ++ (match g.kind with
          | .restriction k _ => k.origin.code :: natField 1 k.station ++ natField 1 k.id
          | _ => [0xFF, 0xFF, 0xFF])
  | _ => List.replicate 13 0xFF

/-- The 104 bytes of READ STATUS, as the table of the Formats chapter lays them out: offset, width and content. -/
def statusLayout (p : Port) (t : State) : List (Nat × Nat × List Byte) :=
  [(0, 6, [t.mode.mode.code, t.mode.holder.code, t.mode.direction.code] ++ boolField t.mode.composition.isSome ++
      [t.mode.linkA.state.code, t.mode.linkB.state.code]),
   (6, 3, natField 3 t.odo.position), (9, 1, [t.odo.posState.code]), (10, 2, natField 2 t.odo.uncertainty),
   (12, 2, natField 2 t.odo.speed), (14, 2, t.odo.motion.code :: boolField t.odo.standstill),
   (16, 5, [t.store.phase.code, t.store.result.code, t.store.paramSource.code] ++ boolField t.store.differs ++
      [t.store.commit.code]),
   (21, 2, natField 1 t.store.pagesWritten ++ natField 1 t.store.pagesAll),
   (23, 2, t.store.lastCommit.code :: (match t.store.lastCommit with | .failed page => natField 1 page | _ => [0xFF])),
   (25, 1, [t.sup.level.code]), (26, 4, natField 2 t.sup.vPerm ++ natField 2 t.sup.staticLimit),
   (30, 2, [t.sup.staticReason.code, t.sup.governing.code]), (32, 2, natField 2 t.sup.targets.length),
   (34, 13, governingEntry t.sup), (47, 3, t.dem.driven.code :: natField 2 t.dem.driven.shownLevel),
   (50, 3, boolField t.dem.latch ++ [t.dem.alarm.code] ++ setField t.dem.handles.toList),
   (53, 12, natField 2 t.drive.level ++ natField 2 t.drive.target ++ natField 2 t.drive.duty ++
      natField 2 t.drive.activeDuty ++ optField 2 t.drive.serviceReading ++ optField 2 t.drive.releaseReading),
   (65, 9, [t.drive.valve.code, t.drive.springStatus.code, t.drive.serviceCheck.outcome.code,
      t.drive.springCheck.outcome.code] ++ boolField t.drive.springStuck ++
      setField [t.drive.serviceSlow, t.drive.springFail] ++ [t.drive.faultState.code, t.drive.source.code] ++
      optField 1 (t.drive.testStep.map (·.step))),
   (74, 2, optField 2 (t.drive.testStep.map (·.timer))),
   (76, 2, [t.drive.testRecord.code, t.drive.testRecord.second]),
   (78, 3, setField [t.doors.leftReleased, t.doors.rightReleased] ++
      [if t.doors.loopClosed then 0 else 1, t.dem.rows.doors.code]),
   (81, 4, t.doors.door.toList.map (·.state.code)), (85, 1, setField (t.doors.door.toList.map (·.lockLost))),
   (86, 2, natField 1 t.radio.zone ++ [t.radio.coverage.code]), (88, 2, natField 2 t.radio.silenceCount),
   (90, 4, natField 1 t.radio.freeCount ++ natField 1 t.radio.acks.length ++ boolField t.radio.reportDue ++
      boolField t.radio.window.isSome),
   (94, 3, match t.radio.lastApplied with
      | none => [0, 0xFF, 0xFF]
      | some x => natField 1 x.1 ++ natField 2 x.2),
   (97, 7, eventField (portOf p t).raw ++ eventField (portOf p t).mask ++ boolField (portOf p t).notice)]

/-- The 19 bytes of a position report's body, as the table of the Formats chapter lays them out (R169): the front is
that of R29, from the recorded composition, and marked none while the position state is UNKNOWN. -/
def reportLayout (c : Composition) (s : State) : List (Nat × Nat × List Byte) :=
  [(0, 3, if s.odo.posState = .unknown then [0x80, 0, 0]
      else intField 3 (if s.mode.direction = .downLine then (s.odo.position : Int) - c.offset
        else (s.odo.position : Int) - c.offset + c.length)),
   (3, 2, natField 2 s.odo.uncertainty), (5, 2, natField 2 s.odo.speed), (7, 1, [s.mode.direction.code]),
   (8, 1, [s.mode.mode.code]),
   (9, 3, match s.limits.permit with
      | none => [0xFF, 0xFF, 0xFF]
      | some p => natField 3 p.endPos),
   (12, 3, s.dem.driven.code :: natField 2 s.dem.driven.shownLevel), (15, 1, [if s.doors.loopClosed then 0 else 1]),
   (16, 3, match s.radio.lastApplied with
      | none => [0, 0xFF, 0xFF]
      | some x => natField 1 x.1 ++ natField 2 x.2)]

/-- The code of a bulletin's result in an acknowledgement (Formats). -/
def resultByte : BulletinResult → Byte
  | .applied => 0 | .refusedFull => 1 | .refusedShorten => 2 | .refusedDirection => 3
  | .refusedMode => 4 | .refusedInvalid => 5

/-- The reason that a segment record fails with, its codes being good, by the checks of R43 in their order; `prev` is
the up-line end of the record before it. -/
def reasonOf (prev : Option Nat) (g : Segment) : LoadReason :=
  if ¬(g.start ≤ 200000 ∧ 10 ≤ g.length ∧ g.length ≤ 20000 ∧ g.lineLimit ≤ 1200 ∧ g.zone ≤ 31) then .range
  else if (match g.kind with | .rack => 300 | .adhesion => 80) < g.gradient.natAbs then .gradient
  else if 200000 < g.start + g.length then .extent
  else if prev.any (· ≠ g.start) then .contiguity
  else if g.platform.any fun p => decide (p.toOffset ≤ p.fromOffset) || decide (g.length < p.toOffset) then .platform
  else .markOffset

/-! ### What stands on the wire -/

/-- The telegram that a request command stands for: its port, its code and its arguments (Formats). -/
def telegramOf : Instr → Option (Port × Byte × List Byte)
  | .powerOn _ => none
  | .readStatus p args => some (p, 0x01, args)
  | .readTable p args => some (p, 0x02, args)
  | .readEvents p args => some (p, 0x03, args)
  | .clearEvents p args => some (p, 0x04, args)
  | .setMask p args => some (p, 0x05, args)
  | .clearMask p args => some (p, 0x06, args)
  | .takeAuthority p args => some (p, 0x10, args)
  | .releaseAuthority p args => some (p, 0x11, args)
  | .setDirection p args => some (p, 0x12, args)
  | .setComposition p args => some (p, 0x13, args)
  | .setPosition p args => some (p, 0x14, args)
  | .selectMode p args => some (p, 0x15, args)
  | .restart p args => some (p, 0x16, args)
  | .brakeDemand p args => some (p, 0x20, args)
  | .emergency p args => some (p, 0x21, args)
  | .emergencyWithdraw p args => some (p, 0x22, args)
  | .emergencyReset p args => some (p, 0x23, args)
  | .brakeTestStart p args => some (p, 0x24, args)
  | .brakeTestAbort p args => some (p, 0x25, args)
  | .doorRelease p args => some (p, 0x30, args)
  | .doorClose p args => some (p, 0x31, args)
  | .doorRetry p args => some (p, 0x32, args)
  | .alarmConfirm p args => some (p, 0x33, args)
  | .alarmOverride p args => some (p, 0x34, args)
  | .restrictionAdd p args => some (p, 0x40, args)
  | .restrictionLift p args => some (p, 0x41, args)
  | .permitEnter p args => some (p, 0x42, args)
  | .permitClear p args => some (p, 0x43, args)
  | .radioStopOverride p args => some (p, 0x44, args)
  | .inboxTake p args => some (p, 0x50, args)
  | .counterDecrement p args => some (p, 0x51, args)
  | .profileWrite p args => some (p, 0x60, args)
  | .parameterWrite p args => some (p, 0x61, args)
  | .profileCommit p args => some (p, 0x62, args)
  | .unknownCommand p code args => some (p, code, args)
  | .telegramCrcError _ => none
  | .framingError _ => none
  | .gapTimeExpiry _ => none
  | .answerSent _ => none
  | .linkSilenceExpiry _ => none
  | .tachometerPulse _ _ => none
  | .samplingExpiry => none
  | .standstillBegin => none
  | .pinionFault => none
  | .trackMarkDetection => none
  | .supervisionCycle => none
  | .periodStart => none
  | .servicePressureReading _ => none
  | .releasePressureReading _ => none
  | .serviceCheckTimerExpiry => none
  | .releaseCheckTimerExpiry => none
  | .applyCheckTimerExpiry => none
  | .brakeTestStepTimerExpiry => none
  | .doorTimerExpiry _ => none
  | .doorLockedInput _ _ => none
  | .doorClosedInput _ _ => none
  | .doorOpenLimitInput _ _ => none
  | .doorObstacleInput _ _ => none
  | .passengerButton _ _ => none
  | .isolationSwitch _ _ => none
  | .handleChange _ _ => none
  | .discardedFrame _ => none
  | .beacon _ _ => none
  | .restrictionSet _ _ => none
  | .restrictionLiftBulletin _ _ => none
  | .permitGrant _ _ => none
  | .permitRevoke _ _ => none
  | .stopOrder _ _ => none
  | .stopRelease _ _ => none
  | .text _ _ => none
  | .transmissionEnd => none
  | .windowTimerExpiry => none
  | .silenceTimerTick => none
  | .reportTimerExpiry => none
  | .loaderStatusAnswer _ => none
  | .loaderBusyTimeout => none
  | .headerReadEnd _ => none
  | .parameterBlockReadEnd _ => none
  | .segmentBlockReadEnd _ => none
  | .commitStatusAnswer _ => none
  | .pageTimerExpiry => none
  | .telegramByteArrival _ _ => none
  | .commitTransferEnd => none

/-- The radio frame that a frame command stands for (Formats). -/
def frameOf : Instr → Option Frame
  | .powerOn _ => none
  | .readStatus _ _ => none
  | .readTable _ _ => none
  | .readEvents _ _ => none
  | .clearEvents _ _ => none
  | .setMask _ _ => none
  | .clearMask _ _ => none
  | .takeAuthority _ _ => none
  | .releaseAuthority _ _ => none
  | .setDirection _ _ => none
  | .setComposition _ _ => none
  | .setPosition _ _ => none
  | .selectMode _ _ => none
  | .restart _ _ => none
  | .brakeDemand _ _ => none
  | .emergency _ _ => none
  | .emergencyWithdraw _ _ => none
  | .emergencyReset _ _ => none
  | .brakeTestStart _ _ => none
  | .brakeTestAbort _ _ => none
  | .doorRelease _ _ => none
  | .doorClose _ _ => none
  | .doorRetry _ _ => none
  | .alarmConfirm _ _ => none
  | .alarmOverride _ _ => none
  | .restrictionAdd _ _ => none
  | .restrictionLift _ _ => none
  | .permitEnter _ _ => none
  | .permitClear _ _ => none
  | .radioStopOverride _ _ => none
  | .inboxTake _ _ => none
  | .counterDecrement _ _ => none
  | .profileWrite _ _ => none
  | .parameterWrite _ _ => none
  | .profileCommit _ _ => none
  | .unknownCommand _ _ _ => none
  | .telegramCrcError _ => none
  | .framingError _ => none
  | .gapTimeExpiry _ => none
  | .answerSent _ => none
  | .linkSilenceExpiry _ => none
  | .tachometerPulse _ _ => none
  | .samplingExpiry => none
  | .standstillBegin => none
  | .pinionFault => none
  | .trackMarkDetection => none
  | .supervisionCycle => none
  | .periodStart => none
  | .servicePressureReading _ => none
  | .releasePressureReading _ => none
  | .serviceCheckTimerExpiry => none
  | .releaseCheckTimerExpiry => none
  | .applyCheckTimerExpiry => none
  | .brakeTestStepTimerExpiry => none
  | .doorTimerExpiry _ => none
  | .doorLockedInput _ _ => none
  | .doorClosedInput _ _ => none
  | .doorOpenLimitInput _ _ => none
  | .doorObstacleInput _ _ => none
  | .passengerButton _ _ => none
  | .isolationSwitch _ _ => none
  | .handleChange _ _ => none
  | .discardedFrame _ => none
  | .beacon h body => some ⟨h, 0x01, body⟩
  | .restrictionSet h body => some ⟨h, 0x10, body⟩
  | .restrictionLiftBulletin h body => some ⟨h, 0x11, body⟩
  | .permitGrant h body => some ⟨h, 0x12, body⟩
  | .permitRevoke h body => some ⟨h, 0x13, body⟩
  | .stopOrder h body => some ⟨h, 0x14, body⟩
  | .stopRelease h body => some ⟨h, 0x15, body⟩
  | .text h body => some ⟨h, 0x16, body⟩
  | .transmissionEnd => none
  | .windowTimerExpiry => none
  | .silenceTimerTick => none
  | .reportTimerExpiry => none
  | .loaderStatusAnswer _ => none
  | .loaderBusyTimeout => none
  | .headerReadEnd _ => none
  | .parameterBlockReadEnd _ => none
  | .segmentBlockReadEnd _ => none
  | .commitStatusAnswer _ => none
  | .pageTimerExpiry => none
  | .telegramByteArrival _ _ => none
  | .commitTransferEnd => none

/-- The command codes with the length of what follows each in its telegram's body (Formats). -/
def telegramLengths : List (Byte × Nat) :=
  [(0x01, 0), (0x02, 4), (0x03, 0), (0x04, 3), (0x05, 3), (0x06, 3), (0x10, 0),
   (0x11, 0), (0x12, 1), (0x13, 8), (0x14, 5), (0x15, 1), (0x16, 0), (0x20, 2),
   (0x21, 0), (0x22, 0), (0x23, 0), (0x24, 0), (0x25, 0), (0x30, 2), (0x31, 1),
   (0x32, 1), (0x33, 0), (0x34, 0), (0x40, 9), (0x41, 1), (0x42, 3), (0x43, 0),
   (0x44, 0), (0x50, 0), (0x51, 3), (0x60, 16), (0x61, 6), (0x62, 0)]

/-- The codes of the commands that only the holder may give, RESTART excepted (the rules of each command). -/
def holderCommands : List Byte :=
  [0x11, 0x12, 0x13, 0x14, 0x15, 0x20, 0x23, 0x24, 0x25, 0x30, 0x33, 0x34, 0x40, 0x41, 0x42, 0x43, 0x44,
   0x60, 0x61, 0x62]

/-- The bytes of a frame on the air: its header, its body and its CRC (R151, Formats). -/
def frameOnAir (f : Frame) : List Byte :=
  let h := f.header
  let covered := [h.lineId, h.station, h.zone, f.kind, h.serial.extractLsb' 8 8, h.serial.extractLsb' 0 8,
    h.train.extractLsb' 8 8, h.train.extractLsb' 0 8] ++ f.body
  covered ++ crcField covered

/-! ### Invariants -/

/-- The notice line of every port is asserted while a raw flag is set whose mask flag is set too, and not while no such
pair exists (R183). -/
def NoticesFollow (s : State) : Prop :=
  ∀ p, (portOf p s).notice = true ↔ ∃ e, (portOf p s).raw.has e = true ∧ (portOf p s).mask.has e = true

/-- What a service part may be (R95). -/
def legalService : Kind → Bool
  | .none => true
  | .service n => 1 ≤ n && n ≤ 999
  | .full => true
  | _ => false

/-- The rows stand as their causes have them, and the driven kind, the latch and the traction inhibit as the
rows have them (R14, R32, R72, R90, R95 to R97, R102, R107, R108, R121, R148). -/
structure DemandsFollow (s : State) : Prop where
  driven : s.dem.driven = drivenOf s.dem.latch s.dem.rows
  traction : s.dem.traction = !(s.dem.driven == .none)
  latched : s.dem.latch = true ∨ firstEmergency s.dem.rows = none
  cabA : legalService s.dem.rows.cabA.service = true
  cabB : legalService s.dem.rows.cabB.service = true
  panel : s.dem.rows.panel.service = .none
  supervision : s.dem.rows.supervision = supervisionRow s.sup.level
  loop : s.doors.loopClosed = allSecured s.doors.door
  doors : s.dem.rows.doors = doorsRow s.doors.loopClosed s.odo.standstill
  radio : s.dem.rows.radio = radioRow (strongestStop s.limits.stops) s.odo.standstill
  link : s.dem.rows.link = linkRow (holderLinkLost s.mode) s.odo.standstill
  alarm : s.dem.rows.alarm = alarmRow s.dem.alarm s.odo.standstill
  odometry : s.dem.rows.odometry = odometryRow s.odo.rollback s.odo.pinionFault
  brakeCheck : s.dem.rows.brakeCheck = brakeCheckRow s.drive.serviceSlow s.drive.springFail
  faultState : s.drive.faultState = faultStateOf s.drive.serviceSlow s.drive.springFail

/-- The outputs stand as the output source has them, and under the latch the spring brake and the full
service brake are commanded (R112, R123, R125). -/
structure BrakesFollow (s : State) : Prop where
  latch : s.dem.latch = true → s.dem.driven = .emergency ∧ s.drive.source ≠ .test
  mapping : s.drive.source = .mapping →
    (s.drive.level, s.drive.valve) = mappedOutputs s.dem.driven s.odo.standstill
  hold : s.drive.source = .abortHold → s.drive.level = 1000 ∧ s.drive.valve = .deEnergized
  test : s.drive.source = .test → ∃ t, s.drive.testStep = some t ∧ 1 ≤ t.step ∧ t.step ≤ 5 ∧
    (s.drive.level, s.drive.valve) = stepOutputs t.step
  step : s.drive.testStep.isSome = true → s.drive.source = .test

/-- What holds of the mode, the authority and the permit (R1, R3, R6, R65). -/
structure ModeFollows (s : State) : Prop where
  loading : s.mode.mode = .loading ↔ s.store.loader ≠ .idle
  line : s.mode.mode = .line →
    s.mode.composition.isSome = true ∧ s.store.result = .profileLoaded ∧ s.drive.testRecord = .passed
  test : s.drive.source = .test → s.drive.testRecord ≠ .passed
  step : s.drive.testStep.isSome = true → s.drive.source = .test
  direction : s.mode.holder = .none → s.mode.direction = .none
  permit : ∀ p, s.limits.permit = some p →
    s.mode.mode = .line ∧ p.direction = s.mode.direction ∧ p.direction ≠ .none

/-- Every mark of the table lies on the line (R36, R37). -/
def marksOnLine (table : List Segment) : Prop := ∀ m ∈ marksOf table, m ≤ Config.lineEnd

/-- The position record keeps its ranges, and the uncertainty is what the accumulator and the position state
make it (R17, R20, R24, R25). -/
structure PositionFollows (s : State) : Prop where
  onLine : s.odo.position ≤ Config.lineEnd
  marks : marksOnLine s.store.segments
  unknown : s.odo.posState = .unknown → s.odo.position = 0 ∧ s.odo.remainder = 0 ∧ s.odo.uncertainty = 0
  known : s.odo.posState = .known → s.odo.uncertainty = uncertaintyOf s.odo.accumulator
  lost : s.odo.posState = .lost → s.odo.uncertainty = Config.greatestUncertainty
  accumulator : s.odo.accumulator ≤ Config.greatestAccumulator
  since : s.odo.sinceCorrection ≤ 1000000
  speed : s.odo.speed ≤ Config.maxSpeed
  axleSpeed : s.odo.axleSpeed ≤ Config.maxSpeed
  reverse : s.odo.reverse ≤ 65535
  carry : s.odo.reverseCarry ≤ 99
  unexpected : s.odo.unexpectedMarks ≤ 255
  quiet : s.odo.quietTime ≤ Config.standstillTime
  pinion : s.odo.pinionFaultTime ≤ Config.pinionFaultTime

/-- Every key has at most one ACTIVE entry (R56). -/
def oneActive (l : List Restriction) : Prop :=
  l.Pairwise fun x y => x.state = .active → y.state = .active → x.key ≠ y.key

/-- The tables, lists and queues keep their bounds and their orders, the silence timer is held at 0 in zone 0 and in
DARK and runs elsewhere, and the memory keeps its canonical form (R36, R37, R56, R71, R156, R160, R162, R165, R168). -/
structure TablesFollow (s : State) : Prop where
  segments : s.store.segments.length ≤ Config.segmentSlots
  long : ∀ g ∈ s.store.segments, 10 ≤ g.length
  joined : contiguous s.store.segments
  count : s.store.loader = .segmentRead → s.store.headerCount ≤ Config.segmentSlots
  glc : s.store.params.glc.length = 7
  restrictions : s.limits.restrictions.length ≤ Config.restrictionSlots
  ordered : s.limits.restrictions.Pairwise fun x y => x.start ≤ y.start
  active : oneActive s.limits.restrictions
  stops : s.limits.stops.length = 31
  inbox : s.radio.inbox.length ≤ Config.inboxSlots
  texts : ∀ m ∈ s.radio.inbox, m.text.length ≤ 96
  free : s.radio.freeCount = freeSlots s.radio.inbox
  acks : s.radio.acks.length ≤ Config.ackSlots
  recent : s.radio.recent.length ≤ Config.recentSlots
  distinct : s.radio.recent.Pairwise fun x y => ¬(x.station = y.station ∧ x.serial = y.serial)
  window : ∀ w, s.radio.window = some w → w.framesBegun ≤ 2
  silence : s.radio.silenceRunning = true ↔ s.radio.zone ≠ 0 ∧ s.radio.dark = false
  held : s.radio.silenceRunning = false → s.radio.silenceCount = 0
  memory : Memory.wf s.memory = true

end Sys2Proof.Machine
end

