-- ==== Sys2Proof/WellFormed.lean ====
section
/-!
DEFINITION. Which commands can arrive at all: the bounds that the wire formats set on a command's
operands (R151, R172, R184), before any rule of the part judges them.
-/

namespace Sys2Proof

/-- The command codes of the part (Formats, Telegrams), in hexadecimal. -/
def commandCodes : List Byte :=
  [0x01, 0x02, 0x03, 0x04, 0x05, 0x06, 0x10, 0x11, 0x12, 0x13, 0x14, 0x15, 0x16,
   0x20, 0x21, 0x22, 0x23, 0x24, 0x25, 0x30, 0x31, 0x32, 0x33, 0x34,
   0x40, 0x41, 0x42, 0x43, 0x44, 0x50, 0x51, 0x60, 0x61, 0x62]

/-- A telegram's body is 1..250 bytes, its command code among them (R172). -/
def argsFit (args : List Byte) : Bool := args.length ≤ 249

/-- A well-formed frame has a body of 0..118 bytes (R151). -/
def bodyFits (body : List Byte) : Bool := body.length ≤ 118

/-- The bounds the formats set on a command's operands. -/
def WellFormed : Instr → Bool
  | .powerOn _ => true
  | .readStatus _ args => argsFit args
  | .readTable _ args => argsFit args
  | .readEvents _ args => argsFit args
  | .clearEvents _ args => argsFit args
  | .setMask _ args => argsFit args
  | .clearMask _ args => argsFit args
  | .takeAuthority _ args => argsFit args
  | .releaseAuthority _ args => argsFit args
  | .setDirection _ args => argsFit args
  | .setComposition _ args => argsFit args
  | .setPosition _ args => argsFit args
  | .selectMode _ args => argsFit args
  | .restart _ args => argsFit args
  | .brakeDemand _ args => argsFit args
  | .emergency _ args => argsFit args
  | .emergencyWithdraw _ args => argsFit args
  | .emergencyReset _ args => argsFit args
  | .brakeTestStart _ args => argsFit args
  | .brakeTestAbort _ args => argsFit args
  | .doorRelease _ args => argsFit args
  | .doorClose _ args => argsFit args
  | .doorRetry _ args => argsFit args
  | .alarmConfirm _ args => argsFit args
  | .alarmOverride _ args => argsFit args
  | .restrictionAdd _ args => argsFit args
  | .restrictionLift _ args => argsFit args
  | .permitEnter _ args => argsFit args
  | .permitClear _ args => argsFit args
  | .radioStopOverride _ args => argsFit args
  | .inboxTake _ args => argsFit args
  | .counterDecrement _ args => argsFit args
  | .profileWrite _ args => argsFit args
  | .parameterWrite _ args => argsFit args
  | .profileCommit _ args => argsFit args
  | .unknownCommand _ code args => argsFit args && !commandCodes.contains code
  | .telegramCrcError _ => true
  | .framingError _ => true
  | .gapTimeExpiry _ => true
  | .answerSent _ => true
  | .linkSilenceExpiry _ => true
  | .tachometerPulse _ _ => true
  | .samplingExpiry => true
  | .standstillBegin => true
  | .pinionFault => true
  | .trackMarkDetection => true
  | .supervisionCycle => true
  | .periodStart => true
  | .servicePressureReading _ => true
  | .releasePressureReading _ => true
  | .serviceCheckTimerExpiry => true
  | .releaseCheckTimerExpiry => true
  | .applyCheckTimerExpiry => true
  | .brakeTestStepTimerExpiry => true
  | .doorTimerExpiry _ => true
  | .doorLockedInput _ _ => true
  | .doorClosedInput _ _ => true
  | .doorOpenLimitInput _ _ => true
  | .doorObstacleInput _ _ => true
  | .passengerButton _ _ => true
  | .isolationSwitch _ _ => true
  | .handleChange _ _ => true
  | .discardedFrame _ => true
  | .beacon _ body => bodyFits body
  | .restrictionSet _ body => bodyFits body
  | .restrictionLiftBulletin _ body => bodyFits body
  | .permitGrant _ body => bodyFits body
  | .permitRevoke _ body => bodyFits body
  | .stopOrder _ body => bodyFits body
  | .stopRelease _ body => bodyFits body
  | .text _ body => bodyFits body
  | .transmissionEnd => true
  | .windowTimerExpiry => true
  | .silenceTimerTick => true
  | .reportTimerExpiry => true
  | .loaderStatusAnswer _ => true
  | .loaderBusyTimeout => true
  | .headerReadEnd bytes => bytes.length == 16
  | .parameterBlockReadEnd bytes => bytes.length == 128
  | .segmentBlockReadEnd bytes => 22 ≤ bytes.length && bytes.length ≤ 7299 && bytes.length % 19 == 3
  | .commitStatusAnswer _ => true
  | .pageTimerExpiry => true
  | .telegramByteArrival _ _ => true
  | .commitTransferEnd => true

end Sys2Proof
end

