-- ==== Sys2Proof/Certificates/Slice0/Obligations.lean ====
section
/-!
DEFINITION. The statements for the provers.
-/

open Sys2Proof Sys2Proof.Machine

/-! ### The queue, the clock and the table -/

/-- A step takes the command at the front of the queue and has exactly its effect, on the state with the
queue's rest. -/
def Obligations.StepRunsTheFrontCommand : Prop :=
  ∀ (c : Instr) (rest : List Instr) (s : State), s.pending = c :: rest → step s = exec c { s with pending := rest }

/-- The model's choice (notes/assumptions/3.md): with nothing waiting a step lets one millisecond pass. Every timer that
runs counts it, of the odometry, the supervisor, the links, the brake drive with its checks and its test, the doors, the
radio, the loader, the commit and the ports; each that so reaches its limit puts its expiry in the queue, and no other;
and all else stays. The page timer runs and expires in the page's program as in its polling (notes/assumptions/24.md). -/
def Obligations.EmptyQueueLetsAMillisecondPass : Prop :=
  ∀ s : State, s.pending = [] →
    ∃ t, step s = .next t ∧ TimersAdvanced s t ∧ ExpiriesQueued s t ∧ Keeps [.limits, .dem, .memory] s t

/-! ### Telegrams -/

/-- The bytes of a valid telegram, arriving one by one at a port that awaits a start byte, are taken as that
telegram and leave nothing else behind (R172, R184). -/
def Obligations.BytesMakeTheTelegram : Prop :=
  ∀ (p : Port) (code : Byte) (args : List Byte) (s : State),
    (portOf p s).rx = .awaiting → args.length ≤ 249 →
    runAll ((telegramBytes (code :: args)).map (.telegramByteArrival p)) s = .next (takeTelegram p code args s)

/-- Every request of the table is the telegram of its own command code, with the length its layout requires,
and no other code is a command of the part (R174; one command for a whole telegram is the model's reading,
notes/assumptions/5.md). -/
def Obligations.RequestsAreTheirTelegrams : Prop :=
  (∀ (i : Instr) (p : Port) (code : Byte) (args : List Byte) (s : State),
    telegramOf i = some (p, code, args) → exec i s = .next (takeTelegram p code args s)) ∧
  (∀ (p : Port) (code : Byte) (args : List Byte),
    (ruleOf code p args).map Prod.fst = (telegramLengths.find? fun x => x.1 = code).map Prod.snd) ∧
  telegramLengths.map Prod.fst = commandCodes

/-- A request taken is judged by its code, then by its length, then by the mode, then by its right, and what these
refuse changes no state but the port's held request (R174, R175): a command for the holder alone, or for the holder
or port C, is refused with the status of its right from a port that has not the right. -/
def Obligations.RequestsAreJudgedInOrder : Prop :=
  (∀ (p : Port) (code : Byte) (args : List Byte) (s : State), (portOf p s).held = none →
     ((telegramLengths.find? fun x => x.1 = code) = none →
       ∃ t, exec (.unknownCommand p code args) s = .next t ∧
         Answered p code (plainReply .unknownCommand) allButPorts [] s t) ∧
     (∀ n, (telegramLengths.find? fun x => x.1 = code) = some (code, n) → args.length ≠ n →
       Answered p code (plainReply .badArgument) allButPorts [] s (takeTelegram p code args s)) ∧
     (∀ n, (telegramLengths.find? fun x => x.1 = code) = some (code, n) → args.length = n →
       s.mode.mode = .loading → code ≠ 0x01 →
       Answered p code (plainReply .loading) allButPorts [] s (takeTelegram p code args s))) ∧
  (∀ (p : Port) (code : Byte) (n : Nat) (args : List Byte) (s : State), Ready p s → isHolder p s = false →
     (code, n) ∈ telegramLengths → args.length = n →
     (code ∈ holderCommands →
       Answered p code (if p = .c then plainReply .notPermitted else plainReply .notAuthority) allButPorts [] s
         (takeTelegram p code args s)) ∧
     (code ∈ [0x31, 0x32] → p ≠ .c →
       Answered p code (plainReply .notAuthority) allButPorts [] s (takeTelegram p code args s)) ∧
     (code = 0x10 → p = .c →
       Answered p code (plainReply .notPermitted) allButPorts [] s (takeTelegram p code args s)))

/-- What `completeTelegram` leaves is what the hearing of a valid telegram on the port leaves, whatever its code
and whether it is taken or not (R13, R14, R172): a trainline port's link is UP with its timer at 0. And every
valid telegram is heard: the link of the port is UP with its silence timer at 0 after it. One that completes while the
port holds a request is discarded and counted (R173). -/
def Obligations.EveryValidTelegramIsHeard : Prop :=
  ((∀ (p : Port) (s : State), Heard p s (completeTelegram p s)) ∧
   (∀ (p : Port) (l : LinkPort) (code : Byte) (args : List Byte) (s : State), trainlineOf p = some l →
     linkOf l (takeTelegram p code args s).mode = ⟨.up, some 0⟩)) ∧
  (∀ (p : Port) (code : Byte) (args : List Byte) (s : State), (portOf p s).held.isSome = true →
     ∃ t, exec (.unknownCommand p code args) s = .next t ∧ t = takeTelegram p code args s ∧
       (portOf p t).held = (portOf p s).held ∧
       (portOf p t).discarded =
         (if (portOf p s).discarded < 65535 then (portOf p s).discarded + 1 else (portOf p s).discarded) ∧
       portOf p t = { portOf p (completeTelegram p s) with discarded := (portOf p t).discarded } ∧
       (∀ q, q ≠ p → portOf q t = portOf q (completeTelegram p s)) ∧
       Keeps allButPorts (completeTelegram p s) t)

/-! ### Resets -/

/-- POWER_ON takes every block to its values after power-on, with the inputs as they stand, whatever was before; the
memory keeps what the profile memory holds, but for a page that was being written (R15, R54, R93, R130). Where R110
forms values from the parameters in use at the reset, the model takes the defaults (notes/assumptions/6.md); what an
idle check shows is 0 by notes/assumptions/21.md; the page no longer known is notes/assumptions/19.md. -/
def Obligations.PowerOnResetsEverything : Prop :=
  ∀ (i : CarInputs) (s : State), ∃ t, exec (.powerOn i) s = .next t ∧
    t.mode = .reset ∧ t.odo = .reset ∧ t.store = .reset ∧ t.limits = .reset ∧ t.sup = .reset ∧
    t.drive = .reset ∧ t.radio = .reset ∧ (∀ p, portOf p t = .reset) ∧ ResetFound i t ∧
    t.pending = s.pending ∧ PageLost s t

/-- RESTART, from the holder at standstill or from any port while the holder is NONE, is answered OK and takes every
block to its values after power-on, with the inputs as they stand, and keeps the radio counters, the ports' receive
states and error counters, and the links with their timers; a commit in progress is abandoned with its page as far as it
was sent (R54); from a port that is not the holder, or while the car moves under a holder, it is refused (R15, R16,
R171). The default parameters in the values after the reset are notes/assumptions/6.md, the zeros of idle checks
notes/assumptions/21.md, the page no longer known notes/assumptions/19.md. -/
def Obligations.RestartResetsAllButWhatItKeeps : Prop :=
  ∀ (p : Port) (s : State), Ready p s →
    ((s.mode.holder = .none ∨ (isHolder p s = true ∧ s.odo.standstill = true)) →
      ∃ t i, exec (.restart p []) s = .next t ∧ (portOf p t).held = some ⟨0x16, okReply [], 0⟩ ∧
        (∀ q, q ≠ p → (portOf q t).held = (portOf q s).held) ∧
        t.mode = { ModeUnit.reset with
          linkA := (completeTelegram p s).mode.linkA, linkB := (completeTelegram p s).mode.linkB } ∧
        t.odo = .reset ∧ t.store = .reset ∧ t.limits = .reset ∧ t.sup = .reset ∧ t.drive = .reset ∧
        t.radio = { Radio.reset with counters := s.radio.counters } ∧
        (∀ q, (portOf q t).raw = 0 ∧ (portOf q t).mask = 0 ∧ (portOf q t).notice = false ∧
          (portOf q t).rx = (portOf q (completeTelegram p s)).rx ∧
          (portOf q t).framingErrors = (portOf q s).framingErrors ∧
          (portOf q t).crcErrors = (portOf q s).crcErrors ∧ (portOf q t).discarded = (portOf q s).discarded) ∧
        i.handles = s.dem.handles ∧ (∀ d, inputOf d i.doors = (doorOf d s.doors.door).inputs) ∧ ResetFound i t ∧
        t.pending = s.pending ∧ PageLeft s t) ∧
    (s.mode.holder ≠ .none → isHolder p s = false →
      ∃ t, exec (.restart p []) s = .next t ∧
        Answered p 0x16 (if p = .c then plainReply .notPermitted else plainReply .notAuthority) allButPorts [] s t) ∧
    (isHolder p s = true → s.odo.standstill = false →
      ∃ t, exec (.restart p []) s = .next t ∧ Answered p 0x16 (plainReply .notStandstill) allButPorts [] s t)

/-! ### Authority, direction, composition and mode -/

/-- TAKE AUTHORITY: refused to port C; granted while the holder is NONE, with the direction left as it is and no
row touched; OK to the holder; and against another holder BUSY while its link is not LOST, NOT_STANDSTILL while
the car moves, and else a takeover. RELEASE AUTHORITY from the holder: refused while the car moves, else answered OK
with the authority passed to none (R5 to R10). That a passing writes the LINK row and the former holder's row at once, where
R96 lets either be taken first, is the model's choice (notes/assumptions/25.md). -/
def Obligations.AuthorityIsTakenAndReleased : Prop :=
  (∀ (p : Port) (s : State), Ready p s → ∃ t, exec (.takeAuthority p []) s = .next t ∧
     (p = .c → Answered p 0x10 (plainReply .notPermitted) allButPorts [] s t) ∧
     (p ≠ .c → s.mode.holder = .none →
       Answered p 0x10 (okReply []) (.dem :: .drive :: restBlocks) [.authority] s t ∧ raisedAll .authority t ∧
       t.mode = { (completeTelegram p s).mode with holder := holderOf p }) ∧
     (isHolder p s = true → Answered p 0x10 (okReply []) allButPorts [] s t) ∧
     (p ≠ .c → s.mode.holder ≠ .none → isHolder p s = false → holderLinkLost s.mode = false →
       Answered p 0x10 (plainReply .busy) allButPorts [] s t) ∧
     (p ≠ .c → isHolder p s = false → holderLinkLost s.mode = true → s.odo.standstill = false →
       Answered p 0x10 (plainReply .notStandstill) allButPorts [] s t) ∧
     (p ≠ .c → isHolder p s = false → holderLinkLost s.mode = true → s.odo.standstill = true →
       Answered p 0x10 (okReply []) passedBlocks (.authority :: .permit :: rowEvents) s t ∧
       AuthorityPassed (holderOf p) (completeTelegram p s) t)) ∧
  (∀ (p : Port) (s : State), Ready p s → isHolder p s = true → ∃ t, exec (.releaseAuthority p []) s = .next t ∧
     (s.odo.standstill = false → Answered p 0x11 (plainReply .notStandstill) allButPorts [] s t) ∧
     (s.odo.standstill = true →
       Answered p 0x11 (okReply []) passedBlocks (.authority :: .permit :: rowEvents) s t ∧
       AuthorityPassed .none (completeTelegram p s) t))

/-- SET DIRECTION from the holder: a value that is no direction is BAD_ARGUMENT, then NOT_STANDSTILL while the car
moves; the present direction changes nothing; another one is taken, with the AUTHORITY event, and makes a permit of
another direction absent, with the PERMIT event (R10). -/
def Obligations.SetDirectionAtStandstill : Prop :=
  ∀ (p : Port) (s : State), Ready p s → isHolder p s = true →
    (∀ b : Byte, 3 ≤ b.toNat → ∃ t, exec (.setDirection p [b]) s = .next t ∧
      Answered p 0x12 (plainReply .badArgument) allButPorts [] s t) ∧
    (∀ d : Direction, ∃ t, exec (.setDirection p [d.code]) s = .next t ∧
      (s.odo.standstill = false → Answered p 0x12 (plainReply .notStandstill) allButPorts [] s t) ∧
      (s.odo.standstill = true → d = s.mode.direction → Answered p 0x12 (okReply []) allButPorts [] s t) ∧
      (s.odo.standstill = true → d ≠ s.mode.direction →
        Answered p 0x12 (okReply []) [.dem, .drive, .store, .sup, .doors, .radio, .memory, .pending]
          [.authority, .permit] s t ∧
        t.mode = { (completeTelegram p s).mode with direction := d } ∧
        t.odo = { s.odo with awaited := none } ∧
        t.limits = { s.limits with permit := s.limits.permit.filter (·.direction = d) } ∧
        raisedAll .authority t ∧ (t.limits.permit ≠ s.limits.permit → raisedAll .permit t)))

/-- SET COMPOSITION from the holder: bytes that are no code of the orientation or of the radio role, and fields out of
range, are BAD_ARGUMENT, then WRONG_MODE outside SHUNT, then NOT_STANDSTILL; else the record is replaced whole, the
brake test record becomes NOT_RUN, and the MODE and BRAKE_TEST events are raised, even where nothing differs (R11). Of
the radio no report is due, the report timer starts anew under TRANSMIT and stops under LISTEN, which empties the
acknowledgement queue (R166), and all else stays. That an acknowledgement on the air then no longer stands in the queue
is a mark of the model's own (notes/assumptions/17.md). -/
def Obligations.SetCompositionReplacesTheRecord : Prop :=
  (∀ (p : Port) (train length offset : Nat) (o r : Byte) (s : State), Ready p s → isHolder p s = true →
    2 ≤ o.toNat ∨ 2 ≤ r.toNat →
    ∃ t, exec (.setComposition p (natField 2 train ++ natField 2 length ++ natField 2 offset ++ [o, r])) s = .next t ∧
      Answered p 0x13 (plainReply .badArgument) allButPorts [] s t) ∧
  (∀ (p : Port) (train length offset : Nat) (o : Orientation) (r : RadioRole) (s : State),
    Ready p s → isHolder p s = true → train < 65536 → length < 65536 → offset < 65536 →
    ∃ t, exec (.setComposition p (compositionBytes train length offset o r)) s = .next t ∧
      (¬(1 ≤ train ∧ train ≤ 4095 ∧ 50 ≤ length ∧ length ≤ 1200 ∧ offset ≤ length) →
        Answered p 0x13 (plainReply .badArgument) allButPorts [] s t) ∧
      (1 ≤ train ∧ train ≤ 4095 ∧ 50 ≤ length ∧ length ≤ 1200 ∧ offset ≤ length →
        (s.mode.mode ≠ .shunt → Answered p 0x13 (plainReply .wrongMode) allButPorts [] s t) ∧
        (s.mode.mode = .shunt → s.odo.standstill = false →
          Answered p 0x13 (plainReply .notStandstill) allButPorts [] s t) ∧
        (s.mode.mode = .shunt → s.odo.standstill = true →
          Answered p 0x13 (okReply []) [.odo, .store, .limits, .sup, .dem, .doors, .memory, .pending]
            [.mode, .brakeTest, .brakeState] s t ∧
          t.mode = { (completeTelegram p s).mode with composition := some ⟨train, length, offset, o, r⟩ } ∧
          raisedAll .mode t ∧ raisedAll .brakeTest t ∧
          DriveKeeps (completeTelegram p s).drive t.drive ∧
          (s.drive.source ≠ .test →
            t.drive = { (completeTelegram p s).drive with testRecord := .notRun false }) ∧
          ((completeTelegram p s).drive.source = .test →
            HoldTaken s.store.params (.notRun true) (completeTelegram p s).drive t.drive) ∧
          ((completeTelegram p s).drive.springStuck = true → t.drive.springStuck = false → raisedAll .brakeState t) ∧
          t.radio = { s.radio with
            reportDue := false
            reportTimer := if r = .transmit then some (0, s.store.params.reportInterval) else none
            acks := if r = .transmit then s.radio.acks else []
            transmission := if r = .transmit then s.radio.transmission else s.radio.transmission.map unqueued })))

/-- SET POSITION from the holder: a position beyond 200,000 dm or an uncertainty outside 50..600 dm is
BAD_ARGUMENT, then NOT_STANDSTILL; else the position is KNOWN there, with the accumulator that gives the
uncertainty carried, and the notice KNOWN_BY_COMMAND (R24, R28); and the current zone is that of the segment there, with
the silence timer, the coverage and the RADIO event of a change, all else of the radio as it was (R155 to R157). -/
def Obligations.SetPositionMakesItKnown : Prop :=
  ∀ (p : Port) (x u : Nat) (s : State), Ready p s → isHolder p s = true → x < 16777216 → u < 65536 →
    ∃ t, exec (.setPosition p (natField 3 x ++ natField 2 u)) s = .next t ∧
      (¬(x ≤ 200000 ∧ 50 ≤ u ∧ u ≤ 600) → Answered p 0x14 (plainReply .badArgument) allButPorts [] s t) ∧
      (x ≤ 200000 ∧ 50 ≤ u ∧ u ≤ 600 → s.odo.standstill = false →
        Answered p 0x14 (plainReply .notStandstill) allButPorts [] s t) ∧
      (x ≤ 200000 ∧ 50 ≤ u ∧ u ≤ 600 → s.odo.standstill = true →
        Answered p 0x14 (okReply []) [.mode, .store, .limits, .sup, .dem, .drive, .doors, .memory, .pending]
          [.position, .radio] s t ∧
        t.odo = { s.odo with
          position := x, remainder := 0, posState := .known, uncertainty := u, accumulator := (u - 20) * 1000,
          unexpectedMarks := 0, sinceCorrection := 0, awaited := none, notice := .knownByCommand } ∧
        raisedAll .position t ∧ ZoneFormed s t)

/-- SELECT MODE from the holder, by its table: BAD_ARGUMENT, NOT_STANDSTILL, BUSY under a commit, OK for the present
mode, the five conditions of LINE in their order, and else the mode asked for with the MODE event; a change to SHUNT
makes the permit absent (R2 to R4). -/
def Obligations.SelectModeByItsTable : Prop :=
  ∀ (p : Port) (s : State), Ready p s → isHolder p s = true →
    (∀ b : Byte, b ≠ 1 → b ≠ 2 → ∃ t, exec (.selectMode p [b]) s = .next t ∧
      Answered p 0x15 (plainReply .badArgument) allButPorts [] s t) ∧
    (∀ m : CarMode, m ≠ .loading → ∃ t, exec (.selectMode p [m.code]) s = .next t ∧
      (s.odo.standstill = false → Answered p 0x15 (plainReply .notStandstill) allButPorts [] s t) ∧
      (s.odo.standstill = true → s.store.commit ≠ .idle →
        Answered p 0x15 (plainReply .busy) allButPorts [] s t) ∧
      (s.odo.standstill = true → s.store.commit = .idle →
        (m = s.mode.mode → Answered p 0x15 (okReply []) allButPorts [] s t) ∧
        (m = .line → s.mode.mode ≠ .line → ∀ c, firstFailing
            [(s.store.result ≠ .profileLoaded, .profileNotLoaded),
             (s.odo.posState ≠ .known, .positionNotKnown), (s.mode.composition = none, .noComposition),
             ((completeTelegram p s).drive.testRecord ≠ .passed, .brakeTestNotPassed),
             (s.drive.faultState ≠ .none, .brakeFault)] = some c →
          Answered p 0x15 (conditionReply c) allButPorts [] s t) ∧
        (m = .line → s.mode.mode ≠ .line → s.store.result = .profileLoaded → s.odo.posState = .known →
          s.mode.composition ≠ none → (completeTelegram p s).drive.testRecord = .passed →
          s.drive.faultState = .none →
          Answered p 0x15 (okReply []) (.dem :: .drive :: restBlocks) [.mode] s t ∧
          t.mode = { (completeTelegram p s).mode with mode := .line } ∧ raisedAll .mode t) ∧
        (m = .shunt → s.mode.mode ≠ .shunt →
          Answered p 0x15 (okReply []) [.odo, .store, .sup, .dem, .drive, .doors, .radio, .memory, .pending]
            [.mode, .permit] s t ∧
          t.mode = { (completeTelegram p s).mode with mode := .shunt } ∧
          t.limits = { s.limits with permit := none } ∧ raisedAll .mode t ∧
          (s.limits.permit ≠ none → raisedAll .permit t))))

/-! ### Reading the part, and its event flags -/

/-- READ STATUS is answered OK from any port in every mode, LOADING too, with 104 bytes in which every item stands at
the offset and in the width that its layout gives it, and changes nothing (R177, Formats). The codes of the values
whose numbers no layout gives, the notice line's among them, are notes/assumptions/20.md. -/
def Obligations.ReadStatusAnswersInEveryMode : Prop :=
  ∀ (p : Port) (s : State), (portOf p s).held = none →
    ∃ t x, exec (.readStatus p []) s = .next t ∧ Answered p 0x01 (okReply x) allButPorts [] s t ∧ x.length = 104 ∧
      ∀ e ∈ statusLayout p t, (x.drop e.1).take e.2.1 = e.2.2

/-- READ TABLE: a table that does not exist is BAD_ARGUMENT and a first index above the number of entries N is
NOT_FOUND; else the answer carries the table, the first index, the number of entries returned and N, and then the
entries from the first index on, as many as asked for, as there are and as the table's own clamp lets an answer take
(R178, R185). Nothing changes. Every entry of a table has the width that its layout gives it, and as many as the clamp
lets an answer take fill, with what the table appends, at most 241 bytes (R185); that the tables keep their bounds is an
invariant of its own. -/
def Obligations.ReadTableReturnsTheEntriesAskedFor : Prop :=
  (∀ (p : Port) (code first count : Nat) (s : State), Ready p s → code < 256 → first < 65536 → count < 256 →
     ∃ t, exec (.readTable p (natField 1 code ++ natField 2 first ++ natField 1 count)) s = .next t ∧
       (11 ≤ code → Answered p 0x02 (plainReply .badArgument) allButPorts [] s t) ∧
       (∀ table, tableNumber table = code →
         ((tableEntries p (completeTelegram p s) table).length < first →
           Answered p 0x02 (plainReply .notFound) allButPorts [] s t) ∧
         (first ≤ (tableEntries p (completeTelegram p s) table).length →
           ∃ n, n = min (min count ((tableEntries p (completeTelegram p s) table).length - first))
               (tableGreatest table) ∧
             Answered p 0x02 (okReply (natField 1 code ++ natField 2 first ++ natField 1 n ++
               natField 2 (tableEntries p (completeTelegram p s) table).length ++
               (((tableEntries p (completeTelegram p s) table).drop first).take n).flatten ++
               tableAppended (completeTelegram p s) table)) allButPorts [] s t))) ∧
  (∀ (p : Port) (s : State) (table : TableName), TablesFollow s →
     (∀ e ∈ tableEntries p s table, e.length = tableWidth table) ∧
     tableGreatest table * tableWidth table + (tableAppended s table).length ≤ 241)

/-- READ EVENTS is answered OK with the requesting port's raw flags, mask flags and notice line, and changes none of
them (R182). CLEAR EVENTS clears the raw flags of the kinds named, SET MASK sets and CLEAR MASK clears the mask flags of
the kinds named, each in the requesting port alone, its notice line following; a set that names any other kind is
BAD_ARGUMENT (R181 to R183). That the notice line's byte is 1 where it is asserted is the model's reading
(notes/assumptions/20.md). -/
def Obligations.EventFlagsAreReadClearedAndMasked : Prop :=
  (∀ (p : Port) (s : State), Ready p s → ∃ t, exec (.readEvents p []) s = .next t ∧
     Answered p 0x03 (okReply (eventField (portOf p t).raw ++ eventField (portOf p t).mask ++
       boolField (portOf p t).notice)) allButPorts [] s t) ∧
  (∀ (p : Port) (v : Nat) (s : State), Ready p s → v < 16777216 →
     ∃ t, exec (.clearEvents p (natField 3 v)) s = .next t ∧
       (2 ^ 18 ≤ v → Answered p 0x04 (plainReply .badArgument) allButPorts [] s t) ∧
       (v < 2 ^ 18 → FlagsSet p 0x04 s t ∧ (portOf p t).mask = (portOf p s).mask ∧
         ∀ e, (portOf p t).raw.has e = ((portOf p (completeTelegram p s)).raw.has e && !v.testBit e.index))) ∧
  (∀ (p : Port) (v : Nat) (s : State), Ready p s → v < 16777216 →
     (∃ t, exec (.setMask p (natField 3 v)) s = .next t ∧
       (2 ^ 18 ≤ v → Answered p 0x05 (plainReply .badArgument) allButPorts [] s t) ∧
       (v < 2 ^ 18 → FlagsSet p 0x05 s t ∧ (portOf p t).raw = (portOf p (completeTelegram p s)).raw ∧
         ∀ e, (portOf p t).mask.has e = ((portOf p s).mask.has e || v.testBit e.index))) ∧
     (∃ t, exec (.clearMask p (natField 3 v)) s = .next t ∧
       (2 ^ 18 ≤ v → Answered p 0x06 (plainReply .badArgument) allButPorts [] s t) ∧
       (v < 2 ^ 18 → FlagsSet p 0x06 s t ∧ (portOf p t).raw = (portOf p (completeTelegram p s)).raw ∧
         ∀ e, (portOf p t).mask.has e = ((portOf p s).mask.has e && !v.testBit e.index))))

/-! ### Brake demands, the latch, the brake test and the alarm -/

/-- BRAKE DEMAND from a port that is not the holder is refused; from the holder it is answered OK for every level,
and writes the service part of the holder's own row: NONE for 0, SERVICE for 1 to 999, FULL from 1,000 on (R99). A
running brake test goes on. An abort hold ends whatever the level: the mapping takes the outputs, and both checks
start (R125, R127). -/
def Obligations.BrakeDemandWritesTheServicePart : Prop :=
  (∀ (p : Port) (level : Nat) (s : State), Ready p s → isHolder p s = true → level < 65536 →
     ∃ t part new, exec (.brakeDemand p (natField 2 level)) s = .next t ∧
       part = (if level = 0 then Kind.none else if level < 1000 then .service level else .full) ∧
       new = (completeTelegram p s).dem.rows.updPort p (fun r => { r with service := part }) ∧
       Answered p 0x20 (okReply []) (.mode :: restBlocks) rowEvents s t ∧
       DemandsTake new (completeTelegram p s) t ∧ DriveKeeps (completeTelegram p s).drive t.drive ∧
       ((completeTelegram p s).drive.source = .mapping → RowsFollow new (completeTelegram p s) t) ∧
       ((completeTelegram p s).drive.source = .abortHold → MappingTaken s.store.params
         (mappedOutputs t.dem.driven s.odo.standstill) (completeTelegram p s).drive t.drive) ∧
       ((completeTelegram p s).drive.springStuck = true → t.drive.springStuck = false → raisedAll .brakeState t) ∧
       ((completeTelegram p s).drive.source = .test → DemandsFollow s → t.drive = (completeTelegram p s).drive)) ∧
  (∀ (p : Port) (level : Nat) (s : State), Ready p s → isHolder p s = false → level < 65536 →
    ∃ t, exec (.brakeDemand p (natField 2 level)) s = .next t ∧
      Answered p 0x20 (plainReply (if p = .c then .notPermitted else .notAuthority)) allButPorts [] s t)

/-- EMERGENCY from any port sets, and EMERGENCY WITHDRAW takes back, the emergency part of that port's own row; the
first sets the latch with it, the second leaves the latch; where the part stands so already nothing changes and nothing
is raised (R97, R100, R101). -/
def Obligations.EmergencyAndWithdrawActOnTheirOwnRow : Prop :=
  (∀ (p : Port) (s : State), Ready p s → ∃ t, exec (.emergency p []) s = .next t ∧
     ((s.dem.rows.ofPort p).emergency = true → Answered p 0x21 (okReply []) allButPorts [] s t) ∧
     ((s.dem.rows.ofPort p).emergency = false →
       Answered p 0x21 (okReply []) (.mode :: restBlocks) rowEvents s t ∧ raisedAll .emergency t ∧
       RowsFollow ((completeTelegram p s).dem.rows.updPort p fun r => { r with emergency := true })
         (completeTelegram p s) t ∧
       (DemandsFollow s → t.dem.latch = true ∧ t.dem.driven = .emergency ∧
         t.dem.rows.kind (rowOfPort p) = .emergency))) ∧
  (∀ (p : Port) (s : State), Ready p s → ∃ t, exec (.emergencyWithdraw p []) s = .next t ∧
     ((s.dem.rows.ofPort p).emergency = false → Answered p 0x22 (okReply []) allButPorts [] s t) ∧
     ((s.dem.rows.ofPort p).emergency = true →
       Answered p 0x22 (okReply []) (.mode :: restBlocks) rowEvents s t ∧ raisedAll .emergency t ∧
       RowsFollow ((completeTelegram p s).dem.rows.updPort p fun r => { r with emergency := false })
         (completeTelegram p s) t ∧
       (DemandsFollow s → t.dem.latch = s.dem.latch ∧
         t.dem.rows.kind (rowOfPort p) = (s.dem.rows.ofPort p).service)))

/-- EMERGENCY RESET, by its table: refused to a port that is not the holder; then OK with nothing changed while the
latch is clear; then NOT_STANDSTILL; then ROW_EMERGENCY with the first row at EMERGENCY; then SPRING_NOT_APPLIED;
else the latch is cleared, the EMERGENCY event raised, and the driven kind becomes the strongest row (R96, R98). The
number of the row in that answer, counted from 0 in the order of R95 (R185), is notes/assumptions/20.md. -/
def Obligations.EmergencyResetByItsTable : Prop :=
  (∀ (p : Port) (s : State), Ready p s → isHolder p s = true → ∃ t, exec (.emergencyReset p []) s = .next t ∧
     (s.dem.latch = false → Answered p 0x23 (okReply []) allButPorts [] s t) ∧
     (s.dem.latch = true → s.odo.standstill = false →
       Answered p 0x23 (plainReply .notStandstill) allButPorts [] s t) ∧
     (∀ r, s.dem.latch = true → s.odo.standstill = true →
       firstEmergency (completeTelegram p s).dem.rows = some r →
       Answered p 0x23 ⟨.condition, some .rowEmergency, [r.code]⟩ allButPorts [] s t) ∧
     (s.dem.latch = true → s.odo.standstill = true → firstEmergency (completeTelegram p s).dem.rows = none →
       s.drive.springStatus ≠ .applied →
       Answered p 0x23 (conditionReply .springNotApplied) allButPorts [] s t) ∧
     (s.dem.latch = true → s.odo.standstill = true → firstEmergency (completeTelegram p s).dem.rows = none →
       s.drive.springStatus = .applied →
       Answered p 0x23 (okReply []) (.mode :: restBlocks) [.emergency, .brakeState] s t ∧
       t.dem.latch = false ∧ raisedAll .emergency t ∧
       t.dem.driven = strongestOf (allRows.map (completeTelegram p s).dem.rows.kind) ∧
       RowsFollow (completeTelegram p s).dem.rows
         { completeTelegram p s with dem := { (completeTelegram p s).dem with latch := false } } t)) ∧
  (∀ (p : Port) (s : State), Ready p s → isHolder p s = false → ∃ t, exec (.emergencyReset p []) s = .next t ∧
    Answered p 0x23 (plainReply (if p = .c then .notPermitted else .notAuthority)) allButPorts [] s t)

/-- BRAKE TEST START from the holder, by its table: WRONG_MODE outside SHUNT, NOT_STANDSTILL, BUSY while a test runs,
LATCH_SET, BRAKE_FAULT; else ACCEPTED, with step 1 begun: the release valve de-energized and level 300 commanded,
its timer at 0 under the limit T_RESP, both checks of the mapping ended, the record NOT_RUN, and the BRAKE_TEST
event (R122, R123). BRAKE TEST ABORT from the holder: NO_TEST while none runs; else the test ends ABORTED with the cause
REQUEST, and the full service brake and the spring brake are commanded in an abort hold (R125, R126). That step 1 forms
its target and duty from the parameters as they stand at its beginning is notes/assumptions/12.md. -/
def Obligations.BrakeTestIsStartedAndAborted : Prop :=
  (∀ (p : Port) (s : State), Ready p s → isHolder p s = true → ∃ t, exec (.brakeTestStart p []) s = .next t ∧
     (s.mode.mode ≠ .shunt → Answered p 0x24 (plainReply .wrongMode) allButPorts [] s t) ∧
     (s.mode.mode = .shunt →
       (s.odo.standstill = false → Answered p 0x24 (plainReply .notStandstill) allButPorts [] s t) ∧
       (s.odo.standstill = true → s.drive.source = .test → Answered p 0x24 (plainReply .busy) allButPorts [] s t) ∧
       (s.odo.standstill = true → s.drive.source ≠ .test → s.dem.latch = true →
         Answered p 0x24 (conditionReply .latchSet) allButPorts [] s t) ∧
       (s.odo.standstill = true → s.drive.source ≠ .test → s.dem.latch = false → s.drive.faultState ≠ .none →
         Answered p 0x24 (conditionReply .brakeFault) allButPorts [] s t) ∧
       (s.odo.standstill = true → s.drive.source ≠ .test → s.dem.latch = false → s.drive.faultState = .none →
         Answered p 0x24 (plainReply .accepted) (.mode :: .dem :: restBlocks) [.brakeTest, .brakeState] s t ∧
         t.drive.source = .test ∧ t.drive.testStep = some ⟨1, 0, s.store.params.tResp⟩ ∧
         t.drive.testRecord = .notRun false ∧ t.drive.level = 300 ∧ t.drive.valve = .deEnergized ∧
         t.drive.target = targetOf s.store.params 300 ∧
         t.drive.duty = dutyOf s.store.params.valve (targetOf s.store.params 300) ∧
         t.drive.serviceCheck.outcome ≠ .running ∧ t.drive.springCheck.runs = false ∧
         t.drive.springStuck = (if (completeTelegram p s).drive.valve = .energized then false
           else (completeTelegram p s).drive.springStuck) ∧
         ((completeTelegram p s).drive.springStuck = true → t.drive.springStuck = false → raisedAll .brakeState t) ∧
         DriveKeeps s.drive t.drive ∧ raisedAll .brakeTest t))) ∧
  (∀ (p : Port) (s : State), Ready p s → isHolder p s = true → ∃ t, exec (.brakeTestAbort p []) s = .next t ∧
     (s.drive.source ≠ .test → Answered p 0x25 (conditionReply .noTest) allButPorts [] s t) ∧
     ((completeTelegram p s).drive.source = .test →
       Answered p 0x25 (okReply []) (.mode :: .dem :: restBlocks) [.brakeTest, .brakeState] s t ∧
       TestAborted (.aborted .request) (completeTelegram p s) t))

/-- ALARM CONFIRM and ALARM OVERRIDE from the holder: NO_ALARM while the alarm is CLEAR; else the alarm becomes
CONFIRMED or OVERRIDDEN, with the ALARM event where that is a change, and the ALARM row follows (R104 to R107). -/
def Obligations.AlarmIsConfirmedOrOverridden : Prop :=
  ∀ (p : Port) (s : State), Ready p s → isHolder p s = true →
    (∃ t, exec (.alarmConfirm p []) s = .next t ∧
      (s.dem.alarm = .clear → Answered p 0x33 (conditionReply .noAlarm) allButPorts [] s t) ∧
      (s.dem.alarm ≠ .clear →
        Answered p 0x33 (okReply []) (.mode :: restBlocks) (.alarm :: rowEvents) s t ∧
        t.dem.alarm = .confirmed ∧ (s.dem.alarm ≠ .confirmed → raisedAll .alarm t) ∧
        RowsFollow { (completeTelegram p s).dem.rows with alarm := if s.odo.standstill then .hold else .full }
          { completeTelegram p s with dem := { (completeTelegram p s).dem with alarm := .confirmed } } t)) ∧
    (∃ t, exec (.alarmOverride p []) s = .next t ∧
      (s.dem.alarm = .clear → Answered p 0x34 (conditionReply .noAlarm) allButPorts [] s t) ∧
      (s.dem.alarm ≠ .clear →
        Answered p 0x34 (okReply []) (.mode :: restBlocks) (.alarm :: rowEvents) s t ∧
        t.dem.alarm = .overridden ∧ (s.dem.alarm ≠ .overridden → raisedAll .alarm t) ∧
        RowsFollow { (completeTelegram p s).dem.rows with alarm := .none }
          { completeTelegram p s with dem := { (completeTelegram p s).dem with alarm := .overridden } } t))

/-! ### Doors -/

/-- DOOR RELEASE from the holder, by its table: bytes that are no side or no flag are BAD_ARGUMENT, then
NOT_STANDSTILL, then SPRING_NOT_APPLIED; then every door is placed anew, its line side and line position by the door map
and the orientation (R131), and with no door that qualifies by its enabled flag, its line side and the platform check
(R143) it is NO_PLATFORM; else ACCEPTED, with the side's flag set, each door that qualifies acted on by its state, through
the states whose input it finds already there, and every other left as placed (R132 to R136, R142, R144, R148). That no
door passes the platform check in LINE with the position UNKNOWN is the model's choice (notes/assumptions/15.md). -/
def Obligations.DoorReleaseActsOnQualifiedDoors : Prop :=
  (∀ (p : Port) (a b : Byte) (s : State), Ready p s → isHolder p s = true → 2 ≤ a.toNat ∨ 2 ≤ b.toNat →
    ∃ t, exec (.doorRelease p [a, b]) s = .next t ∧ Answered p 0x30 (plainReply .badArgument) allButPorts [] s t) ∧
  (∀ (p : Port) (side : LineSide) (auto : Bool) (s : State), Ready p s → isHolder p s = true →
    ∃ t h placed, exec (.doorRelease p (side.code :: boolField auto)) s = .next t ∧
      h = completeTelegram p s ∧
      (∀ d, DoorPlaced s (mapOf d s.store.params.doorMap) (doorOf d s.doors.door) (doorOf d placed)) ∧
      (s.odo.standstill = false → Answered p 0x30 (plainReply .notStandstill) allButPorts [] s t) ∧
      (s.odo.standstill = true → s.drive.springStatus ≠ .applied →
        Answered p 0x30 (conditionReply .springNotApplied) allButPorts [] s t) ∧
      (s.odo.standstill = true → s.drive.springStatus = .applied →
        ((∀ d, ¬DoorQualified s side (mapOf d s.store.params.doorMap) (doorOf d placed)) →
          Answered p 0x30 (plainReply .noPlatform) (.dem :: .drive :: doorlessBlocks) [] s t ∧
          t.doors = { s.doors with door := placed }) ∧
        ((∃ d, DoorQualified s side (mapOf d s.store.params.doorMap) (doorOf d placed)) →
          Answered p 0x30 (plainReply .accepted) doorlessBlocks (.doors :: rowEvents) s t ∧ DoorsFormed h t ∧
          t.doors.leftReleased = (s.doors.leftReleased || side = .left) ∧
          t.doors.rightReleased = (s.doors.rightReleased || side = .right) ∧
          ∀ d, (DoorQualified s side (mapOf d s.store.params.doorMap) (doorOf d placed) →
              DoorReleased auto s.store.params.doorMoveTime s.store.params.doorWarningTime (doorOf d placed)
                (doorOf d t.doors.door)) ∧
            (¬DoorQualified s side (mapOf d s.store.params.doorMap) (doorOf d placed) →
              doorOf d t.doors.door = doorOf d placed))))

/-- DOOR CLOSE from the holder or port C is ACCEPTED at any speed: the flags of the sides named are cleared, and each
door whose recorded line side is named is acted on by its state, the others left; a byte that names no side is
BAD_ARGUMENT (R145, R148). DOOR RETRY from the holder or port C: a byte that names no door is BAD_ARGUMENT; a door
neither OBSTRUCTED nor in FAULT is DOOR_NOT_HELD; else ACCEPTED, and the door goes to WARNING with its count, its cause
and its open request cleared (R137, R147). -/
def Obligations.DoorsAreClosedAndRetried : Prop :=
  (∀ (p : Port) (b : Byte) (s : State), Ready p s → isHolder p s = true ∨ p = .c →
     ∃ t, exec (.doorClose p [b]) s = .next t ∧
       (2 < b.toNat → Answered p 0x31 (plainReply .badArgument) allButPorts [] s t) ∧
       (b.toNat ≤ 2 →
         Answered p 0x31 (plainReply .accepted) doorlessBlocks (.doors :: rowEvents) s t ∧
         DoorsFormed (completeTelegram p s) t ∧
         t.doors.leftReleased = (if b = 1 then s.doors.leftReleased else false) ∧
         t.doors.rightReleased = (if b = 0 then s.doors.rightReleased else false) ∧
         ∀ d, (b = 2 ∨ b = (doorOf d s.doors.door).lineSide.code →
             DoorClosed s.store.params.doorWarningTime (doorOf d s.doors.door) (doorOf d t.doors.door)) ∧
           (b ≠ 2 → b ≠ (doorOf d s.doors.door).lineSide.code →
             doorOf d t.doors.door = doorOf d s.doors.door))) ∧
  (∀ (p : Port) (s : State), Ready p s → isHolder p s = true ∨ p = .c →
     (∀ b : Byte, b = 0 ∨ 4 < b.toNat → ∃ t, exec (.doorRetry p [b]) s = .next t ∧
       Answered p 0x32 (plainReply .badArgument) allButPorts [] s t) ∧
     (∀ d : DoorId, ∃ t, exec (.doorRetry p [doorNumber d]) s = .next t ∧
       ((doorOf d s.doors.door).state ∉ [DoorState.obstructed, .fault] →
         Answered p 0x32 (conditionReply .doorNotHeld) allButPorts [] s t) ∧
       ((doorOf d s.doors.door).state ∈ [DoorState.obstructed, .fault] →
         (portOf p t).held = some ⟨0x32, plainReply .accepted, 0⟩ ∧
         DoorActed (some p) d { doorOf d s.doors.door with
           state := .warning, timer := some (0, s.store.params.doorWarningTime), obstacles := 0, cause := none
           openRequest := false, heldOpen := false } (completeTelegram p s) t)))

/-- The expiry of a door's timer that has reached its limit: a bolt or a leaf that did not answer puts the door in
FAULT with its cause; a warning goes over to CLOSING, and on to LOCKING and to CLOSED_LOCKED as the inputs have it
(R133, R134, R136 to R138). A door whose timer is stopped, or has been started again and not reached its limit, is
left (notes/assumptions/4.md). -/
def Obligations.DoorTimersExpire : Prop :=
  ∀ (d : DoorId) (x : Door) (s : State), x = doorOf d s.doors.door →
    ∃ t e, exec (.doorTimerExpiry d) s = .next t ∧ DoorActed none d e s t ∧
      ((∀ n limit, x.timer = some (n, limit) → n < limit) → e = x) ∧
      (∀ n limit, x.timer = some (n, limit) → limit ≤ n →
        (∀ c, (x.state, c) ∈ [(DoorState.unlocking, FaultCause.unlockTime), (.opening, .openTime),
            (.closing, .closeTime), (.locking, .lockTime)] →
          e = { x with state := .fault, timer := none, cause := some c, heldOpen := false } ∧
          raisedAll .doorFault t) ∧
        (x.state = .warning → x.inputs.closed = false →
          e = { x with state := .closing, timer := some (0, s.store.params.doorMoveTime), heldOpen := false
                       limitRead := s.store.params.obstacleLimit }) ∧
        (x.state = .warning → x.inputs.closed = true → x.inputs.locked = false →
          e = { x with state := .locking, timer := some (0, 800), heldOpen := false
                       limitRead := s.store.params.obstacleLimit }) ∧
        (x.state = .warning → x.inputs.closed = true → x.inputs.locked = true →
          e = { x with state := .closedLocked, timer := none, obstacles := 0, openRequest := false
                       lockLost := false, heldOpen := false, limitRead := s.store.params.obstacleLimit }) ∧
        (x.state ∉ [DoorState.unlocking, .opening, .closing, .locking, .warning] → e = x))

/-- A change of a door's locked input: absent, it takes UNLOCKING to RELEASED, and on to OPENING where an open request
meets the open permission; present, it takes LOCKING to CLOSED_LOCKED. A change of its closed input: present, it takes
CLOSING to LOCKING under the limit of 800 ms. In CLOSED_LOCKED the loss of either sets LOCK_LOST with the DOOR_FAULT
event, and the return of both clears it; in any other state a change is recorded (R134, R135, R137, R138, R140). That
each loss raises the event anew is the model's reading (notes/assumptions/14.md). -/
def Obligations.BoltInputsMoveTheDoor : Prop :=
  (∀ (d : DoorId) (present : Bool) (x y : Door) (s : State), x = doorOf d s.doors.door →
     y = { x with inputs := { x.inputs with locked := present } } →
     ∃ t e, exec (.doorLockedInput d present) s = .next t ∧ DoorActed none d e s t ∧
       (x.state = .unlocking → present = false → x.openRequest = false →
         e = { y with state := .released, timer := none, heldOpen := false }) ∧
       (x.state = .unlocking → present = false → x.openRequest = true → openPermission s = false →
         e = { y with state := .released, timer := none, openRequest := false, heldOpen := false }) ∧
       (x.state = .unlocking → present = false → x.openRequest = true → openPermission s = true →
         OpeningEntered s.store.params.doorMoveTime s.store.params.doorWarningTime
           ((doorCtx s).released x.lineSide) y e) ∧
       (x.state = .unlocking → present = true → e = y) ∧
       (x.state = .locking → present = true →
         e = { y with state := .closedLocked, timer := none, obstacles := 0, openRequest := false
                      lockLost := false, heldOpen := false }) ∧
       (x.state = .locking → present = false → e = y) ∧
       (x.state = .closedLocked → x.inputs.locked = true → present = false →
         e = { y with lockLost := true } ∧ raisedAll .doorFault t) ∧
       (x.state = .closedLocked → present = true →
         e = if x.inputs.closed then { y with lockLost := false } else y) ∧
       (x.state ∉ [DoorState.unlocking, .locking, .closedLocked] → e = y)) ∧
  (∀ (d : DoorId) (present : Bool) (x y : Door) (s : State), x = doorOf d s.doors.door →
     y = { x with inputs := { x.inputs with closed := present } } →
     ∃ t e, exec (.doorClosedInput d present) s = .next t ∧ DoorActed none d e s t ∧
       (x.state = .closing → present = true → x.inputs.locked = false →
         e = { y with state := .locking, timer := some (0, 800), heldOpen := false }) ∧
       (x.state = .closing → present = true → x.inputs.locked = true →
         e = { y with state := .closedLocked, timer := none, obstacles := 0, openRequest := false
                      lockLost := false, heldOpen := false }) ∧
       (x.state = .closing → present = false → e = y) ∧
       (x.state = .closedLocked → x.inputs.closed = true → present = false →
         e = { y with lockLost := true } ∧ raisedAll .doorFault t) ∧
       (x.state = .closedLocked → present = true →
         e = if x.inputs.locked then { y with lockLost := false } else y) ∧
       (x.state ∉ [DoorState.closing, .closedLocked] → e = y))

/-- The leaf's other inputs: the open-limit input present takes OPENING to OPEN, and on to WARNING where the door's
side is not released; the obstacle input present in CLOSING raises the count, and at the limit read, or without the
open permission, leaves the door OBSTRUCTED, else it reopens, through OPENING with the open-limit input present already;
elsewhere they are recorded (R132, R133, R136, R139). That an obstacle input found present again counts again is the
model's choice (notes/assumptions/23.md). -/
def Obligations.LimitsAndObstaclesTurnTheLeaf : Prop :=
  ∀ (d : DoorId) (x : Door) (s : State), x = doorOf d s.doors.door →
    (∀ (present : Bool) (y : Door), y = { x with inputs := { x.inputs with openLimit := present } } →
      ∃ t e, exec (.doorOpenLimitInput d present) s = .next t ∧ DoorActed none d e s t ∧
        (x.state = .opening → present = true → (doorCtx s).released x.lineSide = true →
          e = { y with state := .opened, timer := none, openRequest := false, heldOpen := false }) ∧
        (x.state = .opening → present = true → (doorCtx s).released x.lineSide = false →
          e = { y with state := .warning, timer := some (0, s.store.params.doorWarningTime), openRequest := false
                       heldOpen := false }) ∧
        (x.state = .obstructed → present = true → e = { y with heldOpen := false }) ∧
        (present = false ∨ x.state ∉ [DoorState.opening, .obstructed] → e = y)) ∧
    (∀ (present : Bool) (y : Door), y = { x with inputs := { x.inputs with obstacle := present } } →
      ∃ t e, exec (.doorObstacleInput d present) s = .next t ∧ DoorActed none d e s t ∧
        (x.state = .closing → present = true → x.limitRead ≤ x.obstacles + 1 ∨ openPermission s = false →
          e = { y with state := .obstructed, timer := none, obstacles := x.obstacles + 1
                       heldOpen := openPermission s && !x.inputs.openLimit } ∧ raisedAll .doorFault t) ∧
        (x.state = .closing → present = true → x.obstacles + 1 < x.limitRead → openPermission s = true →
          OpeningEntered s.store.params.doorMoveTime s.store.params.doorWarningTime
            ((doorCtx s).released x.lineSide) { y with obstacles := x.obstacles + 1 } e) ∧
        (present = false ∨ x.state ≠ .closing → e = y))

/-- A passenger button: a press in UNLOCKING is an open request, a press in RELEASED opens the door where the open
permission holds, and in any other state, or let go, it is recorded (R134, R135). An isolation switch: on, it takes the
door to ISOLATED from any state, with its timer stopped and its count, request, LOCK_LOST and cause cleared; off, it
takes an ISOLATED door to CLOSED_LOCKED where both the closed and the locked input are present, and else to FAULT with
the cause AT_DEISOLATION (R141). That a press acts whatever level was recorded before is notes/assumptions/14.md. -/
def Obligations.ButtonsAndSwitchesActOnTheDoor : Prop :=
  (∀ (d : DoorId) (pressed : Bool) (x y : Door) (s : State), x = doorOf d s.doors.door →
     y = { x with inputs := { x.inputs with button := pressed } } →
     ∃ t e, exec (.passengerButton d pressed) s = .next t ∧ DoorActed none d e s t ∧
       (pressed = true → x.state = .unlocking → e = { y with openRequest := true }) ∧
       (pressed = true → x.state = .released → openPermission s = true →
         OpeningEntered s.store.params.doorMoveTime s.store.params.doorWarningTime
           ((doorCtx s).released x.lineSide) y e) ∧
       (pressed = true → x.state = .released → openPermission s = false → e = y) ∧
       (pressed = false ∨ x.state ∉ [DoorState.unlocking, .released] → e = y)) ∧
  (∀ (d : DoorId) (on : Bool) (x y : Door) (s : State), x = doorOf d s.doors.door →
     y = { x with inputs := { x.inputs with isolation := on } } →
     ∃ t e, exec (.isolationSwitch d on) s = .next t ∧ DoorActed none d e s t ∧
       (on = true → e = { y with state := .isolated, timer := none, obstacles := 0, openRequest := false
                                 lockLost := false, cause := none, heldOpen := false }) ∧
       (on = false → x.state = .isolated → x.inputs.closed = true → x.inputs.locked = true →
         e = { y with state := .closedLocked, timer := none, obstacles := 0, openRequest := false
                      lockLost := false, heldOpen := false }) ∧
       (on = false → x.state = .isolated → x.inputs.closed = false ∨ x.inputs.locked = false →
         e = { y with state := .fault, timer := none, cause := some .atDeisolation, heldOpen := false } ∧
         raisedAll .doorFault t) ∧
       (on = false → x.state ≠ .isolated → e = y))

/-- A handle pulled or put back is recorded with the ALARM event, the alarm is evaluated, and the ALARM row follows:
CLEAR with every handle back but for an override, CONFIRMED kept while one is pulled, and else ACTIVE, or DEFERRED on
a NO_STOP segment (R103, R104, R107). That an input found as it is recorded is no change is notes/assumptions/14.md. -/
def Obligations.HandlesFormTheAlarm : Prop :=
  ∀ (h : HandleId) (pulled : Bool) (s : State), ∃ t, exec (.handleChange h pulled) s = .next t ∧
    (handleOf h s.dem.handles = pulled → t = s) ∧
    (handleOf h s.dem.handles ≠ pulled → raisedAll .alarm t ∧
      t.dem.handles = putHandle h pulled s.dem.handles ∧
      (s.dem.alarm = .overridden → t.dem.alarm = .overridden) ∧
      (s.dem.alarm ≠ .overridden → alarmPulled t.dem.handles = false → t.dem.alarm = .clear) ∧
      (s.dem.alarm = .confirmed → alarmPulled t.dem.handles = true → t.dem.alarm = .confirmed) ∧
      (s.dem.alarm ∉ [AlarmState.overridden, .confirmed] → alarmPulled t.dem.handles = true →
        t.dem.alarm = if noStopOverlap s then .deferred else .active) ∧
      RowsFollow { s.dem.rows with alarm := alarmRow t.dem.alarm s.odo.standstill }
        { s with dem := { s.dem with alarm := t.dem.alarm, handles := t.dem.handles } } t ∧
      Keeps (.mode :: restBlocks) s t ∧ PortsKeep (.alarm :: rowEvents) none s t)

/-! ### Restrictions, permits, stops, the inbox and the counters -/

/-- RESTRICTION ADD from the holder: fields out of range are BAD_ARGUMENT; else a set with the key (CAB, 0, id) is
applied by the five cases, answered OK or FULL (R58, R62). RESTRICTION LIFT from the holder: an id of 0 is
BAD_ARGUMENT; else a lift of that key, answered OK (R59, R63). -/
def Obligations.CabRestrictionsAreSetAndLifted : Prop :=
  ∀ (p : Port) (id start stop limit : Nat) (s : State), Ready p s → isHolder p s = true → TablesFollow s →
    id < 256 → start < 16777216 → stop < 16777216 → limit < 65536 →
    (∃ t full, exec (.restrictionAdd p (natField 1 id ++ natField 3 start ++ natField 3 stop ++ natField 2 limit)) s =
        .next t ∧
      (¬(1 ≤ id ∧ start ≤ 199999 ∧ start < stop ∧ stop ≤ 200000 ∧ limit ≤ 1200) →
        Answered p 0x40 (plainReply .badArgument) allButPorts [] s t) ∧
      (1 ≤ id ∧ start ≤ 199999 ∧ start < stop ∧ stop ≤ 200000 ∧ limit ≤ 1200 →
        Answered p 0x40 (plainReply (if full then .full else .ok))
          [.mode, .odo, .store, .sup, .dem, .drive, .doors, .radio, .memory, .pending] [.restrictions] s t ∧
        RestrictionSet ⟨.cab, 0, id⟩ start stop limit full s t)) ∧
    (∃ t, exec (.restrictionLift p (natField 1 id)) s = .next t ∧
      (id = 0 → Answered p 0x41 (plainReply .badArgument) allButPorts [] s t) ∧
      (1 ≤ id →
        Answered p 0x41 (okReply [])
          [.mode, .odo, .store, .sup, .dem, .drive, .doors, .radio, .memory, .pending] [.restrictions] s t ∧
        RestrictionLifted ⟨.cab, 0, id⟩ s t))

/-- PERMIT ENTER from the holder, by its table: BAD_ARGUMENT, WRONG_MODE, NOT_STANDSTILL, NO_DIRECTION,
RADIO_PERMIT_PRESENT while a RADIO permit is present and the coverage is not LOST; else the permit becomes the CAB
permit with the end carried in the selected direction, with the PERMIT event (R69). PERMIT CLEAR from the holder:
NOT_STANDSTILL while the car moves; else OK, with the permit absent and the PERMIT event where one was present (R70).
RADIO STOP OVERRIDE from the holder: NOT_STANDSTILL, then COVERAGE_NOT_LOST; else every stop entry and the RADIO row
become NONE, with the RESTRICTIONS event where an entry changed (R72, R73). -/
def Obligations.CabPermitsAndStopsAreCleared : Prop :=
  (∀ (p : Port) (stop : Nat) (s : State), Ready p s → isHolder p s = true → stop < 16777216 →
     ∃ t, exec (.permitEnter p (natField 3 stop)) s = .next t ∧
       (200000 < stop → Answered p 0x42 (plainReply .badArgument) allButPorts [] s t) ∧
       (stop ≤ 200000 → s.mode.mode ≠ .line → Answered p 0x42 (plainReply .wrongMode) allButPorts [] s t) ∧
       (stop ≤ 200000 → s.mode.mode = .line →
         (s.odo.standstill = false → Answered p 0x42 (plainReply .notStandstill) allButPorts [] s t) ∧
         (s.odo.standstill = true → s.mode.direction = .none →
           Answered p 0x42 (conditionReply .noDirection) allButPorts [] s t) ∧
         (s.odo.standstill = true → s.mode.direction ≠ .none →
           (∃ q, s.limits.permit = some q ∧ q.origin = .radio) → s.radio.coverage ≠ .lost →
           Answered p 0x42 (conditionReply .radioPermitPresent) allButPorts [] s t) ∧
         (s.odo.standstill = true → s.mode.direction ≠ .none →
           (∀ q, s.limits.permit = some q → q.origin = .radio → s.radio.coverage = .lost) →
           Answered p 0x42 (okReply []) [.mode, .odo, .store, .sup, .dem, .drive, .doors, .radio, .memory, .pending]
             [.permit] s t ∧
           t.limits = { s.limits with permit := some ⟨.cab, 0, 0, stop, s.mode.direction⟩ } ∧
           raisedAll .permit t))) ∧
  (∀ (p : Port) (s : State), Ready p s → isHolder p s = true → ∃ t, exec (.permitClear p []) s = .next t ∧
     (s.odo.standstill = false → Answered p 0x43 (plainReply .notStandstill) allButPorts [] s t) ∧
     (s.odo.standstill = true → s.limits.permit = none → Answered p 0x43 (okReply []) allButPorts [] s t) ∧
     (s.odo.standstill = true → s.limits.permit ≠ none →
       Answered p 0x43 (okReply []) [.mode, .odo, .store, .sup, .dem, .drive, .doors, .radio, .memory, .pending]
         [.permit] s t ∧
       t.limits = { s.limits with permit := none } ∧ raisedAll .permit t)) ∧
  (∀ (p : Port) (s : State), Ready p s → isHolder p s = true → ∃ t, exec (.radioStopOverride p []) s = .next t ∧
     (s.odo.standstill = false → Answered p 0x44 (plainReply .notStandstill) allButPorts [] s t) ∧
     (s.odo.standstill = true → s.radio.coverage ≠ .lost →
       Answered p 0x44 (conditionReply .coverageNotLost) allButPorts [] s t) ∧
     (s.odo.standstill = true → s.radio.coverage = .lost →
       Answered p 0x44 (okReply []) [.mode, .odo, .store, .sup, .doors, .radio, .memory, .pending]
         (.restrictions :: rowEvents) s t ∧
       t.limits = { s.limits with stops := List.replicate s.limits.stops.length .none } ∧
       (t.limits.stops ≠ s.limits.stops → raisedAll .restrictions t) ∧
       RowsFollow { (completeTelegram p s).dem.rows with radio := .none } (completeTelegram p s) t))

/-- INBOX TAKE from any port is NOT_FOUND with no message stored; else it returns and removes the oldest URGENT
message, or the oldest of all where none is URGENT, and the free count follows (R163). COUNTER DECREMENT from any
port lowers a counter by the amount carried, to 0 at the least, and returns the new value; a counter that does not
exist is BAD_ARGUMENT (R154). -/
def Obligations.InboxIsTakenAndCountersLowered : Prop :=
  ∀ (p : Port) (s : State), Ready p s →
    (∃ t, exec (.inboxTake p []) s = .next t ∧
      (s.radio.inbox = [] → Answered p 0x50 (plainReply .notFound) allButPorts [] s t) ∧
      (∀ m, (s.radio.inbox.filter (·.priority = .urgent) ++ s.radio.inbox).head? = some m →
        Answered p 0x50 (okReply (messageEntry m)) (.mode :: .dem :: .drive ::
          [.odo, .store, .limits, .sup, .doors, .memory, .pending]) [] s t ∧
        t.radio = { s.radio with
          inbox := s.radio.inbox.erase m, freeCount := 8 - (s.radio.inbox.erase m).length })) ∧
    (∀ amount, amount < 65536 →
      (∀ n, 12 ≤ n → n < 256 → ∃ t, exec (.counterDecrement p (natField 1 n ++ natField 2 amount)) s = .next t ∧
        Answered p 0x51 (plainReply .badArgument) allButPorts [] s t) ∧
      (∀ k, ∃ t, exec (.counterDecrement p (natField 1 (counterNumber k) ++ natField 2 amount)) s = .next t ∧
        Answered p 0x51 (okReply (natField 2 (s.radio.counters.get k - amount)))
          (.mode :: .dem :: .drive :: [.odo, .store, .limits, .sup, .doors, .memory, .pending]) [] s t ∧
        t.radio = { s.radio with counters := t.radio.counters } ∧
        ∀ j, t.radio.counters.get j =
          if j = k then s.radio.counters.get k - amount else s.radio.counters.get j))

/-! ### Edits of the store, and commits -/

/-- PROFILE WRITE from the holder, by its table: NOT_FOUND for an index of no segment; BAD_ARGUMENT for fields that
fail a record check; then WRONG_MODE, NOT_STANDSTILL, BUSY; else the segment's fields are replaced whole, its start
and length kept, with the differs flag and the PROFILE event (R43, R47). PARAMETER WRITE from the holder, by its table:
BAD_ARGUMENT for an identifier or an index that is none, or for a record that with the one field replaced would break a
range or a constraint; then WRONG_MODE, NOT_STANDSTILL, BUSY; else the field is replaced, with the differs flag and the
PROFILE event, and a write of the tachometer geometry puts the position remainder to 0 (R38, R49, R50). -/
def Obligations.EditsReplaceOneRecord : Prop :=
  (∀ (p : Port) (i : Nat) (g : Segment) (s : State), Ready p s → isHolder p s = true → i < 65536 → SegmentFits g →
     ∃ t, exec (.profileWrite p (natField 2 i ++ (segmentBytes g).drop 5)) s = .next t ∧
       (s.store.segments[i]? = none → Answered p 0x60 (plainReply .notFound) allButPorts [] s t) ∧
       (∀ old, s.store.segments[i]? = some old → g.start = old.start → g.length = old.length →
         (¬SegmentGood g → Answered p 0x60 (plainReply .badArgument) allButPorts [] s t) ∧
         (SegmentGood g → EditJudged p 0x60 { s.store with segments := s.store.segments.set i g, differs := true }
           s.odo s t))) ∧
  (∀ (p : Port) (id index a b c d : Byte) (s : State), Ready p s → isHolder p s = true →
     ∃ t, exec (.parameterWrite p [id, index, a, b, c, d]) s = .next t ∧
       (withField id.toNat index.toNat [a, b, c, d] s.store.params = none →
         Answered p 0x61 (plainReply .badArgument) allButPorts [] s t) ∧
       (∀ q, withField id.toNat index.toNat [a, b, c, d] s.store.params = some q →
         (q.valid = false → Answered p 0x61 (plainReply .badArgument) allButPorts [] s t) ∧
         (q.valid = true → EditJudged p 0x61 { s.store with params := q, differs := true }
           (if id.toNat ≤ 2 then { s.odo with remainder := 0 } else s.odo) s t)))

/-- PROFILE COMMIT from the holder, by its table: WRONG_MODE, NOT_STANDSTILL, BUSY, NO_LINE_ID; else ACCEPTED, with
the commit WRITING its first page's write enable, no page written yet, and the pages in all those of the header
twice, the parameter block and the segment block (R51, R52). The commit's own arrivals: the end of the write enable
starts the page program and its timer, the end of the program the polling; a busy answer changes nothing; a not-busy
answer stores the page and begins the next, or after the last page ends the commit COMMITTED with the revision raised
and the differs flag clear; the page timer, once it has reached its 25 ms, ends it COMMIT_FAILED with the page's number
(R52, R53). That it does so too where the program is still being sent is the model's choice (notes/assumptions/24.md).
That what nothing waits for changes nothing is notes/assumptions/18.md, and of a timer overtaken
notes/assumptions/4.md; the bytes stored or no longer known are notes/assumptions/19.md. -/
def Obligations.CommitsWritePageByPage : Prop :=
  (∀ (p : Port) (s : State), Ready p s → isHolder p s = true → ∃ t, exec (.profileCommit p []) s = .next t ∧
     (s.mode.mode ≠ .shunt → Answered p 0x62 (plainReply .wrongMode) allButPorts [] s t) ∧
     (s.mode.mode = .shunt →
       (s.odo.standstill = false → Answered p 0x62 (plainReply .notStandstill) allButPorts [] s t) ∧
       (s.odo.standstill = true → s.store.commit ≠ .idle → Answered p 0x62 (plainReply .busy) allButPorts [] s t) ∧
       (s.odo.standstill = true → s.store.commit = .idle → s.store.lineId = 0 →
         Answered p 0x62 (conditionReply .noLineId) allButPorts [] s t) ∧
       (s.odo.standstill = true → s.store.commit = .idle → s.store.lineId ≠ 0 →
         Answered p 0x62 (plainReply .accepted)
           [.mode, .odo, .limits, .sup, .dem, .drive, .doors, .radio, .memory, .pending] [] s t ∧
         t.store = { s.store with commit := .writing 1 .writeEnable, pagesWritten := 0, pagesAll := t.store.pagesAll } ∧
         32 * (t.store.pagesAll - 6) ≥ 3 + 19 * s.store.segments.length ∧
         32 * (t.store.pagesAll - 7) < 3 + 19 * s.store.segments.length))) ∧
  (∀ s : State,
     (∃ t, exec .commitTransferEnd s = .next t ∧ Keeps (.memory :: .ports :: storeless) s t ∧
       t.store = { s.store with commit :=
         match s.store.commit with
         | .writing page .writeEnable => .writing page (.program 0)
         | .writing page (.program n) => .writing page (.poll n)
         | c => c }) ∧
     (∀ status : Byte, ∃ t, exec (.commitStatusAnswer status) s = .next t ∧
       Keeps storeless s t ∧ PortsKeep [.profile] none s t ∧
       (∀ page n, s.store.commit = .writing page (.poll n) → status.getLsbD 0 = false →
         t.memory = putBytes (pageAddress s.store page) (pageBytes s.store page) s.memory ∧
         (page < s.store.pagesAll → t.store = { s.store with
           commit := .writing (page + 1) .writeEnable, pagesWritten := s.store.pagesWritten + 1 }) ∧
         (s.store.pagesAll ≤ page → raisedAll .profile t ∧ t.store = { s.store with
           commit := .idle, pagesWritten := s.store.pagesWritten + 1, lastCommit := .committed
           revision := (s.store.revision + 1) % 65536, differs := false })) ∧
       (status.getLsbD 0 = true ∨ (∀ page n, s.store.commit ≠ .writing page (.poll n)) → t = s)) ∧
     (∃ t, exec .pageTimerExpiry s = .next t ∧ Keeps storeless s t ∧ PortsKeep [.profile] none s t ∧
       (∀ page n, s.store.commit = .writing page (.program n) ∨ s.store.commit = .writing page (.poll n) → 25 ≤ n →
         t.store = { s.store with commit := .idle, lastCommit := .failed page } ∧ raisedAll .profile t ∧
         t.memory = forgetPage (pageAddress s.store page) s.memory) ∧
       ((∀ page n, s.store.commit = .writing page (.program n) ∨ s.store.commit = .writing page (.poll n) → n < 25) →
         t = s)))

/-! ### What else the lines bring -/

/-- What a port's line brings besides whole requests (R172, R173): a bad CRC, a framing error and a gap of 2 ms within a
telegram discard it, count the error up to 65,535 and await a start byte; the end of an answer frees the port; a byte
that is no start byte is ignored between telegrams, a length byte outside 1 to 250 is a framing error, and the last
byte of a telegram whose CRC is wrong is a CRC error. That the first two count wherever the reception stands is
notes/assumptions/5.md; that a gap overtaken by a byte changes nothing is notes/assumptions/4.md. -/
def Obligations.LineErrorsAreCounted : Prop :=
  ∀ (p : Port) (r : PortRec) (s : State), r = portOf p s →
    (∃ t, exec (.telegramCrcError p) s = .next t ∧
      PortActed p { r with rx := .awaiting, crcErrors := raisedByOne r.crcErrors } s t) ∧
    (∃ t, exec (.framingError p) s = .next t ∧
      PortActed p { r with rx := .awaiting, framingErrors := raisedByOne r.framingErrors } s t) ∧
    (∃ t, exec (.gapTimeExpiry p) s = .next t ∧
      ((∀ bytes n, r.rx = .receiving bytes n → n < 2) → PortActed p r s t) ∧
      (∀ bytes n, r.rx = .receiving bytes n → 2 ≤ n →
        PortActed p { r with rx := .awaiting, framingErrors := raisedByOne r.framingErrors } s t)) ∧
    (∃ t, exec (.answerSent p) s = .next t ∧ PortActed p { r with held := none } s t) ∧
    (∀ b, ∃ t, exec (.telegramByteArrival p b) s = .next t ∧
      (r.rx = .awaiting → PortActed p (if b = 0xC5 then { r with rx := .receiving [] 0 } else r) s t) ∧
      (∀ g, r.rx = .receiving [] g →
        PortActed p (if 1 ≤ b.toNat ∧ b.toNat ≤ 250 then { r with rx := .receiving [b] 0 }
          else { r with rx := .awaiting, framingErrors := raisedByOne r.framingErrors }) s t) ∧
      (∀ n rest g, r.rx = .receiving (n :: rest) g → rest.length + 2 < n.toNat + 3 →
        PortActed p { r with rx := .receiving (n :: rest ++ [b]) 0 } s t) ∧
      (∀ n rest g, r.rx = .receiving (n :: rest) g → rest.length + 2 = n.toNat + 3 →
        (rest ++ [b]).drop n.toNat ≠ crcField (n :: rest.take n.toNat) →
        PortActed p { r with rx := .awaiting, crcErrors := raisedByOne r.crcErrors } s t))

/-- A link that has been silent for its time is LOST, its timer stopped, with the LINK event; the LINK row is FULL
while the holder's link is LOST, HOLD at standstill, and else NONE (R13, R14). A link that is not UP, or whose timer a
request has started again, is left (R13, notes/assumptions/4.md). -/
def Obligations.LinkSilenceLosesTheLink : Prop :=
  ∀ (l : LinkPort) (s : State), ∃ t, exec (.linkSilenceExpiry l) s = .next t ∧
    ((linkOf l s.mode).state ≠ .up ∨ (∀ n, (linkOf l s.mode).timer = some n → n < 500) → t = s) ∧
    (∀ n, (linkOf l s.mode).state = .up → (linkOf l s.mode).timer = some n → 500 ≤ n →
      linkOf l t.mode = ⟨.lost, none⟩ ∧ (∀ x, x ≠ l → linkOf x t.mode = linkOf x s.mode) ∧
      t.mode = { s.mode with linkA := t.mode.linkA, linkB := t.mode.linkB } ∧ raisedAll .link t ∧
      RowsFollow { s.dem.rows with link :=
        (if holderLinkLost t.mode then (if s.odo.standstill then .hold else .full) else .none) } s t ∧
      Keeps restBlocks s t ∧ PortsKeep (.link :: rowEvents) none s t)

/-! ### Motion -/

/-- A pulse is counted up-line for a forward pulse of a car that is not REVERSED, and for a backward pulse of one that
is (R18). While standstill does not hold nothing else changes. While it holds it ends at the pulse (R23): the notice
STANDSTILL_END, a running brake test ABORTED by it (R125), the DOORS row of the doors as they stand, which sets the
latch where it becomes EMERGENCY (R146, R148), the latch where it becomes EMERGENCY (R146, R148), the doors as for a DOOR CLOSE of both sides, and the rows that follow
standstill, with the brakes that follow them (R112). That the test ends before a row, and so by STANDSTILL_LOST, and the
order of the rows are the model's choice (notes/assumptions/9.md). -/
def Obligations.PulsesAreCountedAndEndStandstill : Prop :=
  ∀ (tacho : Tacho) (forward : Bool) (o : Odometry) (s : State),
    o = pulseCounted tacho (if forward = true ↔ orientationOf s.mode = .normal then 1 else -1) s.odo →
    ∃ t, exec (.tachometerPulse tacho forward) s = .next t ∧
      (s.odo.standstill = false → t = { s with odo := o }) ∧
      (s.odo.standstill = true →
        t.odo = { o with standstill := false, notice := .standstillEnd } ∧ StandstillRows false s t ∧
        (s.drive.source = .test → t.drive.testRecord = .aborted .standstillLost ∧ t.drive.testStep = none ∧
          t.drive.source ≠ .test ∧ raisedAll .brakeTest t) ∧
        t.doors.leftReleased = false ∧ t.doors.rightReleased = false ∧
        (∀ d, ((doorOf d s.doors.door).state ≠ .obstructed →
            DoorClosed s.store.params.doorWarningTime (doorOf d s.doors.door) (doorOf d t.doors.door)) ∧
          ((doorOf d s.doors.door).state = .obstructed →
            doorOf d t.doors.door = { doorOf d s.doors.door with openRequest := false, heldOpen := false })) ∧
        Keeps [.mode, .store, .limits, .sup, .radio, .memory, .pending] s t ∧
        PortsKeep standstillEvents none s t)

/-- The quiet time reaching its length begins standstill: the counter of reverse distance, its carry, ROLLBACK and the
motion direction are cleared, with the notice STANDSTILL_BEGIN, the rows that follow standstill (R23, R30, R32) and the
brakes that follow the rows and, in HOLD, standstill itself (R112). The pinion fault time reaching its length sets
PINION_FAULT, with its notice and the ODOMETRY row at EMERGENCY (R31, R32). That the two commands act whenever their
time runs, and that where it does not neither changes anything, are notes/assumptions/4.md and 10.md; the order of the
rows is notes/assumptions/9.md. -/
def Obligations.StandstillBeginsAndThePinionFails : Prop :=
  ∀ s : State,
    (∃ t, exec .standstillBegin s = .next t ∧
      (s.odo.quietRunning = false ∨ s.odo.standstill = true → t = s) ∧
      (s.odo.quietRunning = true → s.odo.standstill = false →
        t.odo = { s.odo with
          standstill := true, quietTime := 0, quietRunning := false, reverse := 0, reverseCarry := 0
          rollback := false, motion := .none, notice := .standstillBegin } ∧
        StandstillRows true s t ∧ t.doors = { s.doors with loopClosed := t.doors.loopClosed } ∧
        Keeps [.mode, .store, .limits, .sup, .radio, .memory, .pending] s t ∧
        PortsKeep standstillEvents none s t)) ∧
    (∃ t, exec .pinionFault s = .next t ∧
      (s.odo.pinionFaultTime = 0 ∨ s.odo.pinionFault = true → t = s) ∧
      (0 < s.odo.pinionFaultTime → s.odo.pinionFault = false →
        t.odo = { s.odo with pinionFaultTime := 2000, pinionFault := true, notice := .pinionFault } ∧
        RowsFollow { s.dem.rows with odometry := .emergency } s t ∧ raisedAll .position t ∧
        Keeps [.mode, .store, .limits, .sup, .doors, .radio, .memory, .pending] s t ∧
        PortsKeep (.position :: rowEvents) none s t))

/-- A sampling expiry turns each count into an interval distance that enters its window (R19), moves the position by
what of the source's count is not yet applied (R20, R24, R25), forms the speeds and the motion direction (R22), and
selects the source for the next interval from the segment at the car position, a change of it dropping the remainder
(R21); it adds the two distances up while the pinion is the source and compares them over each 10,000 mm of pinion
travel (R33); it clears the counts and starts the sampling timer again. What an end of the line makes of the position,
and which notice stands where two causes of LOST meet, is notes/assumptions/11.md; the order of the stages is
notes/assumptions/10.md. -/
def Obligations.SamplingFormsSpeedAndPosition : Prop :=
  ∀ s : State, ∃ t h, exec .samplingExpiry s = .next t ∧
    PositionMoved (s.odo.countOf s.odo.source - s.odo.applied) s h ∧
    t.odo.position = h.odo.position ∧ t.odo.posState = h.odo.posState ∧ t.odo.accumulator = h.odo.accumulator ∧
    t.odo.uncertainty = h.odo.uncertainty ∧ t.odo.sinceCorrection = h.odo.sinceCorrection ∧
    t.odo.pinionWindow = ⟨s.odo.pinionWindow.d2, s.odo.pinionWindow.d3, s.odo.pinionWindow.d4,
      (s.odo.pinionCount * s.store.params.toothPitch).tdiv 4⟩ ∧
    t.odo.axleWindow = ⟨s.odo.axleWindow.d2, s.odo.axleWindow.d3, s.odo.axleWindow.d4,
      (s.odo.axleCount * s.store.params.wheelCircumference).tdiv s.store.params.axlePulses⟩ ∧
    t.odo.axleSpeed = min 1200 ((t.odo.axleWindow.toList.map Int.natAbs).sum / 2) ∧
    t.odo.speed = min 1200 (((t.odo.windowOf s.odo.source).toList.map Int.natAbs).sum / 2) ∧
    (quietEnds s t = false → t.odo.motion = if 0 < s.odo.countOf s.odo.source then .upLine
      else if s.odo.countOf s.odo.source < 0 then .downLine else s.odo.motion) ∧
    (t.odo.source = .pinion ↔ s.odo.pinionFault = false ∧ t.odo.posState ≠ .unknown ∧
      ∃ g, segmentAt s.store.segments t.odo.position = some g ∧ g.kind = .rack) ∧
    t.odo.remainder = (if t.odo.source = s.odo.source then h.odo.remainder else 0) ∧
    (t.odo.source ≠ s.odo.source → t.odo.crossPinion = 0 ∧ t.odo.crossAxle = 0) ∧
    (t.odo.source = s.odo.source → s.odo.source = .axle →
      t.odo.crossPinion = s.odo.crossPinion ∧ t.odo.crossAxle = s.odo.crossAxle) ∧
    (∀ x y, x = s.odo.crossPinion + t.odo.pinionWindow.d4.natAbs → y = s.odo.crossAxle + t.odo.axleWindow.d4.natAbs →
      s.odo.source = .pinion →
      (x < 10000 → t.odo.source = .pinion → t.odo.crossPinion = x ∧ t.odo.crossAxle = y) ∧
      (10000 ≤ x → t.odo.crossPinion = 0 ∧ t.odo.crossAxle = 0) ∧
      (10000 ≤ x → x < 10 * ((x : Int) - y).natAbs → raisedAll .position t ∧
        t.odo.notice ∈ [Notice.tachoDisagree, .rollback, .pinionFault, .markMissed, .standstillBegin])) ∧
    t.odo.pinionCount = 0 ∧ t.odo.axleCount = 0 ∧ t.odo.pinionSeen = false ∧ t.odo.axleSeen = false ∧
    t.odo.applied = 0 ∧ t.odo.samplingTimer = 0 ∧
    Keeps [.mode, .store, .sup, .memory, .pending] s t ∧
    PortsKeep (.radio :: .restrictions :: standstillEvents) none s t

/-- What a sampling expiry judges from the speeds and the position it has formed: the quiet time and standstill (R23),
the awaited mark, chosen, kept or missed (R27), the reverse distance and ROLLBACK (R30), the pinion fault (R31); and
what the other blocks then do: the LIFTING restrictions that the envelope has left are removed (R60), the current zone
is formed, with the silence timer and the coverage of a change (R155 to R157), the alarm is evaluated (R103), and the
brakes follow the ODOMETRY row, then, where standstill begins, the rows that follow it, and else the ALARM row (R96,
R112). The order of these within the expiry is the model's choice
where the rules give none (notes/assumptions/9.md and 10.md). -/
def Obligations.SamplingJudgesTheMotion : Prop :=
  ∀ s : State, ∃ t, exec .samplingExpiry s = .next t ∧
    (¬(t.odo.speed = 0 ∧ t.odo.axleSpeed = 0 ∧ s.odo.pinionSeen = false ∧ s.odo.axleSeen = false) →
      t.odo.quietTime = 0 ∧ t.odo.quietRunning = false ∧ t.odo.standstill = s.odo.standstill) ∧
    (t.odo.speed = 0 → t.odo.axleSpeed = 0 → s.odo.pinionSeen = false → s.odo.axleSeen = false →
      (s.odo.quietRunning = false → s.odo.standstill = false →
        t.odo.quietTime = 0 ∧ t.odo.quietRunning = true ∧ t.odo.standstill = false) ∧
      (s.odo.quietRunning = false → s.odo.standstill = true →
        t.odo.quietTime = s.odo.quietTime ∧ t.odo.quietRunning = false ∧ t.odo.standstill = true) ∧
      (s.odo.quietRunning = true → s.odo.quietTime + 50 < 1000 →
        t.odo.quietTime = s.odo.quietTime + 50 ∧ t.odo.quietRunning = true ∧ t.odo.standstill = s.odo.standstill) ∧
      (quietEnds s t = true →
        t.odo.standstill = true ∧ t.odo.quietTime = 0 ∧ t.odo.quietRunning = false ∧ t.odo.reverse = 0 ∧
        t.odo.reverseCarry = 0 ∧ t.odo.rollback = false ∧ t.odo.motion = .none ∧ t.odo.notice = .standstillBegin ∧
        raisedAll .position t)) ∧
    (∀ d : Int, d = (t.odo.windowOf s.odo.source).d4 → quietEnds s t = false →
      (s.mode.direction = .none ∨ (s.mode.direction = .upLine ∧ d < 0) ∨ (s.mode.direction = .downLine ∧ 0 < d) →
        t.odo.reverse = min 65535 (s.odo.reverse + (s.odo.reverseCarry + d.natAbs) / 100) ∧
        t.odo.reverseCarry = (s.odo.reverseCarry + d.natAbs) % 100 ∧
        t.odo.rollback = (s.odo.rollback || decide (5 < t.odo.reverse))) ∧
      ((s.mode.direction = .upLine ∧ 0 ≤ d) ∨ (s.mode.direction = .downLine ∧ d ≤ 0) →
        t.odo.reverse = s.odo.reverse ∧ t.odo.reverseCarry = s.odo.reverseCarry ∧
        t.odo.rollback = s.odo.rollback)) ∧
    (t.odo.posState = .unknown ∨ s.mode.direction = .none → t.odo.awaited = none) ∧
    (∀ (marks : List Nat) (ahead : Nat → Int), marks = marksOf s.store.segments →
      ahead = (fun m : Nat => if s.mode.direction = .downLine then (t.odo.position : Int) - m
        else (m : Int) - t.odo.position) →
      t.odo.posState ≠ .unknown → s.mode.direction ≠ .none →
      ((∀ m, s.odo.awaited = some m → m ∉ marks) →
        (∀ m, t.odo.awaited = some m → m ∈ marks ∧ 0 < ahead m ∧ ∀ n ∈ marks, 0 < ahead n → ahead m ≤ ahead n) ∧
        (t.odo.awaited = none → ∀ n ∈ marks, ahead n ≤ 0)) ∧
      (∀ m, s.odo.awaited = some m → m ∈ marks →
        (-((t.odo.uncertainty : Int) + 10) ≤ ahead m → t.odo.awaited = some m) ∧
        (ahead m < -((t.odo.uncertainty : Int) + 10) → t.odo.awaited = none ∧ raisedAll .position t ∧
          t.odo.notice ∈ [Notice.markMissed, .standstillBegin]))) ∧
    (t.odo.rollback = true → s.odo.rollback = false → t.dem.rows.odometry = .emergency ∧ raisedAll .position t) ∧
    (s.odo.pinionFault = true → t.odo.pinionFault = true ∧ t.odo.pinionFaultTime = s.odo.pinionFaultTime) ∧
    (s.odo.pinionFault = false →
      t.odo.pinionFaultTime = (if t.odo.posState ≠ .unknown ∧ 50 < t.odo.axleSpeed ∧ s.odo.pinionSeen = false ∧
          (∃ g, segmentAt s.store.segments t.odo.position = some g ∧ g.kind = .rack) then
        min 2000 (s.odo.pinionFaultTime + 50) else 0) ∧
      t.odo.pinionFault = decide (t.odo.pinionFaultTime = 2000) ∧
      (t.odo.pinionFault = true → t.dem.rows.odometry = .emergency ∧ raisedAll .position t)) ∧
    t.limits = { s.limits with restrictions :=
      s.limits.restrictions.filter fun r => r.state = .active || entryOverlaps t r } ∧
    (t.limits.restrictions ≠ s.limits.restrictions → raisedAll .restrictions t) ∧
    ZoneFormed s t ∧
    t.dem.alarm = alarmNext s.dem.alarm (alarmPulled s.dem.handles) (noStopOverlap t)
      (quietEnds s t) ∧
    t.dem.handles = s.dem.handles ∧ t.doors.door = s.doors.door ∧
    (∀ (d : Int) (back : Bool), d = (t.odo.windowOf s.odo.source).d4 → DemandsFollow s →
      back = (s.odo.rollback || (countsReverse s.mode.direction d &&
        decide (5 < s.odo.reverse + (s.odo.reverseCarry + d.natAbs) / 100))) →
      ∃ x, RowsBring s.store.params s.odo.standstill
          { s.dem.rows with odometry := odometryRow back t.odo.pinionFault } (brakeSide s) x ∧
        (quietEnds s t = false → RowsBring s.store.params s.odo.standstill
          { x.rows with alarm := alarmRow t.dem.alarm s.odo.standstill } x (brakeSide t)) ∧
        (quietEnds s t = true → StandstillBrakes true (standstillWrites true t) s.store.params x t)) ∧
    DriveKeeps s.drive t.drive ∧
    (s.drive.springStuck = true → t.drive.springStuck = false → raisedAll .brakeState t)

/-- A track-mark detection: ignored while the position is UNKNOWN; else the source's pulses not yet applied move the
position first, and of the marks within u + 10 dm one nearer than any other corrects the position and forms the current
zone there, none is unexpected and the second such in a row while KNOWN loses the position, and two equally near are
ambiguous (R20, R24 to R26, R155 to R157); but for what a change of the zone brings, the radio stays. What an end of the
line makes of the pulses applied first is notes/assumptions/11.md. -/
def Obligations.MarksCorrectThePosition : Prop :=
  ∀ s : State, ∃ t, exec .trackMarkDetection s = .next t ∧ raisedAll .position t ∧
    Keeps [.mode, .store, .limits, .sup, .dem, .drive, .doors, .memory, .pending] s t ∧
    PortsKeep [.position, .radio] none s t ∧
    (s.odo.posState = .unknown → t.odo = { s.odo with notice := .markIgnored } ∧ t.radio = s.radio) ∧
    (s.odo.posState ≠ .unknown → ∃ h o marks, PositionMoved (s.odo.countOf s.odo.source - s.odo.applied) s h ∧
      o = { h.odo with applied := s.odo.countOf s.odo.source } ∧ marks = marksOf s.store.segments ∧
      (∀ m ∈ marks, gapBetween m o.position ≤ o.uncertainty + 10 →
        (∀ n ∈ marks.erase m, gapBetween m o.position < gapBetween n o.position) →
        t.odo = { o with
          position := m, remainder := 0, accumulator := 0, uncertainty := 20, posState := .known
          unexpectedMarks := 0, sinceCorrection := 0, awaited := none, notice := .markMatched } ∧ ZoneFormed s t) ∧
      ((∀ m ∈ marks, o.uncertainty + 10 < gapBetween m o.position) → t.radio = s.radio ∧
        t.odo = if o.posState = .known ∧ 1 ≤ o.unexpectedMarks then
            { o with unexpectedMarks := min 255 (o.unexpectedMarks + 1), posState := .lost, uncertainty := 600
                     notice := .lostByMarks }
          else { o with unexpectedMarks := min 255 (o.unexpectedMarks + 1), notice := .markUnexpected }) ∧
      (∀ m ∈ marks, gapBetween m o.position ≤ o.uncertainty + 10 →
        (∃ n ∈ marks.erase m, gapBetween n o.position = gapBetween m o.position) →
        (∀ n ∈ marks, gapBetween m o.position ≤ gapBetween n o.position) →
        t.odo = { o with notice := .markAmbiguous } ∧ t.radio = s.radio))

/-! ### Supervision -/

/-- A supervision cycle forms the permitted speed from the static limit and the curve speeds of the targets, 0 in LINE
with no permit (R88), decides the level from it (R89), and writes the SUPERVISION row, with the event of a change of
level (R90). -/
def Obligations.SupervisionDecidesTheLevel : Prop :=
  ∀ (v e : Nat) (s : State), v = s.odo.speed → e = max s.store.params.mEb (s.store.params.mSb + 10) →
    ∃ t, exec .supervisionCycle s = .next t ∧ t.sup.cycleTimer = 0 ∧
      (s.mode.mode = .line → s.limits.permit = none → t.sup.vPerm = 0 ∧ t.sup.governing = .noPermit) ∧
      (s.mode.mode ≠ .line ∨ s.limits.permit ≠ none →
        t.sup.vPerm ≤ t.sup.staticLimit ∧ (∀ x ∈ t.sup.targets, t.sup.vPerm ≤ x.vCurve) ∧
        ((t.sup.governing = .static ∧ t.sup.vPerm = t.sup.staticLimit) ∨
          ∃ i x, t.sup.governing = .target i ∧ t.sup.targets[i]? = some x ∧ t.sup.vPerm = x.vCurve ∧
            x.vCurve < t.sup.staticLimit ∧
            ∀ j y, j < i → t.sup.targets[j]? = some y → x.vCurve < y.vCurve)) ∧
      (s.sup.level = .emergency → t.sup.level = if s.odo.standstill then .normal else .emergency) ∧
      (s.sup.level ≠ .emergency →
        (t.sup.vPerm + e < v → t.sup.level = .emergency) ∧
        (v ≤ t.sup.vPerm + e → t.sup.vPerm + s.store.params.mSb < v → t.sup.level = .service) ∧
        (v ≤ t.sup.vPerm + s.store.params.mSb → t.sup.vPerm < v →
          t.sup.level = if s.sup.level = .service then .service else .warning) ∧
        (v ≤ t.sup.vPerm → t.sup.level = .normal)) ∧
      (t.sup.level ≠ s.sup.level → raisedAll .supervision t) ∧
      RowsFollow { s.dem.rows with supervision := match t.sup.level with
        | .normal => .none
        | .warning => .none
        | .service => .full
        | .emergency => .emergency } s t ∧
      Keeps [.mode, .odo, .store, .limits, .doors, .radio, .memory, .pending] s t ∧
      PortsKeep (.supervision :: rowEvents) none s t

/-- A supervision cycle forms the static limit and the target list. With the position UNKNOWN or the table empty the
limit is that of the mode and the list is empty (R82). Else the limit is the first of the lowest of the components that
apply over the envelope (R80), and the list holds the entries of the candidates within the window, the permit's end at 0
where it lies behind, and no others (R83), by ascending distance, those of one distance in the order of their kinds, of
the table and of the list (R84), each with its net deceleration, the lowest of the terms met, and its curve speed (R86,
R87). -/
def Obligations.StaticLimitAndTargetsAreFormed : Prop :=
  ∀ s : State, ∃ t, exec .supervisionCycle s = .next t ∧
    (s.odo.posState = .unknown ∨ s.store.segments = [] →
      t.sup.targets = [] ∧ t.sup.staticReason = .mode ∧ t.sup.staticLimit = modeLimitOf s) ∧
    ∀ (sp : Span) (front : Int) (p : Params) (dir : Direction), envelopeSpan s = some sp → s.store.segments ≠ [] →
      p = s.store.params → dir = s.mode.direction → front = (if dir = .downLine then sp.low else sp.high) →
      (∃ before after, staticComponents s sp = before ++ (t.sup.staticReason, t.sup.staticLimit) :: after ∧
        (∀ c ∈ before, t.sup.staticLimit < c.2) ∧ ∀ c ∈ after, t.sup.staticLimit ≤ c.2) ∧
      (∀ g ∈ s.store.segments, (g.start : Int) ≤ sp.high → sp.low < g.start + g.length →
        t.sup.staticLimit ≤ g.lineLimit ∧ t.sup.staticLimit ≤ segmentLimit p dir g) ∧
      (∀ r ∈ s.limits.restrictions, (r.start : Int) ≤ sp.high → sp.low < r.stop → t.sup.staticLimit ≤ r.limit) ∧
      (∀ y, sp.low ≤ y → y ≤ sp.high → segmentAt s.store.segments y = none → t.sup.staticLimit ≤ p.shuntLimit) ∧
      t.sup.staticLimit ≤ modeLimitOf s ∧
      (s.mode.mode = .line → s.radio.coverage = .lost → t.sup.staticLimit ≤ p.radioLossLimit) ∧
      (s.odo.posState = .lost → t.sup.staticLimit ≤ p.creepLimit) ∧
      (∀ q, s.limits.permit = some q → q.origin = .cab → t.sup.staticLimit ≤ p.cabPermitLimit) ∧
      t.sup.targets.Pairwise (fun x y => x.distance ≤ y.distance) ∧
      (∀ n, n ≤ 6000 → (t.sup.targets.filter (·.distance = n)).map (fun x => (x.kind, x.point, x.speed)) =
        (candidatesOf s).filter (entersAt dir front n)) ∧
      (∀ x ∈ t.sup.targets, TargetGood front s x) ∧
      (∀ i g, s.store.segments[i]? = some g →
        TargetListed front (.segment i) (if dir = .downLine then g.start + g.length else g.start)
          (segmentLimit p dir g) s t) ∧
      (∀ first last, s.store.segments.head? = some first → s.store.segments.getLast? = some last →
        TargetListed front .tableEdge (if dir = .downLine then first.start else last.start + last.length)
          p.shuntLimit s t) ∧
      (∀ r ∈ s.limits.restrictions,
        TargetListed front (.restriction r.key r.state) (if dir = .downLine then r.stop else r.start) r.limit s t) ∧
      (∀ q, s.mode.mode = .line → s.limits.permit = some q → distanceAhead dir front q.endPos ≤ 6000 →
        ∃ x ∈ t.sup.targets, x.kind = .permitEnd ∧ x.point = q.endPos ∧ x.speed = 0 ∧
          (x.distance : Int) = max 0 (distanceAhead dir front q.endPos))

/-! ### What arrives at the brakes -/

/-- A period start makes the commanded duty the active one (R115). A pressure reading is held at 5,000 and kept (R111).
A service reading in the band ends a running service check MET (R116), and a release reading a running release or apply
check (R119, R120). While the brake test runs, a reading that meets its step's check begins the next step, and after
step 5 ends the test PASSED (R123, R127). A release reading forms the spring brake status, and above 2,500 kPa clears
SPRING_STUCK (R118, R119). The order of these three is the model's choice (notes/assumptions/12.md). The end of step 3
supposes the outputs as their source has them, the release valve energized (`BrakesFollow`, which every step keeps): it
de-energizes the valve. -/
def Obligations.PressureReadingsJudgeTheBrakes : Prop :=
  ∀ (kPa v : Nat) (s : State), v = min 5000 kPa →
    exec .periodStart s = .next { s with drive := { s.drive with activeDuty := s.drive.duty, periodTimer := 0 } } ∧
    (∃ t u, exec (.servicePressureReading kPa) s = .next t ∧
      u = { s with drive := { s.drive with serviceReading := some v } } ∧
      Keeps allButDrive s t ∧ PortsKeep [.brakeTest, .brakeState] none s t ∧ DriveKeeps u.drive t.drive ∧
      (s.drive.testStep = none → t.drive = { u.drive with serviceCheck :=
        if s.drive.serviceCheck.outcome = .running ∧ s.drive.serviceCheck.bandLow ≤ v ∧
          v ≤ s.drive.serviceCheck.bandHigh
        then { s.drive.serviceCheck with outcome := .met } else s.drive.serviceCheck }) ∧
      (∀ x, s.drive.testStep = some x →
        ((x.step = 1 ∨ x.step = 2) → (bandOf s.drive.target).1 ≤ v → v ≤ (bandOf s.drive.target).2 →
          StepBegun (x.step + 1) u t) ∧
        (x.step = 5 → v < 150 → TestEnded .passed u t) ∧
        (¬((x.step = 1 ∨ x.step = 2) ∧ (bandOf s.drive.target).1 ≤ v ∧ v ≤ (bandOf s.drive.target).2) →
          ¬(x.step = 5 ∧ v < 150) → t = u))) ∧
    (∃ t u, exec (.releasePressureReading kPa) s = .next t ∧
      u = { s with drive := { s.drive with releaseReading := some v } } ∧
      Keeps allButDrive s t ∧ PortsKeep [.brakeTest, .brakeState] none s t ∧
      t.drive.releaseReading = some v ∧ t.drive.serviceReading = s.drive.serviceReading ∧
      t.drive.serviceSlow = s.drive.serviceSlow ∧ t.drive.springFail = s.drive.springFail ∧
      t.drive.faultState = s.drive.faultState ∧ t.drive.activeDuty = s.drive.activeDuty ∧
      t.drive.periodTimer = s.drive.periodTimer ∧
      t.drive.springStatus = (if v < 800 then .applied else if 2500 < v then .released
        else match t.drive.valve with | .energized => .releasing | .deEnergized => .applying) ∧
      (t.drive.springStatus ≠ s.drive.springStatus → raisedAll .brakeState t) ∧
      (2500 < v → t.drive.springStuck = false) ∧
      (s.drive.springStuck = true → t.drive.springStuck = false → raisedAll .brakeState t) ∧
      (s.drive.testStep = none → t.drive = { u.drive with
        springStatus := t.drive.springStatus, springStuck := s.drive.springStuck && !decide (2500 < v)
        springCheck :=
          if (s.drive.springCheck.outcome = .releaseRunning ∧ 2500 < v) ∨
            (s.drive.springCheck.outcome = .applyRunning ∧ v < 800)
          then { s.drive.springCheck with outcome := .met } else s.drive.springCheck }) ∧
      (∀ x, s.drive.testStep = some x →
        (BrakesFollow s → x.step = 3 → 2500 < v → StepBegun 4 u t) ∧ (x.step = 4 → v < 800 → StepBegun 5 u t) ∧
        (¬(x.step = 3 ∧ 2500 < v) → ¬(x.step = 4 ∧ v < 800) → t.drive = { u.drive with
          springStatus := t.drive.springStatus, springStuck := s.drive.springStuck && !decide (2500 < v) })))

/-- The expiry of a running service check misses it and sets SERVICE_SLOW, with the fault state and the BRAKE-CHECK row
at EMERGENCY (R116, R117); that of a release check sets SPRING_STUCK (R119); that of an apply check sets SPRING_FAIL,
with the row at FULL where SERVICE_SLOW is clear (R120, R121); that of a step of the brake test ends the test FAILED
with its number (R124). Where the check or the step does not run, or has been started again and not reached its limit,
nothing changes (notes/assumptions/4.md). -/
def Obligations.MissedChecksSetTheBrakeFaults : Prop :=
  ∀ s : State,
    (∃ t u, exec .serviceCheckTimerExpiry s = .next t ∧
      u = { s with drive := { s.drive with serviceCheck := { s.drive.serviceCheck with outcome := .missed } } } ∧
      (s.drive.serviceCheck.outcome ≠ .running ∨ s.drive.serviceCheck.timer < s.drive.serviceCheck.limit → t = s) ∧
      (s.drive.serviceCheck.outcome = .running → s.drive.serviceCheck.limit ≤ s.drive.serviceCheck.timer →
        s.drive.serviceSlow = true → t = u) ∧
      (s.drive.serviceCheck.outcome = .running → s.drive.serviceCheck.limit ≤ s.drive.serviceCheck.timer →
        s.drive.serviceSlow = false →
        RowsFollow { s.dem.rows with brakeCheck := .emergency }
          { u with drive := { u.drive with
            serviceSlow := true, faultState := if s.drive.springFail then .failed else .degraded } } t ∧
        raisedAll .brakeState t ∧ Keeps (.mode :: restBlocks) s t ∧ PortsKeep rowEvents none s t)) ∧
    (∃ t, exec .releaseCheckTimerExpiry s = .next t ∧
      (s.drive.springCheck.outcome ≠ .releaseRunning ∨ s.drive.springCheck.timer < s.drive.springCheck.limit → t = s) ∧
      (s.drive.springCheck.outcome = .releaseRunning → s.drive.springCheck.limit ≤ s.drive.springCheck.timer →
        t.drive = { s.drive with
          springCheck := { s.drive.springCheck with outcome := .missed }, springStuck := true } ∧
        (s.drive.springStuck = false → raisedAll .brakeState t) ∧
        Keeps allButDrive s t ∧ PortsKeep [.brakeState] none s t)) ∧
    (∃ t u, exec .applyCheckTimerExpiry s = .next t ∧
      u = { s with drive := { s.drive with springCheck := { s.drive.springCheck with outcome := .missed } } } ∧
      (s.drive.springCheck.outcome ≠ .applyRunning ∨ s.drive.springCheck.timer < s.drive.springCheck.limit → t = s) ∧
      (s.drive.springCheck.outcome = .applyRunning → s.drive.springCheck.limit ≤ s.drive.springCheck.timer →
        s.drive.springFail = true → t = u) ∧
      (s.drive.springCheck.outcome = .applyRunning → s.drive.springCheck.limit ≤ s.drive.springCheck.timer →
        s.drive.springFail = false →
        RowsFollow { s.dem.rows with brakeCheck := if s.drive.serviceSlow then .emergency else .full }
          { u with drive := { u.drive with
            springFail := true, faultState := if s.drive.serviceSlow then .failed else .degraded } } t ∧
        raisedAll .brakeState t ∧ Keeps (.mode :: restBlocks) s t ∧ PortsKeep rowEvents none s t)) ∧
    (∃ t, exec .brakeTestStepTimerExpiry s = .next t ∧
      ((∀ x, s.drive.testStep = some x → x.timer < x.limit) → t = s) ∧
      (∀ x, s.drive.testStep = some x → x.limit ≤ x.timer → TestEnded (.failed x.step) s t ∧
        DriveKeeps s.drive t.drive ∧ Keeps allButDrive s t ∧ PortsKeep [.brakeTest, .brakeState] none s t))

/-! ### Radio -/

/-- A frame delivered whole is taken from its bytes as the frame that they carry, and every frame command of the table
is its frame. One whose reception began before the last reset is discarded and not counted (R150,
notes/assumptions/17.md). A frame that arrives during a transmission is lost (R151; that it is not counted is the
model's reading, notes/assumptions/17.md). Any other is counted by its class (R152, R153): SHORT, LONG, LONG_BAD,
CRC_ERROR, FOREIGN, NOT_ADDRESSED or GOOD; and a GOOD frame of a kind the unit does not handle is discarded (R159). -/
def Obligations.FramesAreClassedAndCounted : Prop :=
  (∀ (f : Frame) (s : State), exec (.discardedFrame ⟨frameOnAir f, false⟩) s = .next (receiveFrame f s)) ∧
  (∀ (bytes : List Byte) (s : State), exec (.discardedFrame ⟨bytes, true⟩) s = .next s) ∧
  (∀ (i : Instr) (f : Frame) (s : State), frameOf i = some f → exec i s = .next (receiveFrame f s)) ∧
  (∀ (bytes : List Byte) (s : State), ∃ t, exec (.discardedFrame ⟨bytes, false⟩) s = .next t ∧
    (s.radio.transmission ≠ none → t = s) ∧
    (s.radio.transmission = none →
      (bytes.length < 10 → Counted .shortFrames s t) ∧
      (10 ≤ bytes.length → bytes.length ≤ 128 →
        bytes.drop (bytes.length - 2) ≠ crcField (bytes.take (bytes.length - 2)) → Counted .crcErrors s t) ∧
      (128 < bytes.length →
        bytes.drop (bytes.length - 2) ≠ crcField (bytes.take (bytes.length - 2)) → Counted .longBadFrames s t))) ∧
  (∀ (f : Frame) (s : State), s.radio.transmission = none →
    (118 < f.body.length → Counted .longFrames s (receiveFrame f s)) ∧
    (f.body.length ≤ 118 → ¬lineGood f s → Counted .foreignFrames s (receiveFrame f s)) ∧
    (f.body.length ≤ 118 → lineGood f s → ¬addressedHere f s → Counted .notAddressed s (receiveFrame f s)) ∧
    (frameGood f s → f.kind ∉ [(0x01 : Byte), 0x10, 0x11, 0x12, 0x13, 0x14, 0x15, 0x16] →
      Counted .goodFrames s (receiveFrame f s)))

/-- A beacon of one byte is counted, and in the current zone restarts a running silence timer, forms the coverage and
with its flag opens a window for a TRANSMIT car that has none open, beginning its first transmission (R156 to R158,
R167, R168); of another zone, or in zone 0, it changes nothing more, nor does one of another length. A tick of the
running silence timer at the end of its second raises the count and forms the coverage, with the RADIO event of a change
(R156, R157); a tick of a timer held, or restarted since, changes nothing (notes/assumptions/4.md). -/
def Obligations.BeaconsAndTicksFormTheCoverage : Prop :=
  (∀ (h : FrameHeader) (body : List Byte) (s : State), frameGood ⟨h, 0x01, body⟩ s →
    ∃ t g, exec (.beacon h body) s = .next t ∧ Counted .goodFrames s g ∧ (body.length ≠ 1 → t = g) ∧
      ∀ flag, body = [flag] → ∃ b, Counted .beacons g b ∧
        (h.zone.toNat ≠ s.radio.zone ∨ s.radio.zone = 0 → t = b) ∧
        (h.zone.toNat = s.radio.zone → s.radio.zone ≠ 0 → ∃ c,
          c.radio = { b.radio with
            silenceCount := if s.radio.silenceRunning then 0 else s.radio.silenceCount
            silenceTick := if s.radio.silenceRunning then 0 else s.radio.silenceTick
            coverage := c.radio.coverage } ∧
          CoverageOf c c.radio.coverage ∧ (c.radio.coverage ≠ s.radio.coverage → raisedAll .radio c) ∧ Keeps allButRadio b c ∧
          PortsKeep [.radio] none b c ∧
          (flag.getLsbD 0 = true → (∃ x, s.mode.composition = some x ∧ x.role = .transmit) → s.radio.window = none →
            TransmissionBegun { c with radio := { c.radio with window := some ⟨0, 0⟩ } } t) ∧
          (flag.getLsbD 0 = false ∨ (∀ x, s.mode.composition = some x → x.role = .listen) ∨ s.radio.window ≠ none →
            t = c))) ∧
  (∀ s : State, ∃ t, exec .silenceTimerTick s = .next t ∧
    (s.radio.silenceRunning = false ∨ s.radio.silenceTick < 1000 → t = s) ∧
    (s.radio.silenceRunning = true → 1000 ≤ s.radio.silenceTick →
      t.radio = { s.radio with
        silenceCount := raisedByOne s.radio.silenceCount, silenceTick := 0, coverage := t.radio.coverage } ∧
      CoverageOf t t.radio.coverage ∧ (t.radio.coverage ≠ s.radio.coverage → raisedAll .radio t) ∧ Keeps allButRadio s t ∧
      PortsKeep [.radio] none s t))

/-- A new RESTRICTION_SET or RESTRICTION_LIFT bulletin is counted, applied as a set or a lift with its key, and
acknowledged with its result, REFUSED_INVALID for a field out of range or a body of the wrong length (R64, R159 to
R161). -/
def Obligations.RestrictionBulletinsAreApplied : Prop :=
  ∀ (h : FrameHeader) (s : State), TablesFollow s → newBulletin h s →
    (∀ body, body.length ≠ 9 → frameGood ⟨h, 0x10, body⟩ s → ∃ t b, exec (.restrictionSet h body) s = .next t ∧
      BulletinTaken h .refusedInvalid s b b t) ∧
    (∀ body id start stop limit, body = natField 1 id ++ natField 3 start ++ natField 3 stop ++ natField 2 limit →
      id < 256 → start < 16777216 → stop < 16777216 → limit < 65536 → frameGood ⟨h, 0x10, body⟩ s →
      ∃ t b a r full, exec (.restrictionSet h body) s = .next t ∧ BulletinTaken h r s b a t ∧
        (¬(1 ≤ id ∧ start ≤ 199999 ∧ start < stop ∧ stop ≤ 200000 ∧ limit ≤ 1200) → r = .refusedInvalid ∧ a = b) ∧
        (1 ≤ id ∧ start ≤ 199999 ∧ start < stop ∧ stop ≤ 200000 ∧ limit ≤ 1200 →
          RestrictionSet ⟨.radio, h.station.toNat, id⟩ start stop limit full b a ∧
          r = (if full then .refusedFull else .applied) ∧ Keeps (.dem :: .drive :: tableless) b a ∧
          PortsKeep [.restrictions] none b a)) ∧
    (∀ body, body.length ≠ 1 → frameGood ⟨h, 0x11, body⟩ s → ∃ t b, exec (.restrictionLiftBulletin h body) s = .next t ∧
      BulletinTaken h .refusedInvalid s b b t) ∧
    (∀ id : Byte, frameGood ⟨h, 0x11, [id]⟩ s →
      ∃ t b a r, exec (.restrictionLiftBulletin h [id]) s = .next t ∧ BulletinTaken h r s b a t ∧
        (id = 0 → r = .refusedInvalid ∧ a = b) ∧
        (id ≠ 0 → RestrictionLifted ⟨.radio, h.station.toNat, id.toNat⟩ b a ∧ r = .applied ∧
          Keeps (.dem :: .drive :: tableless) b a ∧ PortsKeep [.restrictions] none b a))

/-- A new PERMIT_GRANT is refused for its train number, its fields, the mode, the direction or the shortening of the
permit present, in that order, and else becomes the permit, with the PERMIT event (R66, R161); a new PERMIT_REVOKE makes
the permit absent (R68). The shortening test passes beyond 6,000 dm, and else where the speed is within the braking
curve to the new end (R67). -/
def Obligations.PermitBulletinsAreApplied : Prop :=
  ∀ (h : FrameHeader) (s : State), newBulletin h s →
    (∀ body, body.length ≠ 4 → frameGood ⟨h, 0x12, body⟩ s → ∃ t b, exec (.permitGrant h body) s = .next t ∧
      BulletinTaken h .refusedInvalid s b b t) ∧
    (∀ body stop (d : Byte), body = natField 3 stop ++ [d] → stop < 16777216 → frameGood ⟨h, 0x12, body⟩ s →
      ∃ t b a r, exec (.permitGrant h body) s = .next t ∧ BulletinTaken h r s b a t ∧ (r ≠ .applied → a = b) ∧
        (h.train = 0 ∨ 200000 < stop ∨ (d ≠ 1 ∧ d ≠ 2) → r = .refusedInvalid) ∧
        ∀ dir : Direction, dir ≠ .none → d = dir.code → h.train ≠ 0 → stop ≤ 200000 →
          (s.mode.mode ≠ .line → r = .refusedMode) ∧
          (s.mode.mode = .line → dir ≠ s.mode.direction → r = .refusedDirection) ∧
          (s.mode.mode = .line → dir = s.mode.direction →
            (∀ p, s.limits.permit = some p →
              (if dir = .upLine then p.endPos ≤ stop else stop ≤ p.endPos) ∨ shorteningPasses s stop = true) →
            r = .applied ∧
            a.limits = { b.limits with permit := some ⟨.radio, h.station.toNat, h.serial.toNat, stop, dir⟩ } ∧
            raisedAll .permit a ∧ Keeps (.dem :: .drive :: tableless) b a ∧ PortsKeep [.permit] none b a) ∧
          (∀ p, s.mode.mode = .line → dir = s.mode.direction → s.limits.permit = some p →
            (if dir = .upLine then stop < p.endPos else p.endPos < stop) → shorteningPasses s stop = false →
            r = .refusedShorten)) ∧
    (∀ (stop : Nat) (sp : Span) (front d : Int), envelopeSpan s = some sp →
      front = (if s.mode.direction = .downLine then sp.low else sp.high) →
      d = (if s.mode.direction = .downLine then front - (stop : Int) else (stop : Int) - front) →
      (shorteningPasses s stop = true ↔ 6000 < d ∨
        s.odo.speed * s.odo.speed ≤ 2 * approachDecel s front (if d < 0 then front else stop) *
          (d - reactionDistance s.odo.speed s.store.params.tB).toNat)) ∧
    (∀ body, body ≠ [] → frameGood ⟨h, 0x13, body⟩ s → ∃ t b, exec (.permitRevoke h body) s = .next t ∧
      BulletinTaken h .refusedInvalid s b b t) ∧
    (frameGood ⟨h, 0x13, []⟩ s → ∃ t b a, exec (.permitRevoke h []) s = .next t ∧ BulletinTaken h .applied s b a t ∧
      a.limits = { b.limits with permit := none } ∧ (s.limits.permit ≠ none → raisedAll .permit a) ∧
      Keeps (.dem :: .drive :: tableless) b a ∧ PortsKeep [.permit] none b a)

/-- A new STOP_ORDER raises, and a new STOP_RELEASE clears, the entry of its own station, the RADIO row following (R71,
R72). A new TEXT is stored in a free slot with the arrival count, cut to its first 96 characters, with the INBOX and
INBOX_LOW events, or refused and counted with the inbox full (R162, R164). A duplicate of any kind is counted, not
applied again, and acknowledged with its first result (R159). -/
def Obligations.StopsTextsAndDuplicatesAreTaken : Prop :=
  ∀ (h : FrameHeader) (s : State), TablesFollow s →
    (newBulletin h s →
      (∀ body, frameGood ⟨h, 0x14, body⟩ s → ∃ t b a r, exec (.stopOrder h body) s = .next t ∧
        BulletinTaken h r s b a t ∧
        (body = [1] → r = .applied ∧ StopPut h.station.toNat
          (if stopOf s h.station.toNat = .emergencyStop then .emergencyStop else .serviceStop) b a) ∧
        (body = [2] → r = .applied ∧ StopPut h.station.toNat .emergencyStop b a) ∧
        (body ≠ [1] → body ≠ [2] → r = .refusedInvalid ∧ a = b)) ∧
      (∀ body, frameGood ⟨h, 0x15, body⟩ s → ∃ t b a r, exec (.stopRelease h body) s = .next t ∧
        BulletinTaken h r s b a t ∧ (body = [] → r = .applied ∧ StopPut h.station.toNat .none b a) ∧
        (body ≠ [] → r = .refusedInvalid ∧ a = b)) ∧
      (∀ body, body.length < 2 → frameGood ⟨h, 0x16, body⟩ s → ∃ t b, exec (.text h body) s = .next t ∧
        BulletinTaken h .refusedInvalid s b b t) ∧
      (∀ (p n : Byte) text, frameGood ⟨h, 0x16, p :: n :: text⟩ s →
        ∃ t b a r, exec (.text h (p :: n :: text)) s = .next t ∧ BulletinTaken h r s b a t ∧
          (1 < p.toNat ∨ n = 0 ∨ n.toNat ≠ text.length → r = .refusedInvalid ∧ a = b) ∧
          (p.toNat ≤ 1 → n ≠ 0 → n.toNat = text.length →
            (s.radio.freeCount = 0 → r = .refusedFull ∧ Counted .inboxDrops b a) ∧
            (0 < s.radio.freeCount → r = .applied ∧ MessageStored ⟨h.station.toNat, h.serial.toNat,
              if p = 0 then .normal else .urgent, decide (96 < text.length), text.take 96, s.radio.arrivalCount⟩
              b a)))) ∧
    (∀ i f e, frameOf i = some f → f.header = h → f.kind ≠ 0x01 → frameGood f s → e ∈ s.radio.recent →
      e.station = h.station.toNat → e.serial = h.serial.toNat →
      ∃ t g d, exec i s = .next t ∧ Counted .goodFrames s g ∧ Counted .duplicates g d ∧ AckOffered e d t)

/-- The end of a transmission takes its acknowledgement from the front of the queue, or the report's being due, and
the next waiting frame may begin (R168); the window's 500 ms close it (R167); the report timer's interval makes a
report due, starts the timer again, and may begin it (R166, R168). The frame of an acknowledgement carries the line
id, the entry's station and serial, the zone, the train number and the result; that of a position report carries
station and serial 0 and the values of the moment (R169, Formats), its line id being the model's choice
(notes/assumptions/20.md). That an expiry of a timer stopped or started again changes nothing, as an end where nothing
is sent, is notes/assumptions/4.md; that an acknowledgement leaves the queue only where it was still queued, and a
report stays due until it is sent, is notes/assumptions/17.md. -/
def Obligations.TransmissionsAndReportsFollowTheirTimers : Prop :=
  (∀ s : State,
    (∃ t, exec .transmissionEnd s = .next t ∧ (s.radio.transmission = none → t = s) ∧
      (∀ x e queued, s.radio.transmission = some x → x.kind = .ack e queued →
        TransmissionBegun { s with radio := { s.radio with
          transmission := none, acks := if queued then s.radio.acks.drop 1 else s.radio.acks } } t) ∧
      (∀ x, s.radio.transmission = some x → x.kind = .report →
        TransmissionBegun { s with radio := { s.radio with transmission := none, reportDue := false } } t)) ∧
    ((∀ w, s.radio.window = some w → w.timer < 500) → exec .windowTimerExpiry s = .next s) ∧
    (∀ w, s.radio.window = some w → 500 ≤ w.timer →
      exec .windowTimerExpiry s = .next { s with radio := { s.radio with window := none } }) ∧
    (∃ t, exec .reportTimerExpiry s = .next t ∧
      ((∀ n interval, s.radio.reportTimer = some (n, interval) → n < 1000 * interval) → t = s) ∧
      (∀ n interval, s.radio.reportTimer = some (n, interval) → 1000 * interval ≤ n →
        TransmissionBegun { s with radio := { s.radio with
          reportDue := true, reportTimer := some (0, s.store.params.reportInterval) } } t))) ∧
  (∀ (c : Composition) (s : State), s.mode.composition = some c →
    (∀ e : BulletinEntry, ∃ covered, ackFrame e s = covered ++ crcField covered ∧
      covered = natField 1 s.store.lineId ++ natField 1 e.station ++ natField 1 s.radio.zone ++ [0x20] ++
        natField 2 e.serial ++ natField 2 c.train ++ [resultByte e.result]) ∧
    (∃ covered body, reportFrame s = covered ++ crcField covered ∧
      covered = natField 1 s.store.lineId ++ [0] ++ natField 1 s.radio.zone ++ [0x21] ++ [0, 0] ++
        natField 2 c.train ++ body ∧
      body.length = 19 ∧ ∀ x ∈ reportLayout c s, (body.drop x.1).take x.2.1 = x.2.2))

/-! ### The load -/

/-- The loader polls the memory until it is not busy, and after 25 ms of a busy memory ends NO_PROFILE with MEMORY_BUSY;
it then takes a header by its tests in their order, the first that fails ending the load NO_PROFILE with its reason, and
stops with OVERFLOW where the parameter block would pass the end of the memory (R41, R44). What it does not wait for
changes nothing (notes/assumptions/18.md, and of a time not run notes/assumptions/4.md). -/
def Obligations.LoaderTakesTheHeader : Prop :=
  ∀ s : State,
    (∀ status : Byte, ∃ t, exec (.loaderStatusAnswer status) s = .next t ∧
      ((∀ n, s.store.loader ≠ .poll n) ∨ status.getLsbD 0 = true → t = s) ∧
      (∀ n, s.store.loader = .poll n → status.getLsbD 0 = false →
        StoreOnly { s.store with loader := .headerRead } s t)) ∧
    (∃ t, exec .loaderBusyTimeout s = .next t ∧ ((∀ n, s.store.loader = .poll n → n < 25) → t = s) ∧
      (∀ n, s.store.loader = .poll n → 25 ≤ n → NoProfile .header .memoryBusy s.store s t)) ∧
    (∀ bytes, s.store.loader ≠ .headerRead ∨ bytes.length ≠ 16 → exec (.headerReadEnd bytes) s = .next s) ∧
    (∀ (mark format line x y z c d : Byte) (revision count paramAddr segAddr : Nat) (covered : List Byte)
        (hdr : Store),
      revision < 65536 → count < 65536 → paramAddr < 65536 → segAddr < 65536 → s.store.loader = .headerRead →
      covered = [mark, format, line] ++ natField 2 revision ++ natField 2 count ++ natField 2 paramAddr ++
        natField 2 segAddr ++ [x, y, z] →
      hdr = { s.store with
        lineId := line.toNat, revision := revision, phase := .parameters, loader := .parameterRead
        headerCount := count, headerParamAddr := paramAddr, headerSegAddr := segAddr } →
      ∃ t, exec (.headerReadEnd (covered ++ [c, d])) s = .next t ∧
        (mark ≠ 0x3C → NoProfile .header .validMark s.store s t) ∧
        (mark = 0x3C → [c, d] ≠ crcField covered → NoProfile .header .headerCrc s.store s t) ∧
        (mark = 0x3C → [c, d] = crcField covered →
          (format ≠ 1 → NoProfile .header .format s.store s t) ∧
          (format = 1 → line = 0 → NoProfile .header .lineId s.store s t) ∧
          (format = 1 → line ≠ 0 → paramAddr < 16 ∨ segAddr < 16 → NoProfile .header .address s.store s t) ∧
          (format = 1 → line ≠ 0 → 16 ≤ paramAddr → 16 ≤ segAddr → paramAddr ≤ 65408 → StoreOnly hdr s t) ∧
          (format = 1 → line ≠ 0 → 16 ≤ segAddr → 65408 < paramAddr →
            NoProfile .parameters .overflow hdr s t)))

/-- A parameter block of good mark and CRC whose record passes its ranges and constraints becomes the record; any
other leaves the defaults with the failure recorded, naming the first field out of its range, or else the first
constraint that fails; the segments phase follows in either case (R42 to R44). A segment block of good mark and CRC
whose records all pass their checks becomes the table, ending the load PROFILE_LOADED or PARAMS_DEFAULT; any other
ends it NO_SEGMENTS, with the index of the first record that fails and the first check that it fails, RANGE where a
code is none of its field's (R43, R45). A read that is not awaited or has another length changes nothing
(notes/assumptions/18.md). -/
def Obligations.LoaderTakesTheBlocks : Prop :=
  ∀ s : State,
    (∀ bytes, s.store.loader ≠ .parameterRead ∨ bytes.length ≠ 128 →
      exec (.parameterBlockReadEnd bytes) s = .next s) ∧
    (∀ (mark : Byte) (body rest : List Byte) (c d : Byte) (p : Params), s.store.loader = .parameterRead →
      body.length = 100 → rest.length = 25 → p = paramsOf body →
      ∃ t, exec (.parameterBlockReadEnd (mark :: body ++ rest ++ [c, d])) s = .next t ∧
        (mark ≠ 0x69 →
          SegmentsBegun { s.store with failure := some ⟨.parameters, .validMark, .none⟩ } s t) ∧
        (mark = 0x69 → [c, d] ≠ crcField (mark :: body ++ rest) →
          SegmentsBegun { s.store with failure := some ⟨.parameters, .blockCrc, .none⟩ } s t) ∧
        (mark = 0x69 → [c, d] = crcField (mark :: body ++ rest) →
          (∀ tests before x after, tests = rangeTests p ⟨doorCodesGood body 76, doorCodesGood body 80,
              doorCodesGood body 84, doorCodesGood body 88⟩ →
            (tests = before ++ x :: after → (∀ y ∈ before, y.2.2 = true) → x.2.2 = false →
              SegmentsBegun { s.store with failure := some ⟨.parameters, .range, .field x.1 x.2.1⟩ } s t) ∧
            ((∀ y ∈ tests, y.2.2 = true) → ∀ name, brokenConstraint p = some name →
              SegmentsBegun { s.store with failure := some ⟨.parameters, .constraint, .constraint name⟩ } s t)) ∧
          (body = paramBytes p → p.valid = true →
            SegmentsBegun { s.store with params := p, paramSource := .memory } s t))) ∧
    (∀ p : Params, p.valid = true → p.glc.length = 7 →
      (paramBytes p).length = 100 ∧ paramsOf (paramBytes p) = p) ∧
    (∀ bytes, s.store.loader ≠ .segmentRead ∨ bytes.length ≠ 3 + 19 * s.store.headerCount →
      exec (.segmentBlockReadEnd bytes) s = .next s) ∧
    (∀ (mark : Byte) (l : List Segment) (c d : Byte) (covered : List Byte), s.store.loader = .segmentRead →
      l.length = s.store.headerCount → covered = mark :: l.flatMap segmentBytes →
      (∀ g ∈ l, g.start < 16777216 ∧ g.length < 65536 ∧ SegmentFits g) →
      ∃ t, exec (.segmentBlockReadEnd (covered ++ [c, d])) s = .next t ∧
        (mark ≠ 0x96 → NoSegments .validMark .none s.store s t) ∧
        (mark = 0x96 → [c, d] ≠ crcField covered → NoSegments .blockCrc .none s.store s t) ∧
        (mark = 0x96 → [c, d] = crcField covered →
          ((∀ g ∈ l, SegmentGood g) → contiguous l →
            LoadEnded (if s.store.paramSource = .memory then .profileLoaded else .paramsDefault)
              { s.store with segments := l } s t) ∧
          (∀ i g, l[i]? = some g → (∀ x ∈ l.take i, SegmentGood x) → contiguous (l.take i) →
            (¬SegmentGood g ∨ ¬contiguous (l.take (i + 1))) →
            NoSegments (reasonOf ((l.take i).getLast?.map fun x => x.start + x.length) g) (.record i) s.store s t))) ∧
    (∀ (l : List Segment) (record rest covered : List Byte), s.store.loader = .segmentRead →
      record.length = 19 → rest.length + 19 * (l.length + 1) = 19 * s.store.headerCount →
      1 < (record.getD 7 0).toNat ∨ 3 < (record.getD 11 0).toNat ∨ record.getD 12 0 ∉ [0, 1, 2, 0xFF] →
      covered = 0x96 :: l.flatMap segmentBytes ++ record ++ rest →
      (∀ g ∈ l, g.start < 16777216 ∧ g.length < 65536 ∧ SegmentFits g) → (∀ g ∈ l, SegmentGood g) → contiguous l →
      ∃ t, exec (.segmentBlockReadEnd (covered ++ crcField covered)) s = .next t ∧
        NoSegments .range (.record l.length) s.store s t)

/-! ### Curves -/

/-- The curves of the part are interpolated as their rules round them: gravity up between its points (R77), the gradient
limit down (R78), the service target down (R113), and the duty down between the points of the valve curve, 0 below them
and at a target of 0, and the last point's above them (R114). The mapping commands for each driven kind the level and the
release valve of its table (R112), and a reading lies in the band of a target below 150 kPa at the target 0, and else
within the larger of 150 kPa and a tenth of the target, rounded down, of it, both bounds included (R116). -/
def Obligations.CurvesAreInterpolated : Prop :=
  (∀ x k lo hi, (k, lo, hi) ∈ [(0, 0, 976), (100, 976, 1924), (200, 1924, 2818)] → k ≤ x → x ≤ k + 100 →
    lo ≤ gravity x ∧ (hi - lo) * (x - k) ≤ 100 * (gravity x - lo) ∧
      100 * (gravity x - lo) < (hi - lo) * (x - k) + 100) ∧
  (∀ (glc : List Nat) (i lo hi : Nat) (g a : Int), glc.length = 7 → glc[i]? = some lo → glc[i + 1]? = some hi →
    a = 100 * (i : Int) - 300 → a ≤ g → g ≤ a + 100 →
    ((gradientLimit glc g : Int) - lo) * 100 ≤ ((hi : Int) - lo) * (g - a) ∧
      ((hi : Int) - lo) * (g - a) < ((gradientLimit glc g : Int) - lo) * 100 + 100) ∧
  (∀ (p : Params) (level : Nat), p.pLo < p.pHi → p.pHi ≤ 5000 → 1 ≤ level → level ≤ 1000 →
    targetOf p 0 = 0 ∧ p.pLo ≤ targetOf p level ∧
      1000 * (targetOf p level - p.pLo) ≤ (p.pHi - p.pLo) * level ∧
      (p.pHi - p.pLo) * level < 1000 * (targetOf p level - p.pLo) + 1000) ∧
  (∀ v : Quad (Nat × Nat), valveStep v.d1 v.d2 = true → valveStep v.d2 v.d3 = true → valveStep v.d3 v.d4 = true →
    dutyOf v 0 = 0 ∧ (∀ x, x < v.d1.1 → dutyOf v x = 0) ∧ (∀ x, v.d4.1 < x → dutyOf v x = v.d4.2) ∧
    (∀ x y, x ≤ y → dutyOf v x ≤ dutyOf v y) ∧
    (∀ a b x, (a, b) ∈ [(v.d1, v.d2), (v.d2, v.d3), (v.d3, v.d4)] → x ≠ 0 → a.1 ≤ x → x ≤ b.1 →
      a.2 ≤ dutyOf v x ∧ (dutyOf v x - a.2) * (b.1 - a.1) ≤ (b.2 - a.2) * (x - a.1) ∧
        (b.2 - a.2) * (x - a.1) < (dutyOf v x - a.2) * (b.1 - a.1) + (b.1 - a.1))) ∧
  (∀ still : Bool, mappedOutputs .none still = (0, .energized) ∧ mappedOutputs .full still = (1000, .energized) ∧
    mappedOutputs .emergency still = (1000, .deEnergized) ∧ ∀ n, mappedOutputs (.service n) still = (n, .energized)) ∧
  mappedOutputs .hold true = (0, .deEnergized) ∧ mappedOutputs .hold false = (0, .energized) ∧
  ∀ target v : Nat,
    (target = 0 → ((bandOf target).1 ≤ v ∧ v ≤ (bandOf target).2 ↔ v < 150)) ∧
    (0 < target → ((bandOf target).1 ≤ v ∧ v ≤ (bandOf target).2 ↔
      target ≤ v + max 150 (target / 10) ∧ v ≤ target + max 150 (target / 10)))

/-! ### Invariants -/

/-- Every step keeps the notice line of every port asserted while a raw flag of the port is set whose mask flag is set
too, and deasserted while no such pair exists; a power-on and a RESTART that is taken leave it deasserted (R183). -/
def Obligations.EveryStepKeepsTheNotices : Prop :=
  (∀ s t : State, NoticesFollow s → step s = .next t → NoticesFollow t) ∧
  (∀ (i : CarInputs) (s t : State) (q : Port), exec (.powerOn i) s = .next t → (portOf q t).notice = false) ∧
  (∀ (p q : Port) (s t : State), Ready p s →
    s.mode.holder = .none ∨ (isHolder p s = true ∧ s.odo.standstill = true) →
    exec (.restart p []) s = .next t → (portOf q t).notice = false)

/-- Every step keeps each demand row as its causes have it, the driven kind and the traction inhibit as the rows and the
latch have them, and the latch set under a row at EMERGENCY (R14, R32, R72, R90, R95 to R97, R102, R107, R108, R121,
R148). -/
def Obligations.EveryStepKeepsTheDemands : Prop :=
  ∀ s t : State, DemandsFollow s → step s = .next t → DemandsFollow t

/-- Every step keeps the brake outputs as their source has them: those of the mapping for the driven kind and
standstill, those of the abort hold, or those of the running step of the test; and under the latch the driven kind
EMERGENCY and no test (R112, R123, R125). -/
def Obligations.EveryStepKeepsTheBrakes : Prop :=
  ∀ s t : State, DemandsFollow s → BrakesFollow s → step s = .next t → BrakesFollow t

/-- Every step keeps the mode as the load, the composition, the load result and the brake test record allow it, the
direction NONE without a holder, and the permit in LINE and in the selected direction alone (R1, R3, R6, R65). -/
def Obligations.EveryStepKeepsTheMode : Prop :=
  ∀ s t : State, ModeFollows s → step s = .next t → ModeFollows t

/-- Every step keeps the position record in its ranges, and the uncertainty as the accumulator and the position state
have it (R17, R20, R24, R25). -/
def Obligations.EveryStepKeepsThePosition : Prop :=
  ∀ s t : State, PositionFollows s → step s = .next t → PositionFollows t

/-- Every step keeps the tables, the lists and the queues within their bounds and in their orders, the memory in its
canonical form, the segments joined and each of its length, and the silence timer held at 0 in zone 0 and in DARK and
running elsewhere (R36, R37, R43, R56, R71, R156, R160, R162, R165, R168). -/
def Obligations.EveryStepKeepsTheTables : Prop :=
  ∀ s t : State, TablesFollow s → step s = .next t → TablesFollow t

/-- Right after power-on, with the input levels of `State.reset` (notes/assumptions/2.md), every invariant holds. -/
def Obligations.InvariantsHoldAtReset : Prop :=
  NoticesFollow State.reset ∧ DemandsFollow State.reset ∧ BrakesFollow State.reset ∧ ModeFollows State.reset ∧
    PositionFollows State.reset ∧ TablesFollow State.reset
end

