-- ==== Sys2Proof/Laws/State.lean ====
section
/-!
SUPPORT. One lemma for each field of State under each update of one block or of the flags: what the update
leaves, and what it puts. Each is true by unfolding the update once, so that no later proof unfolds it.
-/

namespace Sys2Proof.Machine

section
variable (s : State)

@[simp] theorem raise_mode (e : Event) : (raise e s).mode = s.mode := rfl
@[simp] theorem raise_odo (e : Event) : (raise e s).odo = s.odo := rfl
@[simp] theorem raise_store (e : Event) : (raise e s).store = s.store := rfl
@[simp] theorem raise_limits (e : Event) : (raise e s).limits = s.limits := rfl
@[simp] theorem raise_sup (e : Event) : (raise e s).sup = s.sup := rfl
@[simp] theorem raise_dem (e : Event) : (raise e s).dem = s.dem := rfl
@[simp] theorem raise_drive (e : Event) : (raise e s).drive = s.drive := rfl
@[simp] theorem raise_doors (e : Event) : (raise e s).doors = s.doors := rfl
@[simp] theorem raise_radio (e : Event) : (raise e s).radio = s.radio := rfl
@[simp] theorem raise_ports (e : Event) : (raise e s).ports = s.ports.map (PortRec.raise e) := rfl
@[simp] theorem raise_memory (e : Event) : (raise e s).memory = s.memory := rfl
@[simp] theorem raise_pending (e : Event) : (raise e s).pending = s.pending := rfl

@[simp] theorem raiseIf_mode (c : Bool) (e : Event) : (raiseIf c e s).mode = s.mode := by cases c <;> rfl
@[simp] theorem raiseIf_odo (c : Bool) (e : Event) : (raiseIf c e s).odo = s.odo := by cases c <;> rfl
@[simp] theorem raiseIf_store (c : Bool) (e : Event) : (raiseIf c e s).store = s.store := by cases c <;> rfl
@[simp] theorem raiseIf_limits (c : Bool) (e : Event) : (raiseIf c e s).limits = s.limits := by cases c <;> rfl
@[simp] theorem raiseIf_sup (c : Bool) (e : Event) : (raiseIf c e s).sup = s.sup := by cases c <;> rfl
@[simp] theorem raiseIf_dem (c : Bool) (e : Event) : (raiseIf c e s).dem = s.dem := by cases c <;> rfl
@[simp] theorem raiseIf_drive (c : Bool) (e : Event) : (raiseIf c e s).drive = s.drive := by cases c <;> rfl
@[simp] theorem raiseIf_doors (c : Bool) (e : Event) : (raiseIf c e s).doors = s.doors := by cases c <;> rfl
@[simp] theorem raiseIf_radio (c : Bool) (e : Event) : (raiseIf c e s).radio = s.radio := by cases c <;> rfl
@[simp] theorem raiseIf_memory (c : Bool) (e : Event) : (raiseIf c e s).memory = s.memory := by cases c <;> rfl
@[simp] theorem raiseIf_pending (c : Bool) (e : Event) : (raiseIf c e s).pending = s.pending := by cases c <;> rfl

@[simp] theorem updPort_mode (p : Port) (f : PortRec → PortRec) : (updPort p f s).mode = s.mode := by cases p <;> rfl
@[simp] theorem updPort_odo (p : Port) (f : PortRec → PortRec) : (updPort p f s).odo = s.odo := by cases p <;> rfl
@[simp] theorem updPort_store (p : Port) (f : PortRec → PortRec) : (updPort p f s).store = s.store := by cases p <;> rfl
@[simp] theorem updPort_limits (p : Port) (f : PortRec → PortRec) : (updPort p f s).limits = s.limits := by cases p <;> rfl
@[simp] theorem updPort_sup (p : Port) (f : PortRec → PortRec) : (updPort p f s).sup = s.sup := by cases p <;> rfl
@[simp] theorem updPort_dem (p : Port) (f : PortRec → PortRec) : (updPort p f s).dem = s.dem := by cases p <;> rfl
@[simp] theorem updPort_drive (p : Port) (f : PortRec → PortRec) : (updPort p f s).drive = s.drive := by cases p <;> rfl
@[simp] theorem updPort_doors (p : Port) (f : PortRec → PortRec) : (updPort p f s).doors = s.doors := by cases p <;> rfl
@[simp] theorem updPort_radio (p : Port) (f : PortRec → PortRec) : (updPort p f s).radio = s.radio := by cases p <;> rfl
@[simp] theorem updPort_memory (p : Port) (f : PortRec → PortRec) : (updPort p f s).memory = s.memory := by cases p <;> rfl
@[simp] theorem updPort_pending (p : Port) (f : PortRec → PortRec) : (updPort p f s).pending = s.pending := by cases p <;> rfl

@[simp] theorem updOdo_mode (f : Odometry → Odometry) : (updOdo f s).mode = s.mode := rfl
@[simp] theorem updOdo_odo (f : Odometry → Odometry) : (updOdo f s).odo = f s.odo := rfl
@[simp] theorem updOdo_store (f : Odometry → Odometry) : (updOdo f s).store = s.store := rfl
@[simp] theorem updOdo_limits (f : Odometry → Odometry) : (updOdo f s).limits = s.limits := rfl
@[simp] theorem updOdo_sup (f : Odometry → Odometry) : (updOdo f s).sup = s.sup := rfl
@[simp] theorem updOdo_dem (f : Odometry → Odometry) : (updOdo f s).dem = s.dem := rfl
@[simp] theorem updOdo_drive (f : Odometry → Odometry) : (updOdo f s).drive = s.drive := rfl
@[simp] theorem updOdo_doors (f : Odometry → Odometry) : (updOdo f s).doors = s.doors := rfl
@[simp] theorem updOdo_radio (f : Odometry → Odometry) : (updOdo f s).radio = s.radio := rfl
@[simp] theorem updOdo_ports (f : Odometry → Odometry) : (updOdo f s).ports = s.ports := rfl
@[simp] theorem updOdo_memory (f : Odometry → Odometry) : (updOdo f s).memory = s.memory := rfl
@[simp] theorem updOdo_pending (f : Odometry → Odometry) : (updOdo f s).pending = s.pending := rfl

@[simp] theorem updRadio_mode (f : Radio → Radio) : (updRadio f s).mode = s.mode := rfl
@[simp] theorem updRadio_odo (f : Radio → Radio) : (updRadio f s).odo = s.odo := rfl
@[simp] theorem updRadio_store (f : Radio → Radio) : (updRadio f s).store = s.store := rfl
@[simp] theorem updRadio_limits (f : Radio → Radio) : (updRadio f s).limits = s.limits := rfl
@[simp] theorem updRadio_sup (f : Radio → Radio) : (updRadio f s).sup = s.sup := rfl
@[simp] theorem updRadio_dem (f : Radio → Radio) : (updRadio f s).dem = s.dem := rfl
@[simp] theorem updRadio_drive (f : Radio → Radio) : (updRadio f s).drive = s.drive := rfl
@[simp] theorem updRadio_doors (f : Radio → Radio) : (updRadio f s).doors = s.doors := rfl
@[simp] theorem updRadio_radio (f : Radio → Radio) : (updRadio f s).radio = f s.radio := rfl
@[simp] theorem updRadio_ports (f : Radio → Radio) : (updRadio f s).ports = s.ports := rfl
@[simp] theorem updRadio_memory (f : Radio → Radio) : (updRadio f s).memory = s.memory := rfl
@[simp] theorem updRadio_pending (f : Radio → Radio) : (updRadio f s).pending = s.pending := rfl

@[simp] theorem updStore_mode (f : Store → Store) : (updStore f s).mode = s.mode := rfl
@[simp] theorem updStore_odo (f : Store → Store) : (updStore f s).odo = s.odo := rfl
@[simp] theorem updStore_store (f : Store → Store) : (updStore f s).store = f s.store := rfl
@[simp] theorem updStore_limits (f : Store → Store) : (updStore f s).limits = s.limits := rfl
@[simp] theorem updStore_sup (f : Store → Store) : (updStore f s).sup = s.sup := rfl
@[simp] theorem updStore_dem (f : Store → Store) : (updStore f s).dem = s.dem := rfl
@[simp] theorem updStore_drive (f : Store → Store) : (updStore f s).drive = s.drive := rfl
@[simp] theorem updStore_doors (f : Store → Store) : (updStore f s).doors = s.doors := rfl
@[simp] theorem updStore_radio (f : Store → Store) : (updStore f s).radio = s.radio := rfl
@[simp] theorem updStore_ports (f : Store → Store) : (updStore f s).ports = s.ports := rfl
@[simp] theorem updStore_memory (f : Store → Store) : (updStore f s).memory = s.memory := rfl
@[simp] theorem updStore_pending (f : Store → Store) : (updStore f s).pending = s.pending := rfl

@[simp] theorem updDrive_mode (f : BrakeDrive → BrakeDrive) : (updDrive f s).mode = s.mode := rfl
@[simp] theorem updDrive_odo (f : BrakeDrive → BrakeDrive) : (updDrive f s).odo = s.odo := rfl
@[simp] theorem updDrive_store (f : BrakeDrive → BrakeDrive) : (updDrive f s).store = s.store := rfl
@[simp] theorem updDrive_limits (f : BrakeDrive → BrakeDrive) : (updDrive f s).limits = s.limits := rfl
@[simp] theorem updDrive_sup (f : BrakeDrive → BrakeDrive) : (updDrive f s).sup = s.sup := rfl
@[simp] theorem updDrive_dem (f : BrakeDrive → BrakeDrive) : (updDrive f s).dem = s.dem := rfl
@[simp] theorem updDrive_drive (f : BrakeDrive → BrakeDrive) : (updDrive f s).drive = f s.drive := rfl
@[simp] theorem updDrive_doors (f : BrakeDrive → BrakeDrive) : (updDrive f s).doors = s.doors := rfl
@[simp] theorem updDrive_radio (f : BrakeDrive → BrakeDrive) : (updDrive f s).radio = s.radio := rfl
@[simp] theorem updDrive_ports (f : BrakeDrive → BrakeDrive) : (updDrive f s).ports = s.ports := rfl
@[simp] theorem updDrive_memory (f : BrakeDrive → BrakeDrive) : (updDrive f s).memory = s.memory := rfl
@[simp] theorem updDrive_pending (f : BrakeDrive → BrakeDrive) : (updDrive f s).pending = s.pending := rfl

@[simp] theorem withDrive_mode (d : BrakeDrive) : (withDrive d s).mode = s.mode := by simp [withDrive]
@[simp] theorem withDrive_odo (d : BrakeDrive) : (withDrive d s).odo = s.odo := by simp [withDrive]
@[simp] theorem withDrive_store (d : BrakeDrive) : (withDrive d s).store = s.store := by simp [withDrive]
@[simp] theorem withDrive_limits (d : BrakeDrive) : (withDrive d s).limits = s.limits := by simp [withDrive]
@[simp] theorem withDrive_sup (d : BrakeDrive) : (withDrive d s).sup = s.sup := by simp [withDrive]
@[simp] theorem withDrive_dem (d : BrakeDrive) : (withDrive d s).dem = s.dem := by simp [withDrive]
@[simp] theorem withDrive_drive (d : BrakeDrive) : (withDrive d s).drive = d := by simp [withDrive]
@[simp] theorem withDrive_doors (d : BrakeDrive) : (withDrive d s).doors = s.doors := by simp [withDrive]
@[simp] theorem withDrive_radio (d : BrakeDrive) : (withDrive d s).radio = s.radio := by simp [withDrive]
@[simp] theorem withDrive_memory (d : BrakeDrive) : (withDrive d s).memory = s.memory := by simp [withDrive]
@[simp] theorem withDrive_pending (d : BrakeDrive) : (withDrive d s).pending = s.pending := by simp [withDrive]

@[simp] theorem putLink_linkOf (l : LinkPort) (x : Link) : linkOf l (putLink l x s).mode = x := by
  cases l <;> rfl
@[simp] theorem putLink_odo (l : LinkPort) (x : Link) : (putLink l x s).odo = s.odo := by cases l <;> rfl
@[simp] theorem putLink_store (l : LinkPort) (x : Link) : (putLink l x s).store = s.store := by cases l <;> rfl
@[simp] theorem putLink_limits (l : LinkPort) (x : Link) : (putLink l x s).limits = s.limits := by cases l <;> rfl
@[simp] theorem putLink_sup (l : LinkPort) (x : Link) : (putLink l x s).sup = s.sup := by cases l <;> rfl
@[simp] theorem putLink_dem (l : LinkPort) (x : Link) : (putLink l x s).dem = s.dem := by cases l <;> rfl
@[simp] theorem putLink_drive (l : LinkPort) (x : Link) : (putLink l x s).drive = s.drive := by cases l <;> rfl
@[simp] theorem putLink_doors (l : LinkPort) (x : Link) : (putLink l x s).doors = s.doors := by cases l <;> rfl
@[simp] theorem putLink_radio (l : LinkPort) (x : Link) : (putLink l x s).radio = s.radio := by cases l <;> rfl
@[simp] theorem putLink_ports (l : LinkPort) (x : Link) : (putLink l x s).ports = s.ports := by cases l <;> rfl
@[simp] theorem putLink_memory (l : LinkPort) (x : Link) : (putLink l x s).memory = s.memory := by cases l <;> rfl
@[simp] theorem putLink_pending (l : LinkPort) (x : Link) : (putLink l x s).pending = s.pending := by cases l <;> rfl

theorem notice_eq (n : Notice) : notice n s = raise .position (updOdo (fun o => { o with notice := n }) s) :=
  rfl

end

/-! ### One door of four -/

@[simp] theorem doorOf_putDoor (d : DoorId) (x : Door) (q : Quad Door) : doorOf d (putDoor d x q) = x := by
  cases d <;> rfl

theorem doorOf_putDoor_other (d d' : DoorId) (x : Door) (q : Quad Door) (h : d' ≠ d) :
    doorOf d' (putDoor d x q) = doorOf d' q := by
  cases d <;> cases d' <;> first | rfl | exact absurd rfl h

@[simp] theorem doorOf_map (d : DoorId) (f : Door → Door) (q : Quad Door) :
    doorOf d (q.map f) = f (doorOf d q) := by
  cases d <;> rfl

end Sys2Proof.Machine
end

