-- ==== Sys2Proof/Laws/Flags.lean ====
section
/-!
SUPPORT. What raising an event and changing one port do: the flags, the notice lines and everything else of
the ports (R180 to R183).
-/

namespace Sys2Proof.Machine

/-! ### Event sets -/

theorem Event.bit_has (e k : Event) : EventSet.has e.bit k = decide (e = k) := by
  cases e <;> cases k <;> rfl

theorem EventSet.has_or (a b : EventSet) (e : Event) : (a ||| b).has e = (a.has e || b.has e) :=
  BitVec.getLsbD_or

/-- Raising a kind sets its own flag and no other (R180). -/
theorem EventSet.has_or_bit (a : EventSet) (e k : Event) : (a ||| e.bit).has k = (a.has k || decide (e = k)) := by
  rw [EventSet.has_or, Event.bit_has]

/-! ### One port among three -/

@[simp] theorem portOf_raise (p : Port) (e : Event) (s : State) :
    portOf p (raise e s) = (portOf p s).raise e := by
  cases p <;> rfl

@[simp] theorem portOf_updPort (p : Port) (f : PortRec → PortRec) (s : State) :
    portOf p (updPort p f s) = f (portOf p s) := by
  cases p <;> rfl

theorem portOf_updPort_other (p q : Port) (f : PortRec → PortRec) (s : State) (h : q ≠ p) :
    portOf q (updPort p f s) = portOf q s := by
  cases p <;> cases q <;> first | rfl | exact absurd rfl h

/-- Two states with the same ports have the same port records. -/
theorem portOf_congr {s t : State} (h : t.ports = s.ports) (p : Port) : portOf p t = portOf p s := by
  cases p <;> simp only [portOf, h]

/-! ### What is kept -/

theorem PortsKeep.of_eq {may : List Event} {a : Option Port} {s t : State} (h : t.ports = s.ports) :
    PortsKeep may a s t where
  rx p := by rw [portOf_congr h p]
  mask p := by rw [portOf_congr h p]
  framing p := by rw [portOf_congr h p]
  crc p := by rw [portOf_congr h p]
  discarded p := by rw [portOf_congr h p]
  held p _ := by rw [portOf_congr h p]
  stays p e he := by rwa [portOf_congr h p]
  only p e he := Or.inl (by rwa [portOf_congr h p] at he)

theorem PortsKeep.refl (may : List Event) (a : Option Port) (s : State) : PortsKeep may a s s := .of_eq rfl

theorem PortsKeep.trans {may : List Event} {a : Option Port} {s t u : State} (h : PortsKeep may a s t)
    (k : PortsKeep may a t u) : PortsKeep may a s u where
  rx p := (k.rx p).trans (h.rx p)
  mask p := (k.mask p).trans (h.mask p)
  framing p := (k.framing p).trans (h.framing p)
  crc p := (k.crc p).trans (h.crc p)
  discarded p := (k.discarded p).trans (h.discarded p)
  held p hp := (k.held p hp).trans (h.held p hp)
  stays p e he := k.stays p e (h.stays p e he)
  only p e he := (k.only p e he).elim (h.only p e) Or.inr

/-- What is kept for fewer kinds and no answer is kept for more kinds and any answer. -/
theorem PortsKeep.mono {may more : List Event} {a b : Option Port} {s t : State} (h : PortsKeep may a s t)
    (hm : ∀ e ∈ may, e ∈ more) (ha : a = none ∨ a = b) : PortsKeep more b s t where
  rx := h.rx
  mask := h.mask
  framing := h.framing
  crc := h.crc
  discarded := h.discarded
  held p hp := h.held p (by rcases ha with rfl | rfl <;> simp_all)
  stays := h.stays
  only p e he := (h.only p e he).imp_right (hm e)

theorem PortsKeep.raise {may : List Event} {a : Option Port} (e : Event) (s : State) (he : e ∈ may) :
    PortsKeep may a s (Machine.raise e s) where
  rx p := by rw [portOf_raise]; rfl
  mask p := by rw [portOf_raise]; rfl
  framing p := by rw [portOf_raise]; rfl
  crc p := by rw [portOf_raise]; rfl
  discarded p := by rw [portOf_raise]; rfl
  held p _ := by rw [portOf_raise]; rfl
  stays p k hk := by
    rw [portOf_raise]
    exact (EventSet.has_or_bit _ e k).trans (by simp [hk])
  only p k hk := by
    rw [portOf_raise] at hk
    have := (EventSet.has_or_bit (portOf p s).raw e k).symm.trans hk
    rcases (Bool.or_eq_true _ _ ▸ this : _ ∨ _) with h | h
    · exact Or.inl h
    · exact Or.inr (of_decide_eq_true h ▸ he)

theorem PortsKeep.raiseIf {may : List Event} {a : Option Port} (c : Bool) (e : Event) (s : State)
    (he : c = true → e ∈ may) : PortsKeep may a s (Machine.raiseIf c e s) := by
  cases c
  · exact .refl may a s
  · exact .raise e s (he rfl)

/-- The same from a state that has the same ports. -/
theorem PortsKeep.raise_of {may : List Event} {a : Option Port} {s v : State} (e : Event) (h : v.ports = s.ports)
    (he : e ∈ may) : PortsKeep may a s (Machine.raise e v) := (PortsKeep.of_eq h).trans (.raise e v he)

theorem PortsKeep.raiseIf_of {may : List Event} {a : Option Port} {s v : State} (c : Bool) (e : Event)
    (h : v.ports = s.ports) (he : e ∈ may) : PortsKeep may a s (Machine.raiseIf c e v) :=
  (PortsKeep.of_eq h).trans (.raiseIf c e v fun _ => he)

/-- Changing one port's held request keeps everything else of the ports. -/
theorem PortsKeep.updHeld {may : List Event} (p : Port) (x : Option Held) (s : State) :
    PortsKeep may (some p) s (Machine.updPort p (fun r => { r with held := x }) s) := by
  have other : ∀ q, q ≠ p → portOf q (Machine.updPort p (fun r => { r with held := x }) s) = portOf q s :=
    fun q h => portOf_updPort_other p q _ s h
  have keep : ∀ q (α : Type) (g : PortRec → α), (∀ r : PortRec, g { r with held := x } = g r) →
      g (portOf q (Machine.updPort p (fun r => { r with held := x }) s)) = g (portOf q s) := by
    intro q α g hg
    by_cases h : q = p
    · subst h; rw [portOf_updPort]; exact hg _
    · rw [other q h]
  exact
    { rx := fun q => keep q _ PortRec.rx fun _ => rfl
      mask := fun q => keep q _ PortRec.mask fun _ => rfl
      framing := fun q => keep q _ PortRec.framingErrors fun _ => rfl
      crc := fun q => keep q _ PortRec.crcErrors fun _ => rfl
      discarded := fun q => keep q _ PortRec.discarded fun _ => rfl
      held := fun q hq => by rw [other q fun h => hq (by rw [h])]
      stays := fun q e he => by rwa [keep q _ PortRec.raw fun _ => rfl]
      only := fun q e he => Or.inl (by rwa [keep q _ PortRec.raw fun _ => rfl] at he) }

/-- A port's answer, and nothing else of the ports, is changed by holding it. -/
theorem PortsKeep.holdAnswer {may : List Event} (p : Port) (code : Byte) (r : State × Reply) :
    PortsKeep may (some p) r.1 (Machine.holdAnswer p code r) := .updHeld p _ r.1

/-- A raised event stands in every port. -/
theorem raisedAll_raise (e : Event) (s : State) : raisedAll e (raise e s) := by
  intro p
  rw [portOf_raise]
  exact (EventSet.has_or_bit _ e e).trans (by simp)

theorem raisedAll.mono {e : Event} {may : List Event} {a : Option Port} {s t : State} (h : raisedAll e s)
    (k : PortsKeep may a s t) : raisedAll e t := fun p => k.stays p e (h p)

@[simp] theorem answerOf_holdAnswer (p : Port) (code : Byte) (r : State × Reply) :
    answerOf p (holdAnswer p code r) = some r.2 := by
  simp [answerOf, holdAnswer]

/-! ### The notice lines -/

theorem PortRec.withFlags_notice (r : PortRec) (raw mask : EventSet) :
    (r.withFlags raw mask).notice = noticeOf (r.withFlags raw mask).raw (r.withFlags raw mask).mask := rfl

/-- The notice line as its two flag sets give it (R183). -/
theorem noticeOf_iff (raw mask : EventSet) :
    noticeOf raw mask = true ↔ ∃ e : Event, raw.has e = true ∧ mask.has e = true := by
  have all : ∀ i : Nat, i < 18 → ∃ e : Event, e.index = i := by
    intro i h
    interval_cases i
    exacts [⟨.mode, rfl⟩, ⟨.authority, rfl⟩, ⟨.link, rfl⟩, ⟨.emergency, rfl⟩, ⟨.supervision, rfl⟩, ⟨.brakeState, rfl⟩,
      ⟨.brakeTest, rfl⟩, ⟨.doors, rfl⟩, ⟨.doorFault, rfl⟩, ⟨.restrictions, rfl⟩, ⟨.permit, rfl⟩, ⟨.radio, rfl⟩,
      ⟨.inbox, rfl⟩, ⟨.inboxLow, rfl⟩, ⟨.counterAlert, rfl⟩, ⟨.position, rfl⟩, ⟨.profile, rfl⟩, ⟨.alarm, rfl⟩]
  have both : ∀ e : Event, (raw &&& mask).getLsbD e.index = (raw.has e && mask.has e) := fun e => BitVec.getLsbD_and
  unfold noticeOf
  rw [bne_iff_ne]
  constructor
  · intro h
    by_contra hn
    refine h (BitVec.eq_of_getLsbD_eq fun i hi => ?_)
    obtain ⟨e, rfl⟩ := all i hi
    rw [both]
    refine (Bool.eq_false_iff.mpr fun k => hn ⟨e, ?_⟩).trans BitVec.getLsbD_zero.symm
    exact (Bool.and_eq_true _ _ ▸ k : _ ∧ _)
  · rintro ⟨e, hr, hm⟩ h
    have := both e
    rw [h, hr, hm] at this
    simp at this

/-- A notice line that stands as its flags have it (R183). -/
theorem NoticesFollow.of_notice {s : State} (h : ∀ p, (portOf p s).notice = noticeOf (portOf p s).raw (portOf p s).mask) :
    NoticesFollow s := fun p => by rw [h p]; exact noticeOf_iff _ _

theorem NoticesFollow.notice {s : State} (h : NoticesFollow s) (p : Port) :
    (portOf p s).notice = noticeOf (portOf p s).raw (portOf p s).mask :=
  Bool.eq_iff_iff.mpr ((h p).trans (noticeOf_iff _ _).symm)

/-- Raising an event leaves every notice line as its flags have it, whatever it was (R183). -/
theorem NoticesFollow.raise (e : Event) (s : State) : NoticesFollow (Machine.raise e s) := by
  refine .of_notice fun p => ?_
  rw [portOf_raise]
  rfl

theorem NoticesFollow.raiseIf {s : State} (h : NoticesFollow s) (c : Bool) (e : Event) :
    NoticesFollow (Machine.raiseIf c e s) := by
  cases c
  · exact h
  · exact .raise e s

theorem NoticesFollow.of_eq {s t : State} (h : NoticesFollow s) (hp : t.ports = s.ports) : NoticesFollow t := by
  intro p
  rw [portOf_congr hp p]
  exact h p

/-- A port changed by a function that keeps its notice line with its flags. -/
theorem NoticesFollow.updPort {s : State} (h : NoticesFollow s) (p : Port) (f : PortRec → PortRec)
    (hf : ∀ r : PortRec, r.notice = noticeOf r.raw r.mask → (f r).notice = noticeOf (f r).raw (f r).mask) :
    NoticesFollow (Machine.updPort p f s) := by
  refine .of_notice fun q => ?_
  by_cases hq : q = p
  · subst hq
    rw [portOf_updPort]
    exact hf _ (h.notice q)
  · rw [portOf_updPort_other _ _ _ _ hq]
    exact h.notice q

end Sys2Proof.Machine
end

