-- ==== Sys2Proof/Laws/Braking.lean ====
section
/-!
SUPPORT. What a writing of the demand rows does, said once (`writeRows_written`), and the same of each step of
the cascade below it: the mapping, the end of a test, the latch, the driven kind (R96, R97, R112, R125).
-/

namespace Sys2Proof.Machine

/-! ### What the cascade keeps -/

theorem Keeps.refl (l : List Block) (s : State) : Keeps l s s := by
  intro b _
  cases b <;> rfl

theorem Block.same.trans {s t u : State} {b : Block} (h : b.same s t) (k : b.same t u) : b.same s u := by
  cases b <;> exact Eq.trans k h

theorem Keeps.trans {l : List Block} {s t u : State} (h : Keeps l s t) (k : Keeps l t u) : Keeps l s u :=
  fun b hb => (h b hb).trans (k b hb)

theorem Keeps.mono {l m : List Block} {s t : State} (h : Keeps l s t) (hm : ∀ b ∈ m, b ∈ l) : Keeps m s t :=
  fun b hb => h b (hm b hb)

theorem DriveKeeps.refl (d : BrakeDrive) : DriveKeeps d d := ⟨rfl, rfl, rfl, rfl, rfl, rfl, rfl, rfl⟩

theorem DriveKeeps.trans {d e f : BrakeDrive} (h : DriveKeeps d e) (k : DriveKeeps e f) : DriveKeeps d f :=
  ⟨k.1.trans h.1, k.2.trans h.2, k.3.trans h.3, k.4.trans h.4, k.5.trans h.5, k.6.trans h.6, k.7.trans h.7,
    k.8.trans h.8⟩

/-- The blocks that no part of the cascade touches. -/
def farBlocks : List Block := [.mode, .odo, .store, .limits, .sup, .doors, .radio, .memory, .pending]

/-- What every step of the cascade keeps. -/
structure Cascade (s t : State) : Prop where
  rows : t.dem.rows = s.dem.rows
  alarm : t.dem.alarm = s.dem.alarm
  handles : t.dem.handles = s.dem.handles
  keeps : Keeps farBlocks s t
  drive : DriveKeeps s.drive t.drive
  ports : PortsKeep rowEvents none s t

theorem Cascade.refl (s : State) : Cascade s s := ⟨rfl, rfl, rfl, .refl _ _, .refl _, .refl _ _ _⟩

theorem Cascade.trans {s t u : State} (h : Cascade s t) (k : Cascade t u) : Cascade s u :=
  ⟨k.rows.trans h.rows, k.alarm.trans h.alarm, k.handles.trans h.handles, h.keeps.trans k.keeps,
    h.drive.trans k.drive, h.ports.trans k.ports⟩

theorem Keeps.raise (l : List Block) (e : Event) (s : State) (h : Block.ports ∉ l) :
    Keeps l s (Machine.raise e s) := by
  intro b hb
  cases b <;> first | rfl | exact absurd hb h

theorem Keeps.raiseIf (l : List Block) (c : Bool) (e : Event) (s : State) (h : Block.ports ∉ l) :
    Keeps l s (Machine.raiseIf c e s) := by
  cases c
  · exact .refl l s
  · exact .raise l e s h

/-- Only the drive and the flags of one kind are changed. -/
theorem Cascade.of_raiseIf {s u : State} (c : Bool) (e : Event) (he : e ∈ rowEvents)
    (h : Cascade s u) : Cascade s (raiseIf c e u) where
  rows := by rw [raiseIf_dem]; exact h.rows
  alarm := by rw [raiseIf_dem]; exact h.alarm
  handles := by rw [raiseIf_dem]; exact h.handles
  keeps := h.keeps.trans (.raiseIf _ c e u (by decide))
  drive := by rw [raiseIf_drive]; exact h.drive
  ports := h.ports.trans (.raiseIf c e u fun _ => he)

theorem Cascade.of_drive (s : State) (d : BrakeDrive) (h : DriveKeeps s.drive d) :
    Cascade s { s with drive := d } where
  rows := rfl
  alarm := rfl
  handles := rfl
  keeps := by intro b hb; cases b <;> first | rfl | exact absurd hb (by decide)
  drive := h
  ports := .of_eq rfl

theorem Cascade.withDrive (s : State) (d : BrakeDrive) (h : DriveKeeps s.drive d) :
    Cascade s (withDrive d s) :=
  (Cascade.of_drive s d h).of_raiseIf _ _ (by decide)

/-! ### The outputs -/

theorem BrakeDrive.form_keeps (p : Params) (n : Nat) (d : BrakeDrive) : DriveKeeps d (d.form p n) :=
  ⟨rfl, rfl, rfl, rfl, rfl, rfl, rfl, rfl⟩

theorem BrakeDrive.atLevel_keeps (p : Params) (n : Nat) (d : BrakeDrive) : DriveKeeps d (d.atLevel p n) := by
  unfold BrakeDrive.atLevel
  split
  · exact .refl d
  · exact d.form_keeps p n

theorem BrakeDrive.atValve_keeps (v : Valve) (d : BrakeDrive) : DriveKeeps d (d.atValve v) := by
  unfold BrakeDrive.atValve
  split
  · exact .refl d
  · exact ⟨rfl, rfl, rfl, rfl, rfl, rfl, rfl, rfl⟩

theorem BrakeDrive.startService_keeps (p : Params) (d : BrakeDrive) : DriveKeeps d (d.startService p) :=
  ⟨rfl, rfl, rfl, rfl, rfl, rfl, rfl, rfl⟩

theorem BrakeDrive.startSpring_keeps (d : BrakeDrive) : DriveKeeps d d.startSpring :=
  ⟨rfl, rfl, rfl, rfl, rfl, rfl, rfl, rfl⟩

theorem BrakeDrive.command_keeps (p : Params) (n : Nat) (v : Valve) (a b : Bool) (d : BrakeDrive) :
    DriveKeeps d (d.command p n v a b) := by
  have h := (d.atLevel_keeps p n).trans ((d.atLevel p n).atValve_keeps v)
  unfold BrakeDrive.command
  cases a <;> cases b
  · exact h
  · exact h.trans (startSpring_keeps _)
  · exact h.trans (startService_keeps p _)
  · exact (h.trans (startService_keeps p _)).trans (startSpring_keeps _)

/-- The level and the valve that outputs are commanded at. -/
theorem BrakeDrive.command_outputs (p : Params) (n : Nat) (v : Valve) (a b : Bool) (d : BrakeDrive) :
    (d.command p n v a b).level = n ∧ (d.command p n v a b).valve = v := by
  have hl : (d.atLevel p n).level = n := by
    unfold BrakeDrive.atLevel
    split
    · rename_i h; exact h.symm
    · rfl
  have hv : ∀ e : BrakeDrive, (e.atValve v).level = e.level ∧ (e.atValve v).valve = v := by
    intro e
    unfold BrakeDrive.atValve
    split
    · rename_i h; exact ⟨rfl, h.symm⟩
    · exact ⟨rfl, rfl⟩
  have h := hv (d.atLevel p n)
  rw [hl] at h
  unfold BrakeDrive.command
  cases a <;> cases b <;> exact h

/-- Commanding outputs leaves the output source, the test and its record. -/
theorem BrakeDrive.command_source (p : Params) (n : Nat) (v : Valve) (a b : Bool) (d : BrakeDrive) :
    (d.command p n v a b).source = d.source ∧ (d.command p n v a b).testStep = d.testStep ∧
      (d.command p n v a b).testRecord = d.testRecord := by
  have hl : (d.atLevel p n).source = d.source ∧ (d.atLevel p n).testStep = d.testStep ∧
      (d.atLevel p n).testRecord = d.testRecord := by
    unfold BrakeDrive.atLevel
    split <;> exact ⟨rfl, rfl, rfl⟩
  have hv : ∀ e : BrakeDrive, (e.atValve v).source = e.source ∧ (e.atValve v).testStep = e.testStep ∧
      (e.atValve v).testRecord = e.testRecord := by
    intro e
    unfold BrakeDrive.atValve
    split <;> exact ⟨rfl, rfl, rfl⟩
  have h := hv (d.atLevel p n)
  rw [hl.1, hl.2.1, hl.2.2] at h
  unfold BrakeDrive.command
  cases a <;> cases b <;> exact h

/-- What commanding outputs forms (R112 to R114, R119). -/
theorem BrakeDrive.command_formed (p : Params) (n : Nat) (v : Valve) (a b : Bool) (d : BrakeDrive) :
    OutputsFormed p (n, v) d (d.command p n v a b) := by
  have o := d.command_outputs p n v a b
  have base : ∀ e : BrakeDrive, (e.atValve v).target = e.target ∧ (e.atValve v).duty = e.duty ∧
      (e.atValve v).springStuck =
        if e.valve = .energized ∧ v = .deEnergized then false else e.springStuck := by
    intro e
    unfold BrakeDrive.atValve
    split
    · rename_i h
      refine ⟨rfl, rfl, ?_⟩
      rw [h]
      cases e.valve <;> rfl
    · refine ⟨rfl, rfl, ?_⟩
      cases hv : e.valve <;> cases v <;> simp_all
  have lvl : (d.atLevel p n).target = (if n = d.level then d.target else targetOf p n) ∧
      (d.atLevel p n).duty = (if n = d.level then d.duty else dutyOf p.valve (targetOf p n)) ∧
      (d.atLevel p n).valve = d.valve ∧ (d.atLevel p n).springStuck = d.springStuck := by
    unfold BrakeDrive.atLevel
    split
    · exact ⟨rfl, rfl, rfl, rfl⟩
    · exact ⟨rfl, rfl, rfl, rfl⟩
  have all : (d.command p n v a b).target = (if n = d.level then d.target else targetOf p n) ∧
      (d.command p n v a b).duty = (if n = d.level then d.duty else dutyOf p.valve (targetOf p n)) ∧
      (d.command p n v a b).springStuck =
        if d.valve = .energized ∧ v = .deEnergized then false else d.springStuck := by
    have h := base (d.atLevel p n)
    rw [lvl.1, lvl.2.1, lvl.2.2.1, lvl.2.2.2] at h
    unfold BrakeDrive.command
    cases a <;> cases b <;> exact h
  refine ⟨Prod.ext o.1 o.2, fun h => ?_, fun h => ?_, by rw [o.2]; exact all.2.2, d.command_keeps p n v a b⟩
  · rw [o.1] at h
    exact ⟨by rw [all.1, if_pos h], by rw [all.2.1, if_pos h]⟩
  · rw [o.1] at h
    exact ⟨by rw [all.1, if_neg h, o.1], by rw [all.2.1, all.1, if_neg h, if_neg h]⟩

/-- The checks that outputs commanded leave (R116, R119, R120). -/
theorem BrakeDrive.command_checks (p : Params) (n : Nat) (v : Valve) (a b : Bool) (d : BrakeDrive) :
    (d.command p n v a b).serviceCheck =
      (if a then serviceStarted p (d.command p n v a b).target else d.serviceCheck) ∧
    (d.command p n v a b).springCheck = if b then springStarted v else d.springCheck := by
  have hv : ((d.atLevel p n).atValve v).valve = v := (d.command_outputs p n v false false).2
  have hc : ((d.atLevel p n).atValve v).serviceCheck = d.serviceCheck ∧
      ((d.atLevel p n).atValve v).springCheck = d.springCheck := by
    unfold BrakeDrive.atValve BrakeDrive.atLevel
    split <;> split <;> exact ⟨rfl, rfl⟩
  have hs : ∀ e : BrakeDrive, e.valve = v → e.startSpring.springCheck = springStarted v := by
    intro e h
    unfold BrakeDrive.startSpring
    rw [h]
    cases v <;> rfl
  cases a <;> cases b
  · exact hc
  · exact ⟨hc.1, hs _ hv⟩
  · exact ⟨rfl, hc.2⟩
  · exact ⟨rfl, hs _ hv⟩

/-- What follows and leaves the outputs, the checks and what no change of the outputs touches leaves them formed so. -/
theorem OutputsFormed.then_test {p : Params} {o : Nat × Valve} {d e : BrakeDrive} (h : OutputsFormed p o d e)
    (q : OutputSource) (x : Option TestStep) (r : TestRecord) :
    OutputsFormed p o d { e with source := q, testStep := x, testRecord := r } :=
  ⟨h.1, h.2, h.3, h.4, h.5.trans ⟨rfl, rfl, rfl, rfl, rfl, rfl, rfl, rfl⟩⟩

/-- SPRING_STUCK cleared with the drive replaced raises BRAKE_STATE (R119). -/
theorem withDrive_unstuck (d : BrakeDrive) (s : State) (h : s.drive.springStuck = true)
    (k : d.springStuck = false) : raisedAll .brakeState (withDrive d s) := by
  have : withDrive d s = raise .brakeState { s with drive := d } := by simp [withDrive, raiseIf, h, k]
  rw [this]
  exact raisedAll_raise _ _

theorem applyMapping_followed (s : State) : MappingFollowed s.store.params
    (mappedOutputs s.dem.driven s.odo.standstill) s.drive (applyMapping s).drive := by
  let o := mappedOutputs s.dem.driven s.odo.standstill
  let d := (s.drive.atLevel s.store.params o.1).atValve o.2
  let a := !(d.target = s.drive.target : Bool)
  let b := !(d.valve = s.drive.valve : Bool)
  have e : (applyMapping s).drive = s.drive.command s.store.params o.1 o.2 a b := by simp [applyMapping, a, b, d, o]
  have f := s.drive.command_formed s.store.params o.1 o.2 a b
  have c := s.drive.command_checks s.store.params o.1 o.2 a b
  have q := s.drive.command_source s.store.params o.1 o.2 a b
  have t : ∀ x y, (s.drive.command s.store.params o.1 o.2 x y).target = d.target ∧
      (s.drive.command s.store.params o.1 o.2 x y).valve = d.valve := by
    intro x y
    cases x <;> cases y <;> exact ⟨rfl, rfl⟩
  rw [e]
  refine ⟨f, ?_, ?_, q⟩
  · rw [c.1, (t a b).1]
    by_cases h : d.target = s.drive.target <;> simp [a, h]
  · rw [c.2, (t a b).2]
    have hv : d.valve = o.2 := (s.drive.command_outputs s.store.params o.1 o.2 false false).2
    by_cases h : d.valve = s.drive.valve
    · simp [b, h]
    · simp only [b, h, decide_false, Bool.not_false, if_true, if_false]
      rw [← hv]

theorem takeMapping_taken (s : State) : MappingTaken s.store.params
    (mappedOutputs s.dem.driven s.odo.standstill) s.drive (takeMapping s).drive := by
  let o := mappedOutputs s.dem.driven s.odo.standstill
  have e : (takeMapping s).drive =
      { s.drive.command s.store.params o.1 o.2 true true with
        source := .mapping, testStep := none, testRecord := s.drive.testRecord } := by
    have q := s.drive.command_source s.store.params o.1 o.2 true true
    simp [takeMapping, o, ← q.2.2]
  have f := s.drive.command_formed s.store.params o.1 o.2 true true
  have c := s.drive.command_checks s.store.params o.1 o.2 true true
  have v := s.drive.command_outputs s.store.params o.1 o.2 true true
  rw [e]
  exact ⟨f.then_test _ _ _, c.1, c.2.trans (by simp only [v.2, if_true]), rfl, rfl, rfl⟩

theorem applyMapping_unstuck (s : State) (h : s.drive.springStuck = true)
    (k : (applyMapping s).drive.springStuck = false) : raisedAll .brakeState (applyMapping s) :=
  withDrive_unstuck _ s h (by simpa [applyMapping] using k)

theorem takeMapping_unstuck (s : State) (h : s.drive.springStuck = true)
    (k : (takeMapping s).drive.springStuck = false) : raisedAll .brakeState (takeMapping s) :=
  withDrive_unstuck _ s h (by simpa [takeMapping] using k)

theorem applyMapping_cascade (s : State) : Cascade s (applyMapping s) :=
  .withDrive s _ (s.drive.command_keeps _ _ _ _ _)

theorem takeMapping_cascade (s : State) : Cascade s (takeMapping s) := by
  refine .withDrive s _ ((s.drive.command_keeps s.store.params (mappedOutputs s.dem.driven s.odo.standstill).1
    (mappedOutputs s.dem.driven s.odo.standstill).2 true true).trans ⟨rfl, rfl, rfl, rfl, rfl, rfl, rfl, rfl⟩)

theorem handDriven_cascade (s : State) : Cascade s (handDriven s) := by
  unfold handDriven
  split
  · exact applyMapping_cascade s
  · exact takeMapping_cascade s
  · exact .refl s

@[simp] theorem applyMapping_dem (s : State) : (applyMapping s).dem = s.dem := by
  simp [applyMapping]

@[simp] theorem takeMapping_dem (s : State) : (takeMapping s).dem = s.dem := by
  simp [takeMapping]

@[simp] theorem handDriven_dem (s : State) : (handDriven s).dem = s.dem := by
  unfold handDriven
  split <;> simp

/-! ### The driven kind and the latch -/

theorem refreshDriven_cascade (s : State) : Cascade s (refreshDriven s) := by
  unfold refreshDriven
  simp only
  split
  · exact .refl s
  · refine Cascade.trans ?_ (handDriven_cascade _)
    refine Cascade.of_raiseIf true .brakeState (by decide) ⟨rfl, rfl, rfl, ?_, .refl _, .of_eq rfl⟩
    intro b hb
    cases b <;> first | rfl | exact absurd hb (by decide)

/-- The driven kind stands as the latch and the rows have it once it has been formed anew (R96). -/
@[simp] theorem refreshDriven_driven (s : State) :
    (refreshDriven s).dem.driven = drivenOf s.dem.latch s.dem.rows := by
  unfold refreshDriven
  simp only
  split
  · rename_i h; exact h.symm
  · simp

@[simp] theorem refreshDriven_latch (s : State) : (refreshDriven s).dem.latch = s.dem.latch := by
  unfold refreshDriven
  simp only
  split
  · rfl
  · simp

/-- The traction inhibit follows a change of the driven kind (R108). -/
theorem refreshDriven_traction (s : State) :
    (refreshDriven s).dem.traction = if (refreshDriven s).dem.driven = s.dem.driven then s.dem.traction
      else !((refreshDriven s).dem.driven = .none) := by
  rw [refreshDriven_driven]
  unfold refreshDriven
  simp only
  split
  · rfl
  · simp

/-- A change of the driven kind raises BRAKE_STATE (R96). -/
theorem refreshDriven_raises (s : State) (h : (refreshDriven s).dem.driven ≠ s.dem.driven) :
    raisedAll .brakeState (refreshDriven s) := by
  rw [refreshDriven_driven] at h
  unfold refreshDriven
  simp only [h, if_false]
  exact (raisedAll_raise _ _).mono (handDriven_cascade _).ports

theorem abortTest_cascade (c : AbortCause) (s : State) : Cascade s (abortTest c s) := by
  unfold abortTest
  split
  · refine Cascade.of_raiseIf true _ (by decide) (Cascade.withDrive s _ ?_)
    exact (s.drive.command_keeps s.store.params 1000 .deEnergized true
      (!(s.drive.valve = .deEnergized))).trans ⟨rfl, rfl, rfl, rfl, rfl, rfl, rfl, rfl⟩
  · exact .refl s

@[simp] theorem abortTest_dem (c : AbortCause) (s : State) : (abortTest c s).dem = s.dem := by
  unfold abortTest
  split <;> simp

theorem setLatch_cascade (s : State) : Cascade s (setLatch s) := by
  unfold setLatch
  split
  · exact .refl s
  · exact Cascade.of_raiseIf true _ (by decide) ⟨rfl, rfl, rfl,
      fun b hb => by cases b <;> first | rfl | exact absurd hb (by decide), .refl _, .of_eq rfl⟩

@[simp] theorem setLatch_latch (s : State) : (setLatch s).dem.latch = true := by
  unfold setLatch
  split
  · assumption
  · simp

@[simp] theorem setLatch_driven (s : State) : (setLatch s).dem.driven = s.dem.driven := by
  unfold setLatch
  split <;> simp

@[simp] theorem setLatch_traction (s : State) : (setLatch s).dem.traction = s.dem.traction := by
  unfold setLatch
  split <;> simp

theorem setLatch_raises (s : State) (h : s.dem.latch = false) : raisedAll .emergency (setLatch s) := by
  unfold setLatch
  rw [h]
  exact raisedAll_raise _ _

theorem rowEmergency_cascade (s : State) : Cascade s (rowEmergency s) :=
  (abortTest_cascade _ s).trans (setLatch_cascade _)

/-- A running test ended by an abort, on the brake drive (R125). -/
theorem abortTest_held (c : AbortCause) (s : State) (h : s.drive.source = .test) :
    HoldTaken s.store.params (match c with | .composition => .notRun true | _ => .aborted c) s.drive
      (abortTest c s).drive := by
  let b := !(s.drive.valve = .deEnergized : Bool)
  let r : TestRecord := match c with | .composition => .notRun true | _ => .aborted c
  have e : (abortTest c s).drive = { s.drive.command s.store.params 1000 .deEnergized true b with
      source := .abortHold, testStep := none, testRecord := r } := by
    simp only [abortTest, h, ite_true]
    cases c <;> simp [b, r]
  have f := s.drive.command_formed s.store.params 1000 .deEnergized true b
  have k := s.drive.command_checks s.store.params 1000 .deEnergized true b
  have v := s.drive.command_outputs s.store.params 1000 .deEnergized true b
  rw [e]
  refine ⟨f.then_test _ _ _, k.1, k.2.trans ?_, rfl, rfl, rfl⟩
  simp only [v.2]
  by_cases hv : s.drive.valve = .deEnergized
  · simp [b, hv]
  · simp [b, hv, Ne.symm hv]

theorem abortTest_unstuck (c : AbortCause) (s : State) (h : s.drive.springStuck = true)
    (k : (abortTest c s).drive.springStuck = false) : raisedAll .brakeState (abortTest c s) := by
  by_cases hs : s.drive.source = .test
  · simp only [abortTest, hs, ite_true] at k ⊢
    refine (withDrive_unstuck _ s h ?_).mono
      (PortsKeep.raise (may := [.brakeTest]) (a := none) .brakeTest _ (by decide))
    simpa using k
  · have e : abortTest c s = s := by simp only [abortTest, hs, if_false]
    rw [e, h] at k
    cases k

theorem abortTest_raises (c : AbortCause) (s : State) (h : s.drive.source = .test) :
    raisedAll .brakeTest (abortTest c s) := by
  simp only [abortTest, h, ite_true]
  exact raisedAll_raise _ _

/-- The driven kind formed anew, on the brake drive, where no test runs or none is ended (R112, R125). -/
theorem refreshDriven_outputs (s : State) : DriveFollows s.store.params s.odo.standstill false s.dem.driven
    (refreshDriven s).dem.driven s.drive (refreshDriven s).drive := by
  rw [refreshDriven_driven]
  let k := drivenOf s.dem.latch s.dem.rows
  let u := raise .brakeState { s with dem := { s.dem with driven := k, traction := !(k = .none) } }
  by_cases hk : k = s.dem.driven
  · have e : refreshDriven s = s := by simp only [refreshDriven, k] at hk ⊢; simp [hk]
    rw [e]
    exact ⟨fun _ _ => rfl, fun h => absurd hk h, fun h => absurd hk h, fun _ _ => rfl, fun _ h => by cases h⟩
  · have e : refreshDriven s = handDriven u := by simp only [refreshDriven, k, u] at hk ⊢; simp [hk]
    rw [e]
    refine ⟨fun h => absurd h hk, fun _ hs => ?_, fun _ hs => ?_, fun hs _ => ?_, fun _ h => by cases h⟩
    · have : handDriven u = applyMapping u := by
        unfold handDriven
        rw [show u.drive.source = .mapping from hs]
      rw [this]
      exact applyMapping_followed u
    · have : handDriven u = takeMapping u := by
        unfold handDriven
        rw [show u.drive.source = .abortHold from hs]
      rw [this]
      exact takeMapping_taken u
    · have : handDriven u = u := by
        unfold handDriven
        rw [show u.drive.source = .test from hs]
      rw [this]
      rfl

theorem refreshDriven_unstuck (s : State) (h : s.drive.springStuck = true)
    (k : (refreshDriven s).drive.springStuck = false) : raisedAll .brakeState (refreshDriven s) := by
  by_cases hd : (refreshDriven s).dem.driven = s.dem.driven
  · rw [refreshDriven_driven] at hd
    have e : refreshDriven s = s := by unfold refreshDriven; simp only [hd, if_true]
    rw [e, h] at k
    cases k
  · exact refreshDriven_raises s hd

/-! ### The rows -/

theorem refreshDriven_unmoved (s : State) (h : (refreshDriven s).dem.driven = s.dem.driven) :
    refreshDriven s = s := by
  rw [refreshDriven_driven] at h
  unfold refreshDriven
  simp only [h, if_true]

/-- The outputs after the driven kind has been handed on, where the mapping then commands them (R112, R125). -/
theorem handDriven_mapped (s : State) (h : (handDriven s).drive.source = .mapping) :
    ((handDriven s).drive.level, (handDriven s).drive.valve) = mappedOutputs s.dem.driven s.odo.standstill := by
  unfold handDriven at h ⊢
  split at h
  · have o := s.drive.command_outputs s.store.params (mappedOutputs s.dem.driven s.odo.standstill).1
    simp [applyMapping, o]
  · have o := s.drive.command_outputs s.store.params (mappedOutputs s.dem.driven s.odo.standstill).1
    simp [takeMapping, o]
  · rename_i hs
    rw [hs] at h
    cases h

theorem refreshDriven_mapped (s : State) (h : (refreshDriven s).dem.driven ≠ s.dem.driven)
    (hm : (refreshDriven s).drive.source = .mapping) :
    ((refreshDriven s).drive.level, (refreshDriven s).drive.valve) =
      mappedOutputs (refreshDriven s).dem.driven s.odo.standstill := by
  rw [refreshDriven_driven] at h ⊢
  unfold refreshDriven at hm ⊢
  simp only [h, if_false] at hm ⊢
  exact handDriven_mapped _ hm

theorem handDriven_record (s : State) : (handDriven s).drive.testRecord = s.drive.testRecord ∧
    (s.drive.testStep = none → (handDriven s).drive.testStep = none) := by
  unfold handDriven
  split
  · have o := s.drive.command_source s.store.params (mappedOutputs s.dem.driven s.odo.standstill).1
    exact ⟨by simp [applyMapping, o], fun h => by simp [applyMapping, o, h]⟩
  · have o := s.drive.command_source s.store.params (mappedOutputs s.dem.driven s.odo.standstill).1
    exact ⟨by simp [takeMapping, o], fun _ => by simp [takeMapping]⟩
  · exact ⟨rfl, id⟩

theorem refreshDriven_record (s : State) : (refreshDriven s).drive.testRecord = s.drive.testRecord ∧
    (s.drive.testStep = none → (refreshDriven s).drive.testStep = none) := by
  unfold refreshDriven
  simp only
  split
  · exact ⟨rfl, id⟩
  · exact handDriven_record _

@[simp] theorem setLatch_drive (s : State) : (setLatch s).drive = s.drive := by
  unfold setLatch
  split <;> rfl

/-- What the end of a test leaves of it (R125). -/
theorem abortTest_test (c : AbortCause) (s : State) (h : s.drive.source = .test) :
    (abortTest c s).drive.testStep = none ∧ (abortTest c s).drive.source = .abortHold ∧
    (abortTest c s).drive.testRecord = match c with
      | .composition => .notRun true
      | _ => .aborted c := by
  unfold abortTest
  simp only [h, if_true]
  exact ⟨by simp, by simp, by cases c <;> simp⟩

theorem abortTest_untested (c : AbortCause) (s : State) (h : s.drive.source ≠ .test) : abortTest c s = s := by
  unfold abortTest
  simp only [h, if_false]

/-- What a writing of the rows does (R95 to R97, R108, R112, R125). -/
theorem writeRows_written (new : Rows) (s : State) : RowsWritten new s (writeRows new s) := by
  let u : State := { s with dem := { s.dem with rows := new } }
  let f := becomesEmergency s.dem.rows new
  let v := if f then rowEmergency u else u
  have hw : writeRows new s = refreshDriven v := rfl
  have huv : Cascade u v := by
    by_cases h : f = true
    · simp only [v, h, if_true]; exact rowEmergency_cascade u
    · simp only [v, h]; exact .refl u
  have hl : v.dem.latch = (s.dem.latch || f) := by
    by_cases h : f = true
    · simp [v, h, rowEmergency]
    · simp [v, h, u]
  have hd : v.dem.driven = s.dem.driven ∧ v.dem.traction = s.dem.traction := by
    by_cases h : f = true
    · simp [v, h, rowEmergency, u]
    · simp [v, h, u]
  have hun : s.drive.source ≠ .test → v.drive = s.drive := fun hs => by
    by_cases h : f = true
    · simp only [v, h, if_true, rowEmergency, setLatch_drive]
      rw [abortTest_untested _ u hs]
    · simp [v, h, u]
  have hodo : v.odo = s.odo := huv.keeps .odo (by decide)
  have c := huv.trans (refreshDriven_cascade v)
  have hr : v.dem.rows = new := huv.rows
  have hdr : (refreshDriven v).dem.driven ≠ s.dem.driven → (refreshDriven v).dem.driven ≠ v.dem.driven :=
    fun h => by rw [hd.1]; exact h
  rw [hw]
  refine ⟨?_, Keeps.trans (show Keeps farBlocks s u from fun b hb => by
        cases b <;> first | rfl | exact absurd hb (by decide)) c.keeps,
    (PortsKeep.of_eq rfl : PortsKeep _ _ s u).trans c.ports⟩
  exact
    { dem :=
        { rows := c.rows
          driven := by rw [refreshDriven_driven, refreshDriven_latch, hr]
          latch := by rw [refreshDriven_latch]; exact hl
          traction := by rw [refreshDriven_traction, hd.1, hd.2]
          alarm := c.alarm
          handles := c.handles
          brakeState := fun h => refreshDriven_raises v (hdr h)
          emergency := fun h => by
            rw [refreshDriven_latch, hl] at h
            have hs : s.dem.latch = false := by
              cases hsl : s.dem.latch
              · rfl
              · rw [hsl] at h; exact absurd rfl h
            have hf : f = true := by
              cases hff : f
              · rw [hff, hs] at h; exact absurd rfl h
              · rfl
            refine raisedAll.mono ?_ (refreshDriven_cascade v).ports
            simp only [v, hf, if_true, rowEmergency]
            exact setLatch_raises _ (by simp [u, hs]) }
      drive := c.drive
      outputs := by
        have o := refreshDriven_outputs v
        rw [hd.1, hodo, show v.store = s.store from huv.keeps .store (by decide)] at o
        refine ⟨fun h hs => ?_, fun h hs => ?_, fun h hs => ?_, fun hs hf => ?_, fun hs hf => ?_⟩
        · rw [o.unmoved h (by rw [hun hs]; exact hs), hun hs]
        · have hn : s.drive.source ≠ .test := by rw [hs]; decide
          have := o.mapping h (by rw [hun hn]; exact hs)
          rwa [hun hn] at this
        · have hn : s.drive.source ≠ .test := by rw [hs]; decide
          have := o.hold h (by rw [hun hn]; exact hs)
          rwa [hun hn] at this
        · have hv : v.drive = s.drive := by
            simp only [v, show f = false from hf]
            rfl
          have := o.test (by rw [hv]; exact hs) rfl
          rwa [hv] at this
        · have hv : v.drive = (abortTest .rowEmergency u).drive := by
            simp only [v, show f = true from hf, if_true, rowEmergency, setLatch_drive]
          have hh : HoldTaken s.store.params (.aborted .rowEmergency) s.drive v.drive := by
            rw [hv]; exact abortTest_held .rowEmergency u hs
          by_cases h : (refreshDriven v).dem.driven = s.dem.driven
          · refine .inl ?_
            rw [o.unmoved h (by rw [hh.test.1]; decide)]
            exact hh
          · exact .inr ⟨v.drive, hh, o.hold h hh.test.1⟩
      unmoved := fun h hs => by rw [refreshDriven_unmoved v (by rw [hd.1]; exact h), hun hs]
      mapped := fun h hm => by rw [refreshDriven_mapped v (hdr h) hm, hodo]
      untested := fun hs => by rw [(refreshDriven_record v).1, hun hs]
      aborted := fun hs hf => by
        have ha := abortTest_test .rowEmergency u hs
        have hv : v.drive = (abortTest .rowEmergency u).drive := by
          simp only [v, show f = true from hf, if_true, rowEmergency, setLatch_drive]
        exact ⟨by rw [(refreshDriven_record v).1, hv]; exact ha.2.2,
          (refreshDriven_record v).2 (by rw [hv]; exact ha.1), by
            refine raisedAll.mono ?_ (refreshDriven_cascade v).ports
            simp only [v, show f = true from hf, if_true, rowEmergency]
            exact (abortTest_raises _ u hs).mono (setLatch_cascade _).ports⟩
      unstuck := fun h k => by
        by_cases hv : v.drive.springStuck = true
        · exact refreshDriven_unstuck v hv k
        · refine raisedAll.mono ?_ (refreshDriven_cascade v).ports
          have hf : f = true := by
            by_contra hff
            exact hv (by simpa [v, hff, u] using h)
          have hv' : (abortTest .rowEmergency u).drive.springStuck = false := by
            simpa [v, hf, rowEmergency] using hv
          simp only [v, hf, if_true, rowEmergency]
          exact (abortTest_unstuck _ u h hv').mono (setLatch_cascade _).ports }

/-- The same from a state that agrees on what is read. -/
theorem DemandsTake.of_eq {new : Rows} {s u t : State} (h : DemandsTake new u t) (hd : u.dem = s.dem) :
    DemandsTake new s t := by
  obtain ⟨a, b, c, d, e, f, m, n⟩ := h
  rw [hd] at c d e f m n
  exact ⟨a, b, c, d, e, f, m, n⟩

/-- What follows and does not touch the demands leaves it so. -/
theorem DemandsTake.then_eq {new : Rows} {s t v : State} {may : List Event} {a : Option Port}
    (h : DemandsTake new s t) (hd : v.dem = t.dem) (hp : PortsKeep may a t v) : DemandsTake new s v := by
  obtain ⟨a, b, c, d, e, f, m, n⟩ := h
  rw [← hd] at a b c d e f m n
  exact ⟨a, b, c, d, e, f, fun x => (m x).mono hp, fun x => (n x).mono hp⟩

/-- A writing of the rows from a state that agrees on what it reads. -/
theorem RowsFollow.of_eq {new : Rows} {s u t : State} (h : RowsFollow new u t) (hd : u.dem = s.dem)
    (hb : u.drive = s.drive) (ho : u.odo.standstill = s.odo.standstill) (hs : u.store = s.store) :
    RowsFollow new s t := by
  obtain ⟨a, g, o, i, j, k, l, m⟩ := h
  rw [hd] at o i j l
  rw [hb] at g o i k l m
  rw [ho] at o j
  rw [hs] at o
  exact ⟨a.of_eq hd, g, o, i, j, k, l, m⟩

/-- What follows a writing of the rows and touches neither the demands nor the brake drive leaves it so. -/
theorem RowsFollow.then_eq {new : Rows} {s t v : State} {may : List Event} {a : Option Port}
    (h : RowsFollow new s t) (hd : v.dem = t.dem) (hb : v.drive = t.drive) (hp : PortsKeep may a t v) :
    RowsFollow new s v := by
  obtain ⟨a, g, o, i, j, k, l, m⟩ := h
  rw [← hd] at o i j
  rw [← hb] at g o i j k l m
  exact ⟨a.then_eq hd hp, g, o, i, j, k, fun x y => ⟨(l x y).1, (l x y).2.1, (l x y).2.2.mono hp⟩,
    fun x y => (m x y).mono hp⟩

/-- A writing of the rows, as the brake side has it. -/
theorem RowsFollow.bring {new : Rows} {s t : State} (h : RowsFollow new s t) :
    RowsBring s.store.params s.odo.standstill new (brakeSide s) (brakeSide t) :=
  ⟨h.dem.rows, h.dem.latch, h.dem.driven, h.outputs⟩

end Sys2Proof.Machine
end

