-- ==== Sys2Proof/Laws/Ports.lean ====
section
/-!
SUPPORT. What hearing a telegram does, said once (`completeTelegram_heard`), and what a request does where
nothing stands between it and its own rule (`request_ready`) (R13, R172 to R174).
-/

namespace Sys2Proof.Machine

/-- A link row formed is a writing of the rows (R14). -/
theorem formLinkRow_written (s : State) :
    RowsWritten { s.dem.rows with link := linkRow (holderLinkLost s.mode) s.odo.standstill } s
      (formLinkRow s) := writeRows_written _ s

theorem updPort_rx_keep (p q : Port) (x : RxState) (s : State) :
    (portOf q (updPort p (fun r => { r with rx := x }) s)).held = (portOf q s).held ∧
    (portOf q (updPort p (fun r => { r with rx := x }) s)).mask = (portOf q s).mask ∧
    (portOf q (updPort p (fun r => { r with rx := x }) s)).raw = (portOf q s).raw ∧
    (portOf q (updPort p (fun r => { r with rx := x }) s)).framingErrors = (portOf q s).framingErrors ∧
    (portOf q (updPort p (fun r => { r with rx := x }) s)).crcErrors = (portOf q s).crcErrors ∧
    (portOf q (updPort p (fun r => { r with rx := x }) s)).discarded = (portOf q s).discarded := by
  cases p <;> cases q <;> exact ⟨rfl, rfl, rfl, rfl, rfl, rfl⟩

theorem heardOn_up (l : LinkPort) (s : State) (h : (linkOf l s.mode).state = .up) :
    heardOn l s = putLink l ⟨.up, some 0⟩ s := by
  simp [heardOn, h]

theorem heardOn_down (l : LinkPort) (s : State) (h : (linkOf l s.mode).state ≠ .up) :
    heardOn l s = formLinkRow (raise .link (putLink l ⟨.up, some 0⟩ s)) := by
  simp [heardOn, h]

/-- What a trainline port hears, against the state in which its receive state has been put back. -/
theorem heardOn_heard (p : Port) (l : LinkPort) (hl : trainlineOf p = some l) (s : State)
    (hrx : (portOf p s).rx = .awaiting) : Heard p s (heardOn l s) := by
  have one : ∀ k, trainlineOf p = some k → k = l := fun k hk => by rw [hl] at hk; exact (Option.some.inj hk).symm
  have put : ∀ q, portOf q (putLink l ⟨.up, some 0⟩ s) = portOf q s := fun q => portOf_congr (by simp) q
  have other : ∀ k, trainlineOf p ≠ some k → linkOf k (putLink l ⟨.up, some 0⟩ s).mode = linkOf k s.mode := by
    intro k hk
    have : k ≠ l := fun h => hk (h ▸ hl)
    cases k <;> cases l <;> first | rfl | exact absurd rfl this
  have keepMode : (putLink l ⟨.up, some 0⟩ s).mode =
      { s.mode with linkA := (putLink l ⟨.up, some 0⟩ s).mode.linkA
                    linkB := (putLink l ⟨.up, some 0⟩ s).mode.linkB } := by
    cases l <;> rfl
  have keep : Keeps restBlocks s (putLink l ⟨.up, some 0⟩ s) := by
    intro b hb
    cases l <;> cases b <;> first | rfl | exact absurd hb (by decide)
  by_cases hup : (linkOf l s.mode).state = .up
  · rw [heardOn_up l s hup]
    exact
      { rx := by rw [put, hrx]
        otherRx := fun q _ => by rw [put]
        held := fun q => by rw [put]
        mask := fun q => by rw [put]
        errors := fun q => by rw [put]; exact ⟨rfl, rfl, rfl⟩
        stays := fun q e he => by rwa [put]
        only := fun q e he => Or.inl (by rwa [put] at he)
        up := fun k hk => by rw [one k hk]; simp
        otherLink := other
        modeKeeps := keepMode
        event := fun k hk h => absurd (one k hk ▸ hup) h
        quiet := fun _ => ⟨by simp, by simp, fun q => by rw [put]⟩
        rows := Or.inl (by simp)
        row := fun k hk h => absurd (one k hk ▸ hup) h
        follow := fun k hk h => absurd (one k hk ▸ hup) h
        keeps := keep }
  · rw [heardOn_down l s hup]
    have w := formLinkRow_written (raise .link (putLink l ⟨.up, some 0⟩ s))
    have raised : ∀ q, portOf q (raise .link (putLink l ⟨.up, some 0⟩ s)) = (portOf q s).raise .link := by
      intro q; rw [portOf_raise, put]
    have hm : (formLinkRow (raise .link (putLink l ⟨.up, some 0⟩ s))).mode = (putLink l ⟨.up, some 0⟩ s).mode :=
      w.keeps .mode (by decide)
    have hrow : (formLinkRow (raise .link (putLink l ⟨.up, some 0⟩ s))).dem.rows = { s.dem.rows with
        link := linkRow (holderLinkLost (formLinkRow (raise .link (putLink l ⟨.up, some 0⟩ s))).mode)
          s.odo.standstill } := by
      rw [w.follow.dem.rows, hm]; simp
    exact
      { rx := by rw [w.ports.rx, raised]; exact hrx
        otherRx := fun q _ => by rw [w.ports.rx, raised]; rfl
        held := fun q => by rw [w.ports.held q (by simp), raised]; rfl
        mask := fun q => by rw [w.ports.mask, raised]; rfl
        errors := fun q => by
          rw [w.ports.framing, w.ports.crc, w.ports.discarded, raised]; exact ⟨rfl, rfl, rfl⟩
        stays := fun q e he => w.ports.stays q e (by
          rw [raised]; exact (EventSet.has_or_bit _ _ _).trans (by simp [he]))
        only := fun q e he => by
          rcases w.ports.only q e he with h | h
          · rw [raised] at h
            have := (EventSet.has_or_bit (portOf q s).raw .link e).symm.trans h
            simp only [Bool.or_eq_true, decide_eq_true_eq] at this
            rcases this with h | rfl
            · exact Or.inl h
            · exact Or.inr (by decide)
          · exact Or.inr (List.mem_cons_of_mem _ h)
        up := fun k hk => by rw [hm, one k hk]; simp
        otherLink := fun k hk => by rw [hm]; exact other k hk
        modeKeeps := by rw [hm]; exact keepMode
        event := fun k hk _ => raisedAll.mono (raisedAll_raise .link _) w.ports
        quiet := fun h => absurd (h l hl) hup
        rows := Or.inr hrow
        row := fun _ _ _ => hrow
        follow := fun _ _ _ => by
          rw [← hrow, w.follow.dem.rows]
          exact w.follow.of_eq (by simp) (by simp) (by simp) (by simp)
        keeps := Keeps.trans (t := raise .link (putLink l ⟨.up, some 0⟩ s)) (Keeps.trans keep (.raise _ _ _ (by decide))) (w.keeps.mono (by decide)) }

/-- What hearing a telegram does (R13, R14, R172). -/
theorem completeTelegram_heard (p : Port) (s : State) : Heard p s (completeTelegram p s) := by
  let u := updPort p (fun r => { r with rx := .awaiting }) s
  have k := fun q => updPort_rx_keep p q .awaiting s
  have hrx : (portOf p u).rx = .awaiting := by simp [u]
  have ho : ∀ q, q ≠ p → (portOf q u).rx = (portOf q s).rx := fun q h => by
    rw [portOf_updPort_other p q _ s h]
  have hk : Keeps restBlocks s u := by
    intro b hb
    cases p <;> cases b <;> first | rfl | exact absurd hb (by decide)
  have hmode : u.mode = s.mode := by simp [u]
  have hdem : u.dem = s.dem := by simp [u]
  have hdrive : u.drive = s.drive := by simp [u]
  have hodo : u.odo = s.odo := by simp [u]
  have base : Heard p u (completeTelegram p s) := by
    cases p
    · exact heardOn_heard .a .a rfl u hrx
    · exact heardOn_heard .b .b rfl u hrx
    · exact
        { rx := hrx
          otherRx := fun _ _ => rfl
          held := fun _ => rfl
          mask := fun _ => rfl
          errors := fun _ => ⟨rfl, rfl, rfl⟩
          stays := fun _ _ h => h
          only := fun _ _ h => Or.inl h
          up := fun _ h => by cases h
          otherLink := fun _ _ => rfl
          modeKeeps := rfl
          event := fun _ h _ => by cases h
          quiet := fun _ => ⟨rfl, rfl, fun _ => rfl⟩
          rows := Or.inl rfl
          row := fun _ h _ => by cases h
          follow := fun _ h _ => by cases h
          keeps := .refl _ _ }
  exact
    { rx := base.rx
      otherRx := fun q h => (base.otherRx q h).trans (ho q h)
      held := fun q => (base.held q).trans (k q).1
      mask := fun q => (base.mask q).trans (k q).2.1
      errors := fun q => by
        have e := base.errors q
        exact ⟨e.1.trans (k q).2.2.2.1, e.2.1.trans (k q).2.2.2.2.1, e.2.2.trans (k q).2.2.2.2.2⟩
      stays := fun q e he => base.stays q e (by rw [(k q).2.2.1]; exact he)
      only := fun q e he => (base.only q e he).imp_left fun h => by rwa [(k q).2.2.1] at h
      up := base.up
      otherLink := fun l h => by rw [base.otherLink l h, hmode]
      modeKeeps := by have := base.modeKeeps; rw [hmode] at this; exact this
      event := fun l h e => base.event l h (by rw [hmode]; exact e)
      quiet := fun h => by
        have q := base.quiet fun l hl => by rw [hmode]; exact h l hl
        exact ⟨q.1.trans hdem, q.2.1.trans hdrive, fun x => (q.2.2 x).trans (k x).2.2.1⟩
      rows := by have := base.rows; rw [hdem, hodo] at this; exact this
      row := fun l hl h => by
        have := base.row l hl (by rw [hmode]; exact h)
        rw [hdem, hodo] at this
        exact this
      follow := fun l hl h => by
        have := (base.follow l hl (by rw [hmode]; exact h)).of_eq (s := s) hdem hdrive (by rw [hodo])
          (hk .store (by decide))
        rwa [hdem, hodo] at this
      keeps := Keeps.trans hk base.keeps }

/-! ### What a request finds -/

theorem completeTelegram_held (p q : Port) (s : State) :
    (portOf q (completeTelegram p s)).held = (portOf q s).held := (completeTelegram_heard p s).held q

theorem completeTelegram_mode (p : Port) (s : State) :
    (completeTelegram p s).mode.mode = s.mode.mode ∧ (completeTelegram p s).mode.holder = s.mode.holder ∧
    (completeTelegram p s).mode.direction = s.mode.direction ∧
    (completeTelegram p s).mode.composition = s.mode.composition := by
  have h := (completeTelegram_heard p s).modeKeeps
  rw [h]
  exact ⟨rfl, rfl, rfl, rfl⟩

@[simp] theorem completeTelegram_odo (p : Port) (s : State) : (completeTelegram p s).odo = s.odo :=
  (completeTelegram_heard p s).keeps .odo (by decide)
@[simp] theorem completeTelegram_store (p : Port) (s : State) : (completeTelegram p s).store = s.store :=
  (completeTelegram_heard p s).keeps .store (by decide)
@[simp] theorem completeTelegram_limits (p : Port) (s : State) : (completeTelegram p s).limits = s.limits :=
  (completeTelegram_heard p s).keeps .limits (by decide)
@[simp] theorem completeTelegram_sup (p : Port) (s : State) : (completeTelegram p s).sup = s.sup :=
  (completeTelegram_heard p s).keeps .sup (by decide)
@[simp] theorem completeTelegram_doors (p : Port) (s : State) : (completeTelegram p s).doors = s.doors :=
  (completeTelegram_heard p s).keeps .doors (by decide)
@[simp] theorem completeTelegram_radio (p : Port) (s : State) : (completeTelegram p s).radio = s.radio :=
  (completeTelegram_heard p s).keeps .radio (by decide)
@[simp] theorem completeTelegram_memory (p : Port) (s : State) : (completeTelegram p s).memory = s.memory :=
  (completeTelegram_heard p s).keeps .memory (by decide)
@[simp] theorem completeTelegram_pending (p : Port) (s : State) : (completeTelegram p s).pending = s.pending :=
  (completeTelegram_heard p s).keeps .pending (by decide)

@[simp] theorem isHolder_completeTelegram (p q : Port) (s : State) :
    isHolder q (completeTelegram p s) = isHolder q s := by
  unfold isHolder
  rw [(completeTelegram_mode p s).2.1]

/-- A request that finds nothing in its way has its own rule's effect and answer (R173, R174). -/
theorem request_ready {p : Port} {s : State} (code : Byte) (args : List Byte) (n : Nat) (rule : Rule)
    (h : Ready p s) (hn : args.length = n) :
    request p code args n rule s = .next (holdAnswer p code (rule (completeTelegram p s))) := by
  have hm : (completeTelegram p s).mode.mode ≠ .loading := by rw [(completeTelegram_mode p s).1]; exact h.2
  simp [request, takeRequest, completeTelegram_held, h.1, judge, hn, hm]

/-- A rule's frame is the frame of the request that it answers. -/
theorem Answered.of_rule {p : Port} {code : Byte} {kept : List Block} {may : List Event} {s : State}
    {r : State × Reply} (hp : Block.ports ∉ kept) (keeps : Keeps kept (completeTelegram p s) r.1)
    (ports : PortsKeep may (some p) (completeTelegram p s) r.1) :
    Answered p code r.2 kept may s (holdAnswer p code r) where
  held := by simp [holdAnswer]
  keeps := Keeps.trans keeps (by
    intro b hb
    cases p <;> cases b <;> first | rfl | exact absurd hb hp)
  ports := ports.trans (.holdAnswer p code r)

/-- A refusal changes nothing but the port's held request. -/
theorem Answered.of_refuse {p : Port} {code : Byte} {s : State} {r : State × Reply} {a : Reply}
    {may : List Event} (h : r = (completeTelegram p s, a)) :
    Answered p code a allButPorts may s (holdAnswer p code r) := by
  subst h
  exact Answered.of_rule (r := (completeTelegram p s, a)) (kept := allButPorts) (by decide) (.refl _ _)
    (.refl _ _ _)

/-- The holder's rule is its own (R175). -/
theorem asHolder_holder {p : Port} {s : State} (rule : Rule) (h : isHolder p s = true) :
    asHolder p rule s = rule s := by
  simp [asHolder, h]

@[simp] theorem holdAnswer_mode (p : Port) (c : Byte) (r : State × Reply) : (holdAnswer p c r).mode = r.1.mode :=
  updPort_mode ..
@[simp] theorem holdAnswer_odo (p : Port) (c : Byte) (r : State × Reply) : (holdAnswer p c r).odo = r.1.odo :=
  updPort_odo ..
@[simp] theorem holdAnswer_store (p : Port) (c : Byte) (r : State × Reply) :
    (holdAnswer p c r).store = r.1.store := updPort_store ..
@[simp] theorem holdAnswer_limits (p : Port) (c : Byte) (r : State × Reply) :
    (holdAnswer p c r).limits = r.1.limits := updPort_limits ..
@[simp] theorem holdAnswer_sup (p : Port) (c : Byte) (r : State × Reply) : (holdAnswer p c r).sup = r.1.sup :=
  updPort_sup ..
@[simp] theorem holdAnswer_dem (p : Port) (c : Byte) (r : State × Reply) : (holdAnswer p c r).dem = r.1.dem :=
  updPort_dem ..
@[simp] theorem holdAnswer_drive (p : Port) (c : Byte) (r : State × Reply) :
    (holdAnswer p c r).drive = r.1.drive := updPort_drive ..
@[simp] theorem holdAnswer_doors (p : Port) (c : Byte) (r : State × Reply) :
    (holdAnswer p c r).doors = r.1.doors := updPort_doors ..
@[simp] theorem holdAnswer_radio (p : Port) (c : Byte) (r : State × Reply) :
    (holdAnswer p c r).radio = r.1.radio := updPort_radio ..
@[simp] theorem holdAnswer_memory (p : Port) (c : Byte) (r : State × Reply) :
    (holdAnswer p c r).memory = r.1.memory := updPort_memory ..
@[simp] theorem holdAnswer_pending (p : Port) (c : Byte) (r : State × Reply) :
    (holdAnswer p c r).pending = r.1.pending := updPort_pending ..

/-- Holding an answer leaves what a writing of the rows brought. -/
theorem RowsFollow.hold {new : Rows} {s : State} {r : State × Reply} (h : RowsFollow new s r.1) (p : Port)
    (c : Byte) : RowsFollow new s (holdAnswer p c r) :=
  h.then_eq (by simp) (by simp) (PortsKeep.holdAnswer (may := []) p c r)

/-- Holding an answer leaves every raw flag. -/
theorem raisedAll.hold {e : Event} {r : State × Reply} (h : raisedAll e r.1) (p : Port) (c : Byte) :
    raisedAll e (holdAnswer p c r) := h.mono (PortsKeep.holdAnswer (may := []) p c r)

end Sys2Proof.Machine
end

