-- ==== Sys2Proof/Laws/Authority.lean ====
section
/-!
SUPPORT. What a change of the selected direction and a passing of authority do, each said once
(`changeDirection_changed`, `passAuthority_passed`) (R5 to R10, R27).
-/

namespace Sys2Proof.Machine

/-- Whose link is lost does not depend on what a port that is not the holder has just heard (R13, R14). -/
theorem completeTelegram_holderLost (p : Port) (s : State) (hp : isHolder p s = false) :
    holderLinkLost (completeTelegram p s).mode = holderLinkLost s.mode := by
  have hh := completeTelegram_heard p s
  have hm := (completeTelegram_mode p s).2.1
  unfold holderLinkLost
  rw [hm]
  cases h : s.mode.holder
  · rfl
  · have hn : trainlineOf p ≠ some .a := by cases p <;> simp [trainlineOf, isHolder, h] at hp ⊢
    have := hh.otherLink .a hn
    simp only [linkOf] at this
    simp [this]
  · have hn : trainlineOf p ≠ some .b := by cases p <;> simp [trainlineOf, isHolder, h] at hp ⊢
    have := hh.otherLink .b hn
    simp only [linkOf] at this
    simp [this]

/-- A change of the selected direction (R10, R27): the direction; where it differs, the awaited mark absent, a permit
of another direction absent, and the events of both. -/
structure DirectionChanged (d : Direction) (s t : State) : Prop where
  mode : t.mode = { s.mode with direction := d }
  odo : t.odo = if d = s.mode.direction then s.odo else { s.odo with awaited := none }
  limits : t.limits = { s.limits with permit :=
    if d = s.mode.direction then s.limits.permit else s.limits.permit.filter (·.direction = d) }
  event : d ≠ s.mode.direction → raisedAll .authority t
  permitEvent : t.limits.permit ≠ s.limits.permit → raisedAll .permit t
  keeps : Keeps [.store, .sup, .dem, .drive, .doors, .radio, .memory, .pending] s t
  ports : PortsKeep [.authority, .permit] none s t

theorem changeDirection_changed (d : Direction) (s : State) : DirectionChanged d s (changeDirection d s) := by
  by_cases hd : d = s.mode.direction
  · have e : changeDirection d s = s := by simp [changeDirection, hd]
    rw [e]
    exact ⟨by simp [hd], by simp [hd], by simp [hd], fun h => absurd hd h, fun h => absurd rfl h, .refl _ s,
      .refl _ _ s⟩
  · let u := updOdo (fun o => { o with awaited := none }) { s with mode := { s.mode with direction := d } }
    have pu : PortsKeep [.authority, .permit] none s (raise .authority u) := .raise_of .authority rfl (by decide)
    have ku : Keeps [.store, .sup, .dem, .drive, .doors, .radio, .memory, .pending] s (raise .authority u) := by
      intro b hb; cases b <;> first | rfl | exact absurd hb (by decide)
    by_cases hp : s.limits.permit.any (fun p => !(p.direction = d)) = true
    · have e : changeDirection d s = dropPermit (raise .authority u) := by
        simp [changeDirection, hd, u, hp]
      obtain ⟨q, hq, hq2⟩ : ∃ q, s.limits.permit = some q ∧ q.direction ≠ d := by
        cases hq : s.limits.permit with
        | none => rw [hq] at hp; simp at hp
        | some q => exact ⟨q, rfl, by rw [hq] at hp; simpa using hp⟩
      have hdrop : dropPermit (raise .authority u) = raise .permit
          { raise .authority u with limits := { s.limits with permit := none } } := by
        simp [dropPermit, u, hq]
      rw [e, hdrop]
      have pd : PortsKeep [.authority, .permit] none (raise .authority u)
          (raise .permit { raise .authority u with limits := { s.limits with permit := none } }) :=
        .raise_of .permit rfl (by decide)
      refine ⟨rfl, by simp [hd, u], by simp [hd, hq, hq2, Option.filter], fun _ => (raisedAll_raise _ _).mono pd,
        fun _ => raisedAll_raise _ _, ku.trans ?_, pu.trans pd⟩
      intro b hb; cases b <;> first | rfl | exact absurd hb (by decide)
    · have e : changeDirection d s = raise .authority u := by
        simp [changeDirection, hd, u, hp]
      have hf : s.limits.permit.filter (·.direction = d) = s.limits.permit := by
        cases hq : s.limits.permit with
        | none => rfl
        | some q => rw [hq] at hp; simp at hp; simp [hp]
      rw [e]
      exact ⟨rfl, by simp [hd, u], by simp [hd, u, hf], fun _ => raisedAll_raise _ _, fun h => absurd rfl h, ku, pu⟩

/-- A passing of authority does what `AuthorityPassed` says, and nothing to the blocks that it leaves. -/
theorem passAuthority_passed (heir : Holder) (s : State) : AuthorityPassed heir s (passAuthority heir s) ∧
    Keeps passedBlocks s (passAuthority heir s) ∧
    PortsKeep (.authority :: .permit :: rowEvents) none s (passAuthority heir s) := by
  let u := changeHolder heir s
  let v := changeDirection .none u
  have hc : DirectionChanged .none u v := changeDirection_changed .none u
  have w := writeRows_written (dropService s.mode.holder { v.dem.rows with link := .none }) v
  have e : passAuthority heir s = writeRows (dropService s.mode.holder { v.dem.rows with link := .none }) v := rfl
  have pu : PortsKeep [.authority, .permit] none s u := .raise_of .authority rfl (by decide)
  have hv : v.dem = s.dem := hc.keeps .dem (by decide)
  have direction : (Direction.none = u.mode.direction) = (s.mode.direction = .none) := propext eq_comm
  rw [e]
  refine ⟨⟨?_, ?_, ?_, ?_, ?_, ?_⟩, ?_, ?_⟩
  · rw [w.keeps .mode (by decide)]; exact hc.mode
  · rw [w.keeps .odo (by decide), hc.odo]; simp only [direction]; rfl
  · rw [w.keeps .limits (by decide), hc.limits]; simp only [direction]; rfl
  · have := w.follow.of_eq (s := s) hv (hc.keeps .drive (by decide)) (by rw [hc.odo]; split <;> rfl)
      (hc.keeps .store (by decide))
    rw [hv] at this ⊢
    exact this
  · exact ((raisedAll_raise .authority _ : raisedAll .authority u).mono hc.ports).mono w.ports
  · intro h
    rw [w.keeps .limits (by decide)] at h
    exact (hc.permitEvent h).mono w.ports
  · intro b hb
    have h : b.same s v := by
      cases b <;> first | exact absurd hb (by decide) | exact hc.keeps .store (by decide) |
        exact hc.keeps .sup (by decide) | exact hc.keeps .doors (by decide) | exact hc.keeps .radio (by decide) |
        exact hc.keeps .memory (by decide) | exact hc.keeps .pending (by decide)
    exact h.trans (w.keeps b (by cases b <;> first | decide | exact absurd hb (by decide)))
  · exact ((pu.trans hc.ports).mono (by decide) (.inl rfl)).trans (w.ports.mono (by decide) (.inl rfl))

/-- Holding an answer leaves what a passing of authority brought. -/
theorem AuthorityPassed.hold {heir : Holder} {s : State} {r : State × Reply} (h : AuthorityPassed heir s r.1)
    (p : Port) (c : Byte) : AuthorityPassed heir s (holdAnswer p c r) :=
  ⟨by simpa using h.1, by simpa using h.2, by simpa using h.3, h.4.hold p c, h.5.hold p c,
    fun x => (h.6 (by simpa using x)).hold p c⟩

end Sys2Proof.Machine
end

