-- ==== Sys2Proof/Laws/Bytes.lean ====
section
/-!
SUPPORT. Fields written and read back: the bytes of a short field, and the value that the readers of two and of
three bytes find in them (R184).
-/

namespace Sys2Proof.Machine

theorem natField_one (v : Nat) (h : v < 256) : natField 1 v = [BitVec.ofNat 8 v] := by
  have h' : v < 256 ^ 1 := by omega
  rw [natField, if_pos h']
  simp

theorem natField_two (v : Nat) (h : v < 65536) :
    natField 2 v = [BitVec.ofNat 8 (v / 256), BitVec.ofNat 8 v] := by
  have h' : v < 256 ^ 2 := by omega
  rw [natField, if_pos h']
  simp [List.range_succ]

theorem natField_three (v : Nat) (h : v < 16777216) :
    natField 3 v = [BitVec.ofNat 8 (v / 65536), BitVec.ofNat 8 (v / 256), BitVec.ofNat 8 v] := by
  have h' : v < 256 ^ 3 := by omega
  rw [natField, if_pos h']
  simp [List.range_succ]

/-- The two-byte reader finds the value written. -/
theorem word16_bytes (v : Nat) (h : v < 65536) :
    256 * (BitVec.ofNat 8 (v / 256)).toNat + (BitVec.ofNat 8 v).toNat = v := by
  simp only [BitVec.toNat_ofNat]
  omega

/-- The three-byte reader finds the value written. -/
theorem word24_bytes (v : Nat) (h : v < 16777216) :
    65536 * (BitVec.ofNat 8 (v / 65536)).toNat +
      (256 * (BitVec.ofNat 8 (v / 256)).toNat + (BitVec.ofNat 8 v).toNat) = v := by
  simp only [BitVec.toNat_ofNat]
  omega

theorem byteAt_zero (b : Byte) (l : List Byte) : byteAt (b :: l) 0 = b.toNat := rfl

theorem byteAt_succ (b : Byte) (l : List Byte) (i : Nat) : byteAt (b :: l) (i + 1) = byteAt l i := rfl

theorem word16_zero (b c : Byte) (l : List Byte) : word16 (b :: c :: l) 0 = 256 * b.toNat + c.toNat := rfl

theorem word16_succ (b : Byte) (l : List Byte) (i : Nat) : word16 (b :: l) (i + 1) = word16 l i := rfl

theorem word24_zero (b c d : Byte) (l : List Byte) :
    word24 (b :: c :: d :: l) 0 = 65536 * b.toNat + (256 * c.toNat + d.toNat) := rfl

theorem word24_succ (b : Byte) (l : List Byte) (i : Nat) : word24 (b :: l) (i + 1) = word24 l i := rfl

/-- A two-byte field at the front is read back. -/
theorem word16_natField (v : Nat) (l : List Byte) (h : v < 65536) : word16 (natField 2 v ++ l) 0 = v := by
  rw [natField_two v h]
  exact word16_bytes v h

/-- A three-byte field at the front is read back. -/
theorem word24_natField (v : Nat) (l : List Byte) (h : v < 16777216) : word24 (natField 3 v ++ l) 0 = v := by
  rw [natField_three v h]
  exact word24_bytes v h

/-- Reading past a two-byte field. -/
theorem word16_after_two (v : Nat) (l : List Byte) (i : Nat) (h : v < 65536) :
    word16 (natField 2 v ++ l) (i + 2) = word16 l i := by
  rw [natField_two v h]
  rfl

theorem byteAt_after_two (v : Nat) (l : List Byte) (i : Nat) (h : v < 65536) :
    byteAt (natField 2 v ++ l) (i + 2) = byteAt l i := by
  rw [natField_two v h]
  rfl

theorem word16_after_three (v : Nat) (l : List Byte) (i : Nat) (h : v < 16777216) :
    word16 (natField 3 v ++ l) (i + 3) = word16 l i := by
  rw [natField_three v h]
  rfl

theorem byteAt_after_three (v : Nat) (l : List Byte) (i : Nat) (h : v < 16777216) :
    byteAt (natField 3 v ++ l) (i + 3) = byteAt l i := by
  rw [natField_three v h]
  rfl

end Sys2Proof.Machine
end

