-- ==== Sys2Proof/Laws/Doors.lean ====
section
/-!
SUPPORT. What an act of the doors does, each said once: the locked loop and its row (`formDoorsRow_formed`), one
door (`updDoor_acted`), all four (`putDoors_formed`), a door under a release, a close and a retry, and where a door is placed
(`placeDoors_placed`) and whether it qualifies (`doorQualifies_iff`) (R131 to R148).
-/

namespace Sys2Proof.Machine

/-- The loop and its row formed: nothing of the doors but the loop changes (R148). -/
structure LoopFormed (s t : State) : Prop where
  doors : t.doors = { s.doors with loopClosed := allSecured s.doors.door }
  row : RowsFollow { s.dem.rows with doors := doorsRow t.doors.loopClosed s.odo.standstill } s t
  event : t.doors.loopClosed ≠ s.doors.loopClosed → raisedAll .doors t
  keeps : Keeps doorlessBlocks s t
  ports : PortsKeep (.doors :: rowEvents) none s t

theorem formDoorsRow_formed (s : State) : LoopFormed s (formDoorsRow s) := by
  let v : State := { s with doors := { s.doors with loopClosed := allSecured s.doors.door } }
  let u := raiseIf (!(allSecured s.doors.door = s.doors.loopClosed)) .doors v
  have hr : { u.dem.rows with doors := doorsRow (allSecured s.doors.door) u.odo.standstill } =
      { s.dem.rows with doors := doorsRow (allSecured s.doors.door) s.odo.standstill } := by simp [u, v]
  have w := writeRows_written { s.dem.rows with doors := doorsRow (allSecured s.doors.door) s.odo.standstill } u
  have e : formDoorsRow s =
      writeRows { s.dem.rows with doors := doorsRow (allSecured s.doors.door) s.odo.standstill } u := by
    rw [← hr]; rfl
  have pu : PortsKeep (.doors :: rowEvents) none s u := .raiseIf_of _ .doors rfl (by decide)
  have hd : (formDoorsRow s).doors = { s.doors with loopClosed := allSecured s.doors.door } := by
    rw [e, w.keeps .doors (by decide), raiseIf_doors]
  refine ⟨hd, ?_, ?_, ?_, ?_⟩
  · rw [hd, e]
    exact w.follow.of_eq (s := s) (by simp [u, v]) (by simp [u, v]) (by simp [u, v]) (by simp [u, v])
  · intro h
    rw [hd] at h
    have : raisedAll .doors u := by
      have hu : u = raise .doors v := by simp [u, raiseIf, h]
      rw [hu]
      exact raisedAll_raise _ _
    rw [e]
    exact this.mono w.ports
  · intro b hb
    rw [e]
    refine Block.same.trans ?_ (w.keeps b (by cases b <;> first | decide | exact absurd hb (by decide)))
    cases b <;> first | exact absurd hb (by decide) | simp [Block.same, u, v]
  · rw [e]
    exact pu.trans (w.ports.mono (by decide) (.inl rfl))

/-- One door changed (R132, R148). -/
theorem updDoor_acted (d : DoorId) (f : Door → Door) (s : State) :
    DoorActed none d (f (doorOf d s.doors.door)) s (updDoor d f s) := by
  let old := doorOf d s.doors.door
  let v : State := { s with doors := { s.doors with door := putDoor d (f old) s.doors.door } }
  let u := raiseIf (doorFaulted old (f old)) .doorFault (raiseIf (doorChanged old (f old)) .doors v)
  have e : updDoor d f s = formDoorsRow u := rfl
  have hu : u.doors = v.doors := by simp [u]
  have w := formDoorsRow_formed u
  have pv : PortsKeep (.doors :: .doorFault :: rowEvents) none s u :=
    PortsKeep.trans (.raiseIf_of (v := v) (doorChanged old (f old)) .doors rfl (by decide))
      (.raiseIf (may := .doors :: .doorFault :: rowEvents) _ .doorFault _ fun _ => by decide)
  have hdoor : (updDoor d f s).doors.door = putDoor d (f old) s.doors.door := by rw [e, w.doors, hu]
  refine ⟨by rw [hdoor]; simp [old], fun x hx => by rw [hdoor, doorOf_putDoor_other _ _ _ _ hx],
    by rw [e, w.doors, hu], by rw [e, w.doors, hu], ⟨?_, ?_, ?_⟩, ?_, ?_, ?_⟩
  · rw [e, w.doors]
  · have hr : u.dem = s.dem ∧ u.odo = s.odo := by simp [u, v]
    have := w.row.of_eq (s := s) hr.1 (by simp [u, v]) (by rw [hr.2]) (by simp [u, v])
    rwa [hr.1, hr.2] at this
  · intro h
    by_cases hl : (updDoor d f s).doors.loopClosed = s.doors.loopClosed
    · have hc : doorChanged old (f old) = true := by
        rcases h with h | h | h | ⟨x, h⟩
        · exact absurd hl h
        · exact absurd (by rw [e, w.doors, hu]) h
        · exact absurd (by rw [e, w.doors, hu]) h
        · rw [hdoor] at h
          by_cases hx : x = d
          · rw [hx, doorOf_putDoor] at h; exact h
          · rw [doorOf_putDoor_other _ _ _ _ hx] at h
            simp [doorChanged] at h
      have h1 : raisedAll .doors (raiseIf (doorChanged old (f old)) .doors v) := by
        rw [hc]; exact raisedAll_raise _ _
      exact (h1.mono (PortsKeep.raiseIf (may := [.doorFault]) (a := none) _ _ _ fun _ => by decide)).mono w.ports
    · exact w.event (by rw [hu]; exact hl)
  · intro h
    have h1 : raisedAll .doorFault u := by
      have hu' : u = raise .doorFault (raiseIf (doorChanged old (f old)) .doors v) := by
        simp only [u]; rw [h]; rfl
      rw [hu']; exact raisedAll_raise _ _
    exact h1.mono w.ports
  · intro b hb
    refine Block.same.trans ?_ (w.keeps b hb)
    cases b <;> first | exact absurd hb (by decide) | simp [Block.same, u, v]
  · exact pv.trans (w.ports.mono (by decide) (.inl rfl))

/-- The four doors and the side flags replaced together (R142, R145, R146, R148). -/
theorem putDoors_formed (new : Quad Door) (left right : Bool) (s : State) :
    DoorsFormed s (putDoors new left right s) ∧ (putDoors new left right s).doors.door = new ∧
    (putDoors new left right s).doors.leftReleased = left ∧ (putDoors new left right s).doors.rightReleased = right ∧
    Keeps doorlessBlocks s (putDoors new left right s) ∧
    PortsKeep (.doors :: rowEvents) none s (putDoors new left right s) := by
  let o := s.doors
  let flags := !(o.leftReleased = left) || !(o.rightReleased = right)
  let changed := doorChanged o.door.d1 new.d1 || doorChanged o.door.d2 new.d2 || doorChanged o.door.d3 new.d3 ||
    doorChanged o.door.d4 new.d4
  let v : State := { s with doors := { o with door := new, leftReleased := left, rightReleased := right } }
  let u := raiseIf (flags || changed) .doors v
  have e : putDoors new left right s = formDoorsRow u := rfl
  have hu : u.doors = v.doors := by simp [u]
  have w := formDoorsRow_formed u
  have pu : PortsKeep (.doors :: rowEvents) none s u := .raiseIf_of _ .doors rfl (by decide)
  rw [e]
  refine ⟨⟨by rw [w.doors], ?_, ?_⟩, by rw [w.doors, hu], by rw [w.doors, hu], by rw [w.doors, hu], ?_,
    pu.trans w.ports⟩
  · have hr : u.dem = s.dem ∧ u.odo = s.odo := by simp [u, v]
    have := w.row.of_eq (s := s) hr.1 (by simp [u, v]) (by rw [hr.2]) (by simp [u, v])
    rwa [hr.1, hr.2] at this
  · intro h
    by_cases hl : (formDoorsRow u).doors.loopClosed = s.doors.loopClosed
    · have hc : (flags || changed) = true := by
        rw [w.doors, hu] at h
        rcases h with h | h | h | ⟨x, h⟩
        · rw [w.doors, hu] at hl
          exact absurd hl h
        · have : ¬s.doors.leftReleased = left := fun x => h x.symm
          simp [flags, o, this]
        · have : ¬s.doors.rightReleased = right := fun x => h x.symm
          simp [flags, o, this]
        · cases x <;> (have h' : doorChanged _ _ = true := h; simp only [doorOf, v] at h'; simp [changed, o, h'])
      have h1 : raisedAll .doors u := by
        have hu' : u = raise .doors v := by simp only [u]; rw [hc]; rfl
        rw [hu']; exact raisedAll_raise _ _
      exact h1.mono w.ports
    · exact w.event (by rw [hu]; exact hl)
  · intro b hb
    refine Block.same.trans ?_ (w.keeps b hb)
    cases b <;> first | exact absurd hb (by decide) | simp [Block.same, u, v]

/-- A door sent to OPENING, the open limit found there or not (R133, R136). -/
theorem Door.enterOpening_entered (c : DoorCtx) (d : Door) :
    OpeningEntered c.moveTime c.warningTime (c.released d.lineSide) d (d.enterOpening c) := by
  constructor
  · intro hl; simp [Door.enterOpening, Door.go, hl]
  · intro hl hr; simp [Door.enterOpening, Door.enterOpened, Door.go, hl, hr]
  · intro hl hr; simp [Door.enterOpening, Door.enterOpened, Door.enterWarning, Door.go, hl, hr]

/-- A qualified door under a release, the open permission holding and its side released (R133 to R136, R144). -/
theorem Door.onRelease_released (c : DoorCtx) (auto : Bool) (d : Door) (h : c.permission = true)
    (hr : c.released d.lineSide = true) :
    DoorReleased auto c.moveTime c.warningTime d (d.onRelease c auto) := by
  constructor
  · rintro (hs | hs) hl <;> simp [Door.onRelease, hs, Door.enterUnlocking, Door.go, hl, Config.lockLimit]
  · rintro (hs | hs) hl rfl <;> simp [Door.onRelease, hs, Door.enterUnlocking, Door.enterReleased, Door.go, hl]
  · intro hs hl ha
    have e : d.onRelease c auto =
        Door.enterOpening c { d with obstacles := 0, lockLost := false, openRequest := true } := by
      subst ha
      rcases hs with hs | hs <;> cases ho : d.inputs.openLimit <;>
        simp [Door.onRelease, hs, Door.enterUnlocking, Door.enterReleased, hl, h, Door.enterOpening, Door.enterOpened,
          Door.go, ho, hr]
    rw [e]
    exact hr ▸ Door.enterOpening_entered c { d with obstacles := 0, lockLost := false, openRequest := true }
  · intro hs
    have e : d.onRelease c auto = d.enterOpening c := by rcases hs with hs | hs <;> simp [Door.onRelease, hs]
    rw [e]
    exact hr ▸ Door.enterOpening_entered c d
  · intro hs; simp [Door.onRelease, hs]
  · intro hs ha
    have e : d.onRelease c auto = Door.enterOpening c { d with openRequest := true } := by
      simp [Door.onRelease, hs, ha, h]
    rw [e]
    exact hr ▸ Door.enterOpening_entered c { d with openRequest := true }
  · intro hs ha
    have h1 : d.openRequest = false := by cases hd : d.openRequest <;> simp_all
    have h2 : auto = false := by cases auto <;> simp_all
    cases d
    simp_all [Door.onRelease]
  · intro hs
    simp only [List.mem_cons, List.not_mem_nil, or_false] at hs
    rcases hs with hs | hs | hs | hs | hs <;> simp [Door.onRelease, hs]

/-- The expiry of a timer that is stopped or has not reached its limit is overtaken (R133). -/
theorem Door.onTimer_overtaken (c : DoorCtx) (d : Door) (h : ∀ n limit, d.timer = some (n, limit) → n < limit) :
    d.onTimer c = d := by
  have : d.timeUp = false := by
    cases ht : d.timer with
    | none => simp [Door.timeUp, ht]
    | some x => simpa [Door.timeUp, ht] using h x.1 x.2 ht
  simp [Door.onTimer, this]

/-- A door of a side that a close names (R133, R145). -/
theorem Door.onClose_closed (c : DoorCtx) (d : Door) : DoorClosed c.warningTime d (d.onClose c) := by
  constructor
  · rintro (hs | hs) hl <;> simp [Door.onClose, hs, Door.enterLocking, Door.go, hl, Config.lockLimit]
  · rintro (hs | hs) hl <;> simp [Door.onClose, hs, Door.enterLocking, Door.enterClosedLocked, Door.go, hl]
  · rintro (hs | hs) <;> simp [Door.onClose, hs, Door.enterWarning, Door.go]
  · intro hs
    simp only [List.mem_cons, List.not_mem_nil, or_false, not_or] at hs
    cases h : d.state <;> simp_all [Door.onClose]

/-- Every door is placed by its map entry and the orientation (R131). -/
theorem placeDoors_placed (s : State) (d : DoorId) :
    DoorPlaced s (mapOf d s.store.params.doorMap) (doorOf d s.doors.door) (doorOf d (placeDoors s)) := by
  have e : doorOf d (placeDoors s) = (doorOf d s.doors.door).placed s (mapOf d s.store.params.doorMap) := by
    cases d <;> rfl
  rw [e]
  generalize mapOf d s.store.params.doorMap = m
  generalize doorOf d s.doors.door = x
  refine ⟨fun h => ?_, fun c hc h => ?_, fun h => ?_, rfl⟩
  · have o : orientationOf s.mode = .normal := by
      cases hc : s.mode.composition with
      | none => simp [orientationOf, hc]
      | some c => simpa [orientationOf, hc] using h c hc
    refine ⟨?_, fun hu => ?_⟩
    · cases hm : m.side <;> simp [Door.placed, o, lineSideOf, hm]
    · cases hp : s.odo.posState <;> simp_all [Door.placed, linePositionOf]
  · have o : orientationOf s.mode = .reversed := by simpa [orientationOf, hc] using h
    refine ⟨?_, fun hu => ?_⟩
    · cases hm : m.side <;> simp [Door.placed, o, lineSideOf, hm]
    · cases hp : s.odo.posState <;> simp_all [Door.placed, linePositionOf]
  · simp [Door.placed, linePositionOf, h]

theorem PlatformSide.serves_iff (q : PlatformSide) (side : LineSide) :
    q.serves side = true ↔ q = .both ∨ q = match side with | .left => .left | .right => .right := by
  cases q <;> cases side <;> decide

/-- What `platformCheck` asks of a line position, with the uncertainty that it takes (R143). -/
theorem onPlatform_iff (table : List Segment) (side : LineSide) (x : Int) (u : Nat) :
    ((0 ≤ x) && (x ≤ (Config.lineEnd : Int)) && (segmentAt table x).isSome && onPlatform table side x u) = true ↔
      OnPlatform table side x u := by
  have hc : (segmentAt table x).isSome = true ↔ ∃ g ∈ table, (g.start : Int) ≤ x ∧ x < g.start + g.length := by
    simp [segmentAt, List.find?_isSome, Segment.contains, Segment.upEnd]
  have hp : onPlatform table side x u = true ↔ ∃ g ∈ table, ∃ q, g.platform = some q ∧
      (q.side = .both ∨ q.side = match side with | .left => .left | .right => .right) ∧
      ((g.start : Int) + q.fromOffset ≤ x - u) ∧ x + u < (g.start : Int) + q.toOffset := by
    unfold onPlatform
    rw [List.any_eq_true]
    refine exists_congr fun g => and_congr_right fun _ => ?_
    cases hg : g.platform with
    | none => simp
    | some q => simp [PlatformSide.serves_iff, and_assoc]
  simp only [Bool.and_eq_true, hc, hp, decide_eq_true_eq]
  exact ⟨fun ⟨⟨⟨h1, h2⟩, h3⟩, h4⟩ => ⟨⟨h1, by simpa [Config.lineEnd] using h2⟩, h3, h4⟩,
    fun h => ⟨⟨⟨h.line.1, by simpa [Config.lineEnd] using h.line.2⟩, h.within⟩, h.holds⟩⟩

/-- Whether a door qualifies (R143). -/
theorem doorQualifies_iff (s : State) (side : LineSide) (m : DoorMapEntry) (e : Door) :
    doorQualifies s side m e = true ↔ DoorQualified s side m e := by
  have hq : platformCheck s side e = true ↔
      (s.odo.posState = .known → ∃ x, e.linePosition = some x ∧
        OnPlatform s.store.segments side x s.odo.uncertainty) ∧
      (s.odo.posState = .lost → ∃ x, e.linePosition = some x ∧ OnPlatform s.store.segments side x 600) ∧
      (s.odo.posState = .unknown → s.mode.mode = .shunt) := by
    unfold platformCheck
    cases hp : s.odo.posState <;> cases hl : e.linePosition <;>
      simp [Config.greatestUncertainty, ← onPlatform_iff]
  constructor
  · intro h
    simp only [doorQualifies, Bool.and_eq_true, decide_eq_true_eq, hq] at h
    exact ⟨h.1.1, h.1.2, h.2.1, h.2.2.1, h.2.2.2⟩
  · intro h
    simp only [doorQualifies, Bool.and_eq_true, decide_eq_true_eq, hq]
    exact ⟨⟨h.enabled, h.lineSide⟩, h.known, h.lost, h.unknown⟩

end Sys2Proof.Machine
end

