-- ==== Sys2Proof/Laws/Drive.lean ====
section
/-!
SUPPORT. What the brake test and the brake drive do, each said once: a test aborted, a step begun, a test ended, the
outputs taken back by the mapping (R123 to R127); a change of the faults (R117, R121) and of the alarm (R104, R107).
-/

namespace Sys2Proof.Machine

theorem PortsKeep.withDrive (d : BrakeDrive) (s : State) :
    PortsKeep [.brakeTest, .brakeState] none s (Machine.raise .brakeTest (Machine.withDrive d s)) := by
  have h : PortsKeep [.brakeTest, .brakeState] none s (Machine.withDrive d s) :=
    .raiseIf_of _ .brakeState rfl (by decide)
  exact h.trans (.raise (may := [.brakeTest, .brakeState]) .brakeTest _ (by decide))

/-- A running test ended before its last step (R125). -/
theorem abortTest_aborted (c : AbortCause) (s : State) (h : s.drive.source = .test) :
    TestAborted (match c with | .composition => .notRun true | _ => .aborted c) s (abortTest c s) ∧
    Keeps allButDrive s (abortTest c s) ∧ PortsKeep [.brakeTest, .brakeState] none s (abortTest c s) := by
  let d := s.drive.command s.store.params 1000 .deEnergized true (!(s.drive.valve = .deEnergized))
  let r : TestRecord := match c with | .composition => .notRun true | _ => .aborted c
  have e : abortTest c s =
      raise .brakeTest (withDrive { d with source := .abortHold, testStep := none, testRecord := r } s) := by
    simp only [abortTest, h, ite_true]
    cases c <;> rfl
  refine ⟨⟨abortTest_held c s h, abortTest_raises c s h, abortTest_unstuck c s⟩, ?_, ?_⟩
  · intro b hb
    rw [e]
    cases b <;> first | exact absurd hb (by decide) | simp [Block.same]
  · rw [e]
    exact PortsKeep.withDrive _ s

/-- A step of the brake test begun (R123). -/
theorem beginStep_begun (n : Nat) (s : State) (h1 : 1 ≤ n) (h5 : n ≤ 5) : StepBegun n s (beginStep n s) := by
  have e : (beginStep n s).drive = { (s.drive.form s.store.params (stepOutputs n).1).atValve (stepOutputs n).2 with
      testStep := some ⟨n, 0, stepLimit s.store.params n⟩ } := by simp [beginStep]
  have hv : ∀ (v : Valve) (d : BrakeDrive), (d.atValve v).valve = v ∧ (d.atValve v).level = d.level ∧
      (d.atValve v).target = d.target ∧ (d.atValve v).duty = d.duty ∧ (d.atValve v).source = d.source ∧
      (d.atValve v).testRecord = d.testRecord ∧ (d.atValve v).serviceCheck = d.serviceCheck ∧
      (d.atValve v).springCheck = d.springCheck := by
    intro v d
    unfold BrakeDrive.atValve
    split
    · rename_i x; exact ⟨x.symm, rfl, rfl, rfl, rfl, rfl, rfl, rfl⟩
    · exact ⟨rfl, rfl, rfl, rfl, rfl, rfl, rfl, rfl⟩
  obtain ⟨a, b, c, d, f, g, i, j⟩ := hv (stepOutputs n).2 (s.drive.form s.store.params (stepOutputs n).1)
  have st : (beginStep n s).drive.springStuck =
      if s.drive.valve = .energized ∧ (beginStep n s).drive.valve = .deEnergized then false
      else s.drive.springStuck := by
    rw [e]
    simp only [a]
    show (BrakeDrive.atValve _ _).springStuck = _
    unfold BrakeDrive.atValve
    split
    · rename_i x
      rw [x]
      show s.drive.springStuck = if s.drive.valve = .energized ∧ s.drive.valve = .deEnergized then _ else _
      cases s.drive.valve <;> rfl
    · rename_i x
      have x' : ¬(stepOutputs n).2 = s.drive.valve := x
      show (s.drive.springStuck && _) = _
      cases hv : s.drive.valve <;> cases hw : (stepOutputs n).2 <;> simp_all
  refine ⟨⟨?_, ?_, ?_⟩, ?_, ?_, ?_, ?_, ?_, st, ?_, ?_⟩
  · rw [e]
    refine b.trans ?_
    interval_cases n <;> rfl
  · rw [e]
    refine a.trans ?_
    interval_cases n <;> rfl
  · rw [e]
    interval_cases n <;> rfl
  · rw [e]; exact c.trans (by rw [b]; rfl)
  · rw [e]; exact d.trans (by rw [c]; rfl)
  · rw [e]; exact f
  · rw [e]; exact g
  · rw [e]; exact ⟨i, j⟩
  · exact raisedAll_raise _ _
  · intro h k
    refine (withDrive_unstuck _ s h ?_).mono
      (PortsKeep.raise (may := [.brakeTest]) (a := none) .brakeTest _ (by decide))
    rw [e] at k
    exact k

theorem beginStep_keeps (n : Nat) (s : State) : Keeps allButDrive s (beginStep n s) ∧
    PortsKeep [.brakeTest, .brakeState] none s (beginStep n s) ∧ DriveKeeps s.drive (beginStep n s).drive := by
  refine ⟨?_, ?_, ?_⟩
  · intro b hb
    cases b <;> first | exact absurd hb (by decide) | simp [Block.same, beginStep]
  · exact PortsKeep.withDrive _ s
  · have := (s.drive.form_keeps s.store.params (stepOutputs n).1).trans
      (BrakeDrive.atValve_keeps (stepOutputs n).2 (s.drive.form s.store.params (stepOutputs n).1))
    simp only [beginStep, raise_drive, withDrive_drive]
    exact ⟨this.1, this.2, this.3, this.4, this.5, this.6, this.7, this.8⟩

/-- A test ended by its course or by a failure: the mapping takes the outputs back (R124, R127). -/
theorem endTest_ended (r : TestRecord) (s : State) : TestEnded r s (endTest r s) := by
  let u := writeRecord r s
  have hu : u.dem = s.dem ∧ u.odo = s.odo ∧ u.store = s.store ∧ u.drive = { s.drive with testRecord := r } := by
    simp [u, writeRecord]
  have m : MappingTaken s.store.params (mappedOutputs s.dem.driven s.odo.standstill)
      { s.drive with testRecord := r } (endTest r s).drive := by
    have := takeMapping_taken u
    rw [hu.1, hu.2.1, hu.2.2.1, hu.2.2.2] at this
    exact this
  refine ⟨m, fun h => ?_, fun h k => ?_⟩
  · rw [m.test.2.2] at h
    have h2 : raisedAll .brakeTest u := by
      have : u = raise .brakeTest { s with drive := { s.drive with testRecord := r } } := by
        simp only [u, writeRecord, raiseIf]
        simp only [show ¬r = s.drive.testRecord from h, decide_false, Bool.not_false, if_true]
      rw [this]; exact raisedAll_raise _ _
    exact h2.mono (takeMapping_cascade u).ports
  · exact takeMapping_unstuck u (by rw [hu.2.2.2]; exact h) k

theorem endTest_keeps (r : TestRecord) (s : State) : Keeps allButDrive s (endTest r s) ∧
    PortsKeep [.brakeTest, .brakeState] none s (endTest r s) ∧ DriveKeeps s.drive (endTest r s).drive := by
  refine ⟨?_, ?_, ?_⟩
  · intro b hb
    cases b <;> first | exact absurd hb (by decide) | simp [Block.same, endTest, takeMapping, writeRecord]
  · have h : PortsKeep [.brakeTest, .brakeState] none s (writeRecord r s) :=
      .raiseIf_of _ .brakeTest rfl (by decide)
    have k : PortsKeep [.brakeTest, .brakeState] none (writeRecord r s) (takeMapping (writeRecord r s)) :=
      .raiseIf_of _ .brakeState rfl (by decide)
    exact h.trans k
  · have h : DriveKeeps s.drive (writeRecord r s).drive := by
      simp only [writeRecord, raiseIf_drive]
      exact ⟨rfl, rfl, rfl, rfl, rfl, rfl, rfl, rfl⟩
    exact h.trans (takeMapping_cascade _).drive

/-- A change of the faults: the fault state, the BRAKE_STATE event, and the row (R102, R117, R120, R121). -/
theorem setFaults_set (slow fail : Bool) (s : State)
    (h : ¬(slow = s.drive.serviceSlow ∧ fail = s.drive.springFail)) :
    RowsFollow { s.dem.rows with brakeCheck := brakeCheckRow slow fail }
      { s with drive := { s.drive with
        serviceSlow := slow, springFail := fail, faultState := faultStateOf slow fail } } (setFaults slow fail s) ∧
    raisedAll .brakeState (setFaults slow fail s) ∧ Keeps (.mode :: restBlocks) s (setFaults slow fail s) ∧
    PortsKeep rowEvents none s (setFaults slow fail s) := by
  let v : State := { s with drive := { s.drive with
    serviceSlow := slow, springFail := fail, faultState := faultStateOf slow fail } }
  have e : setFaults slow fail s =
      writeRows { s.dem.rows with brakeCheck := brakeCheckRow slow fail } (raise .brakeState v) := by
    simp [setFaults, h, v]
  have w := writeRows_written { s.dem.rows with brakeCheck := brakeCheckRow slow fail } (raise .brakeState v)
  rw [e]
  refine ⟨w.follow.of_eq rfl rfl rfl rfl, (raisedAll_raise _ _).mono w.ports, ?_,
    (PortsKeep.raise_of (s := s) (v := v) .brakeState rfl (by decide)).trans w.ports⟩
  intro b hb
  refine Block.same.trans ?_ (w.keeps b hb)
  cases b <;> first | rfl | exact absurd hb (by decide)

/-- The alarm state set, with its event where that is a change, and its row (R104, R107). -/
theorem setAlarm_set (a : AlarmState) (s : State) :
    (setAlarm a s).dem.alarm = a ∧ (a ≠ s.dem.alarm → raisedAll .alarm (setAlarm a s)) ∧
    RowsFollow { s.dem.rows with alarm := alarmRow a s.odo.standstill }
      { s with dem := { s.dem with alarm := a } } (setAlarm a s) ∧
    Keeps (.mode :: restBlocks) s (setAlarm a s) ∧ PortsKeep (.alarm :: rowEvents) none s (setAlarm a s) := by
  let v : State := { s with dem := { s.dem with alarm := a } }
  let u := raiseIf (!(a = s.dem.alarm)) .alarm v
  have hr : { u.dem.rows with alarm := alarmRow a u.odo.standstill } =
      { s.dem.rows with alarm := alarmRow a s.odo.standstill } := by simp [u, v]
  have e : setAlarm a s = writeRows { s.dem.rows with alarm := alarmRow a s.odo.standstill } u := by
    rw [← hr]; rfl
  have w := writeRows_written { s.dem.rows with alarm := alarmRow a s.odo.standstill } u
  have pu : PortsKeep (.alarm :: rowEvents) none s u := .raiseIf_of _ .alarm rfl (by decide)
  rw [e]
  refine ⟨?_, ?_, ?_, ?_, pu.trans (w.ports.mono (by decide) (.inl rfl))⟩
  · rw [w.follow.dem.alarm]; simp [u, v]
  · intro h
    have hu : u = raise .alarm v := by simp [u, raiseIf, h]
    have : raisedAll .alarm u := by rw [hu]; exact raisedAll_raise _ _
    exact this.mono w.ports
  · exact w.follow.of_eq (raiseIf_dem v _ _) (raiseIf_drive v _ _)
      (by rw [show u.odo = v.odo from raiseIf_odo v _ _]) (raiseIf_store v _ _)
  · intro b hb
    refine Block.same.trans ?_ (w.keeps b hb)
    cases b <;> first | exact absurd hb (by decide) | simp [Block.same, u, v]

end Sys2Proof.Machine
end

