-- ==== Sys2Proof/Laws/Memory.lean ====
section
/-!
SUPPORT. The canonical form of the profile memory (R40): every operation on it keeps the form, and a byte
stored is read back.
-/

namespace Sys2Proof.Machine

/-- The form, as a fact of the first entry and a fact of the rest. -/
theorem Memory.wf_cons (c : Host.Cell) (m : Memory) :
    Memory.wf (c :: m) = true ↔ c.1 < 65536 ∧ (∀ d ∈ m, c.1 < d.1) ∧ Memory.wf m = true := by
  simp [Memory.wf, and_assoc]

/-- Every address of a stored byte is the one stored to, or was there. -/
theorem mem_putCell {a : Nat} {b : Byte} {m : Memory} {d : Host.Cell} (h : d ∈ putCell a b m) :
    d = (a, b) ∨ d ∈ m := by
  induction m with
  | nil => exact Or.inl (by simpa [putCell] using h)
  | cons c rest ih =>
    unfold putCell at h
    split at h
    · rcases List.mem_cons.mp h with h | h
      · exact Or.inr (h ▸ List.mem_cons_self ..)
      · exact (ih h).imp_right (List.mem_cons_of_mem _)
    · split at h
      · rcases List.mem_cons.mp h with h | h
        · exact Or.inl h
        · exact Or.inr (List.mem_cons_of_mem _ h)
      · rcases List.mem_cons.mp h with h | h
        · exact Or.inl h
        · exact Or.inr h

/-- Storing one byte keeps the form. -/
theorem putCell_wf {a : Nat} (b : Byte) {m : Memory} (ha : a < 65536) (h : Memory.wf m = true) :
    Memory.wf (putCell a b m) = true := by
  induction m with
  | nil => simp [putCell, Memory.wf, ha]
  | cons c rest ih =>
    obtain ⟨hc, hlt, hr⟩ := (Memory.wf_cons c rest).mp h
    unfold putCell
    split
    · rename_i hca
      refine (Memory.wf_cons _ _).mpr ⟨hc, fun d hd => ?_, ih hr⟩
      rcases mem_putCell hd with rfl | hd
      · exact hca
      · exact hlt d hd
    · split
      · rename_i hca
        exact (Memory.wf_cons _ _).mpr ⟨ha, fun d hd => hca ▸ hlt d hd, hr⟩
      · rename_i h1 h2
        have hac : a < c.1 := by omega
        refine (Memory.wf_cons _ _).mpr ⟨ha, fun d hd => ?_, h⟩
        rcases List.mem_cons.mp hd with rfl | hd
        · exact hac
        · exact hac.trans (hlt d hd)

/-- Storing bytes within the memory keeps the form. -/
theorem putBytes_wf (l : List Byte) {a : Nat} {m : Memory} (ha : a + l.length ≤ 65536)
    (h : Memory.wf m = true) : Memory.wf (putBytes a l m) = true := by
  induction l generalizing a m with
  | nil => exact h
  | cons b rest ih =>
    simp only [List.length_cons] at ha
    exact ih (by omega) (putCell_wf b (by omega) h)

/-- Forgetting a page keeps the form. -/
theorem forgetPage_wf (a : Nat) {m : Memory} (h : Memory.wf m = true) : Memory.wf (forgetPage a m) = true := by
  induction m with
  | nil => rfl
  | cons c rest ih =>
    obtain ⟨hc, hlt, hr⟩ := (Memory.wf_cons c rest).mp h
    unfold forgetPage at ih ⊢
    rw [List.filter_cons]
    split
    · exact (Memory.wf_cons _ _).mpr ⟨hc, fun d hd => hlt d (List.mem_filter.mp hd).1, ih hr⟩
    · exact ih hr

/-- A page's bytes fit in a page. -/
theorem fillPage_length (l : List Byte) (h : l.length ≤ 32) : (fillPage l).length = 32 := by
  simp [fillPage]; omega

theorem natField_length (width v : Nat) : (natField width v).length = width := by
  unfold natField
  split <;> simp

theorem headerBytes_length (st : Store) (mark : Byte) : (headerBytes st mark).length = 16 := by
  simp [headerBytes, natField_length, crcField]

theorem pageBytes_length (st : Store) (page : Nat) : (pageBytes st page).length ≤ 32 := by
  unfold pageBytes
  split
  · rw [fillPage_length _ (by rw [headerBytes_length]; omega)]
  · split
    · rw [fillPage_length _ (by rw [headerBytes_length]; omega)]
    · split
      · simp
      · rw [fillPage_length _ (by simp)]

/-- Every page of a commit lies within the memory, while the segment table keeps its bound. -/
theorem pageAddress_le (st : Store) (page : Nat) (h : st.segments.length ≤ Config.segmentSlots) :
    pageAddress st page + 32 ≤ 65536 := by
  unfold pageAddress
  split
  · omega
  · rename_i hp
    have : commitPages st.segments.length ≤ 235 := by
      unfold commitPages segmentPages segmentBlockLength Config.segmentSlots at *
      omega
    omega

/-- Storing a page keeps the form. -/
theorem storePage_wf (page : Nat) (s : State) (hs : s.store.segments.length ≤ Config.segmentSlots)
    (h : Memory.wf s.memory = true) : Memory.wf (storePage page s).memory = true := by
  have hl := pageBytes_length s.store page
  have ha := pageAddress_le s.store page hs
  exact putBytes_wf _ (by omega) h

/-- Losing a page keeps the form. -/
theorem losePage_wf (page : Nat) (s : State) (h : Memory.wf s.memory = true) :
    Memory.wf (losePage page s).memory = true := forgetPage_wf _ h

theorem readCell_cons (x : Nat) (c : Host.Cell) (m : Memory) :
    readCell x (c :: m) = if c.1 = x then some c.2 else readCell x m := by
  unfold readCell
  rw [List.find?_cons]
  by_cases h : c.1 = x <;> simp [h]

/-- A byte stored is read back, and every other address reads as before. -/
theorem readCell_putCell (a x : Nat) (b : Byte) (m : Memory) (h : Memory.wf m = true) :
    readCell x (putCell a b m) = if x = a then some b else readCell x m := by
  induction m with
  | nil =>
    rw [putCell, readCell_cons]
    by_cases hx : x = a
    · subst hx; simp
    · simpa [hx] using fun h : a = x => absurd h.symm hx
  | cons c rest ih =>
    obtain ⟨_, hlt, hr⟩ := (Memory.wf_cons c rest).mp h
    unfold putCell
    split
    · rename_i hca
      rw [readCell_cons, ih hr, readCell_cons]
      by_cases hx : x = a
      · subst hx; simp [Nat.ne_of_lt hca]
      · simp [hx]
    · split
      · rename_i hca
        rw [readCell_cons, readCell_cons]
        by_cases hx : x = a
        · subst hx; simp
        · have : ¬ a = x := fun h => hx h.symm
          simp [hx, this, hca]
      · rw [readCell_cons]
        by_cases hx : x = a
        · subst hx; simp
        · simpa [hx] using fun h : a = x => absurd h.symm hx

theorem reset_memory_wf : Memory.wf State.reset.memory = true := by decide

end Sys2Proof.Machine
end

