-- ==== Sys2Proof/Laws/PerInstr.lean ====
section
/-!
SUPPORT. The family `Wire`, of every command as syntax: a well-formed request fits a telegram, and a
well-formed frame fits the radio's frames (R151, R172).
-/

namespace Sys2Proof.Laws.Wire

open Sys2Proof.Machine

/-- What a well-formed command is on the wire: a request's telegram has a length byte that R172 admits and
4 to 254 bytes in all; a frame has 10 to 128 bytes (R151); and no command is both. -/
def Statement (i : Instr) : Prop :=
  WellFormed i = true →
    (∀ p code args, telegramOf i = some (p, code, args) →
      lengthGood (BitVec.ofNat 8 (code :: args).length) = true ∧
      5 ≤ (telegramBytes (code :: args)).length ∧ (telegramBytes (code :: args)).length ≤ 254 ∧
      frameOf i = none) ∧
    (∀ f, frameOf i = some f → 10 ≤ (frameOnAir f).length ∧ (frameOnAir f).length ≤ 128)

theorem telegram_fits (code : Byte) (args : List Byte) (h : argsFit args = true) :
    lengthGood (BitVec.ofNat 8 (code :: args).length) = true ∧
      5 ≤ (telegramBytes (code :: args)).length ∧ (telegramBytes (code :: args)).length ≤ 254 := by
  have hl : args.length ≤ 249 := by simpa [argsFit] using h
  refine ⟨?_, ?_, ?_⟩
  · simp only [lengthGood, List.length_cons, BitVec.toNat_ofNat, Bool.and_eq_true, decide_eq_true_eq]
    omega
  · simp [telegramBytes, crcField]
  · simp [telegramBytes, crcField]
    omega

theorem frame_fits (f : Frame) (h : bodyFits f.body = true) :
    10 ≤ (frameOnAir f).length ∧ (frameOnAir f).length ≤ 128 := by
  have hl : f.body.length ≤ 118 := by simpa [bodyFits] using h
  simp only [frameOnAir, crcField, List.length_append, List.length_cons, List.length_nil]
  omega

/-- A request is of the family. -/
theorem of_request {i : Instr} {p : Port} {code : Byte} {args : List Byte}
    (ht : telegramOf i = some (p, code, args)) (hf : frameOf i = none)
    (hw : WellFormed i = true → argsFit args = true) : Statement i := by
  intro h
  refine ⟨fun p' code' args' h' => ?_, fun f h' => ?_⟩
  · rw [ht] at h'
    cases h'
    have w := telegram_fits code args (hw h)
    exact ⟨w.1, w.2.1, w.2.2, hf⟩
  · rw [hf] at h'
    cases h'

/-- A frame is of the family. -/
theorem of_frame {i : Instr} {f : Frame} (ht : telegramOf i = none) (hf : frameOf i = some f)
    (hw : WellFormed i = true → bodyFits f.body = true) : Statement i := by
  intro h
  refine ⟨fun p' code' args' h' => ?_, fun f' h' => ?_⟩
  · rw [ht] at h'
    cases h'
  · rw [hf] at h'
    cases h'
    exact frame_fits f (hw h)

/-- A command that is neither is of the family. -/
theorem of_event {i : Instr} (ht : telegramOf i = none) (hf : frameOf i = none) : Statement i := by
  intro _
  refine ⟨fun p' code' args' h' => ?_, fun f' h' => ?_⟩
  · rw [ht] at h'
    cases h'
  · rw [hf] at h'
    cases h'

theorem powerOn (inputs : CarInputs) : Statement (.powerOn inputs) := of_event rfl rfl
theorem readStatus (p : Port) (args : List Byte) : Statement (.readStatus p args) := of_request rfl rfl id
theorem readTable (p : Port) (args : List Byte) : Statement (.readTable p args) := of_request rfl rfl id
theorem readEvents (p : Port) (args : List Byte) : Statement (.readEvents p args) := of_request rfl rfl id
theorem clearEvents (p : Port) (args : List Byte) : Statement (.clearEvents p args) := of_request rfl rfl id
theorem setMask (p : Port) (args : List Byte) : Statement (.setMask p args) := of_request rfl rfl id
theorem clearMask (p : Port) (args : List Byte) : Statement (.clearMask p args) := of_request rfl rfl id
theorem takeAuthority (p : Port) (args : List Byte) : Statement (.takeAuthority p args) := of_request rfl rfl id
theorem releaseAuthority (p : Port) (args : List Byte) : Statement (.releaseAuthority p args) := of_request rfl rfl id
theorem setDirection (p : Port) (args : List Byte) : Statement (.setDirection p args) := of_request rfl rfl id
theorem setComposition (p : Port) (args : List Byte) : Statement (.setComposition p args) := of_request rfl rfl id
theorem setPosition (p : Port) (args : List Byte) : Statement (.setPosition p args) := of_request rfl rfl id
theorem selectMode (p : Port) (args : List Byte) : Statement (.selectMode p args) := of_request rfl rfl id
theorem restart (p : Port) (args : List Byte) : Statement (.restart p args) := of_request rfl rfl id
theorem brakeDemand (p : Port) (args : List Byte) : Statement (.brakeDemand p args) := of_request rfl rfl id
theorem emergency (p : Port) (args : List Byte) : Statement (.emergency p args) := of_request rfl rfl id
theorem emergencyWithdraw (p : Port) (args : List Byte) : Statement (.emergencyWithdraw p args) := of_request rfl rfl id
theorem emergencyReset (p : Port) (args : List Byte) : Statement (.emergencyReset p args) := of_request rfl rfl id
theorem brakeTestStart (p : Port) (args : List Byte) : Statement (.brakeTestStart p args) := of_request rfl rfl id
theorem brakeTestAbort (p : Port) (args : List Byte) : Statement (.brakeTestAbort p args) := of_request rfl rfl id
theorem doorRelease (p : Port) (args : List Byte) : Statement (.doorRelease p args) := of_request rfl rfl id
theorem doorClose (p : Port) (args : List Byte) : Statement (.doorClose p args) := of_request rfl rfl id
theorem doorRetry (p : Port) (args : List Byte) : Statement (.doorRetry p args) := of_request rfl rfl id
theorem alarmConfirm (p : Port) (args : List Byte) : Statement (.alarmConfirm p args) := of_request rfl rfl id
theorem alarmOverride (p : Port) (args : List Byte) : Statement (.alarmOverride p args) := of_request rfl rfl id
theorem restrictionAdd (p : Port) (args : List Byte) : Statement (.restrictionAdd p args) := of_request rfl rfl id
theorem restrictionLift (p : Port) (args : List Byte) : Statement (.restrictionLift p args) := of_request rfl rfl id
theorem permitEnter (p : Port) (args : List Byte) : Statement (.permitEnter p args) := of_request rfl rfl id
theorem permitClear (p : Port) (args : List Byte) : Statement (.permitClear p args) := of_request rfl rfl id
theorem radioStopOverride (p : Port) (args : List Byte) : Statement (.radioStopOverride p args) := of_request rfl rfl id
theorem inboxTake (p : Port) (args : List Byte) : Statement (.inboxTake p args) := of_request rfl rfl id
theorem counterDecrement (p : Port) (args : List Byte) : Statement (.counterDecrement p args) := of_request rfl rfl id
theorem profileWrite (p : Port) (args : List Byte) : Statement (.profileWrite p args) := of_request rfl rfl id
theorem parameterWrite (p : Port) (args : List Byte) : Statement (.parameterWrite p args) := of_request rfl rfl id
theorem profileCommit (p : Port) (args : List Byte) : Statement (.profileCommit p args) := of_request rfl rfl id
theorem unknownCommand (p : Port) (code : Byte) (args : List Byte) : Statement (.unknownCommand p code args) := of_request rfl rfl fun h => ((Bool.and_eq_true _ _).mp h).1
theorem telegramCrcError (p : Port) : Statement (.telegramCrcError p) := of_event rfl rfl
theorem framingError (p : Port) : Statement (.framingError p) := of_event rfl rfl
theorem gapTimeExpiry (p : Port) : Statement (.gapTimeExpiry p) := of_event rfl rfl
theorem answerSent (p : Port) : Statement (.answerSent p) := of_event rfl rfl
theorem linkSilenceExpiry (l : LinkPort) : Statement (.linkSilenceExpiry l) := of_event rfl rfl
theorem tachometerPulse (t : Tacho) (forward : Bool) : Statement (.tachometerPulse t forward) := of_event rfl rfl
theorem samplingExpiry : Statement (.samplingExpiry) := of_event rfl rfl
theorem standstillBegin : Statement (.standstillBegin) := of_event rfl rfl
theorem pinionFault : Statement (.pinionFault) := of_event rfl rfl
theorem trackMarkDetection : Statement (.trackMarkDetection) := of_event rfl rfl
theorem supervisionCycle : Statement (.supervisionCycle) := of_event rfl rfl
theorem periodStart : Statement (.periodStart) := of_event rfl rfl
theorem servicePressureReading (kPa : Nat) : Statement (.servicePressureReading kPa) := of_event rfl rfl
theorem releasePressureReading (kPa : Nat) : Statement (.releasePressureReading kPa) := of_event rfl rfl
theorem serviceCheckTimerExpiry : Statement (.serviceCheckTimerExpiry) := of_event rfl rfl
theorem releaseCheckTimerExpiry : Statement (.releaseCheckTimerExpiry) := of_event rfl rfl
theorem applyCheckTimerExpiry : Statement (.applyCheckTimerExpiry) := of_event rfl rfl
theorem brakeTestStepTimerExpiry : Statement (.brakeTestStepTimerExpiry) := of_event rfl rfl
theorem doorTimerExpiry (d : DoorId) : Statement (.doorTimerExpiry d) := of_event rfl rfl
theorem doorLockedInput (d : DoorId) (present : Bool) : Statement (.doorLockedInput d present) := of_event rfl rfl
theorem doorClosedInput (d : DoorId) (present : Bool) : Statement (.doorClosedInput d present) := of_event rfl rfl
theorem doorOpenLimitInput (d : DoorId) (present : Bool) : Statement (.doorOpenLimitInput d present) := of_event rfl rfl
theorem doorObstacleInput (d : DoorId) (present : Bool) : Statement (.doorObstacleInput d present) := of_event rfl rfl
theorem passengerButton (d : DoorId) (pressed : Bool) : Statement (.passengerButton d pressed) := of_event rfl rfl
theorem isolationSwitch (d : DoorId) (on : Bool) : Statement (.isolationSwitch d on) := of_event rfl rfl
theorem handleChange (h : HandleId) (pulled : Bool) : Statement (.handleChange h pulled) := of_event rfl rfl
theorem discardedFrame (x : Delivery) : Statement (.discardedFrame x) := of_event rfl rfl
theorem beacon (h : FrameHeader) (body : List Byte) : Statement (.beacon h body) := of_frame rfl rfl id
theorem restrictionSet (h : FrameHeader) (body : List Byte) : Statement (.restrictionSet h body) := of_frame rfl rfl id
theorem restrictionLiftBulletin (h : FrameHeader) (body : List Byte) : Statement (.restrictionLiftBulletin h body) := of_frame rfl rfl id
theorem permitGrant (h : FrameHeader) (body : List Byte) : Statement (.permitGrant h body) := of_frame rfl rfl id
theorem permitRevoke (h : FrameHeader) (body : List Byte) : Statement (.permitRevoke h body) := of_frame rfl rfl id
theorem stopOrder (h : FrameHeader) (body : List Byte) : Statement (.stopOrder h body) := of_frame rfl rfl id
theorem stopRelease (h : FrameHeader) (body : List Byte) : Statement (.stopRelease h body) := of_frame rfl rfl id
theorem text (h : FrameHeader) (body : List Byte) : Statement (.text h body) := of_frame rfl rfl id
theorem transmissionEnd : Statement (.transmissionEnd) := of_event rfl rfl
theorem windowTimerExpiry : Statement (.windowTimerExpiry) := of_event rfl rfl
theorem silenceTimerTick : Statement (.silenceTimerTick) := of_event rfl rfl
theorem reportTimerExpiry : Statement (.reportTimerExpiry) := of_event rfl rfl
theorem loaderStatusAnswer (status : Byte) : Statement (.loaderStatusAnswer status) := of_event rfl rfl
theorem loaderBusyTimeout : Statement (.loaderBusyTimeout) := of_event rfl rfl
theorem headerReadEnd (bytes : List Byte) : Statement (.headerReadEnd bytes) := of_event rfl rfl
theorem parameterBlockReadEnd (bytes : List Byte) : Statement (.parameterBlockReadEnd bytes) := of_event rfl rfl
theorem segmentBlockReadEnd (bytes : List Byte) : Statement (.segmentBlockReadEnd bytes) := of_event rfl rfl
theorem commitStatusAnswer (status : Byte) : Statement (.commitStatusAnswer status) := of_event rfl rfl
theorem pageTimerExpiry : Statement (.pageTimerExpiry) := of_event rfl rfl
theorem telegramByteArrival (p : Port) (byte : Byte) : Statement (.telegramByteArrival p byte) := of_event rfl rfl
theorem commitTransferEnd : Statement (.commitTransferEnd) := of_event rfl rfl

end Sys2Proof.Laws.Wire
end

