-- ==== Sys2Proof/Laws/Radio.lean ====
section
/-!
SUPPORT. What the radio's shared acts do, each said once: a counter raised (`count_counted`), a transmission begun
(`beginTransmission_begun`), an acknowledgement offered (`offerAck_offered`), a message stored
(`storeMessage_stored`), a stop entry put (`putStop_put`), the coverage formed (`formCoverage_formed`, by the table of
`coverageOf_table`), the current zone formed (`formZone_formed`, by the table of `zoneHere_table`).
-/

namespace Sys2Proof.Machine

theorem Counters.get_put (k j : Counter) (v : Nat) (c : Counters) :
    (c.put k v).get j = if j = k then v else c.get j := by
  cases k <;> cases j <;> rfl

theorem satInc_raisedByOne (n : Nat) : satInc n = raisedByOne n := rfl

theorem satInc_ne_alert {v : Nat} (hv : v ≠ 32767) (hx : ¬satInc v = v) : satInc v ≠ Config.counterAlert := by
  unfold satInc at hx ⊢
  by_cases hm : v < Config.counterMax
  · rw [if_pos hm]
    show v + 1 ≠ 32768
    omega
  · rw [if_neg hm] at hx
    exact absurd rfl hx

/-- A counter raised (R153). -/
theorem count_counted (k : Counter) (s : State) : Counted k s (count k s) := by
  let v := s.radio.counters.get k
  let u : State := updRadio (fun r => { r with counters := r.counters.put k (satInc v) }) s
  have e : count k s = raiseIf (satInc v = Config.counterAlert && !(satInc v = v)) .counterAlert u := rfl
  have hr : (count k s).radio = { s.radio with counters := s.radio.counters.put k (satInc v) } := by
    rw [e, raiseIf_radio]; rfl
  refine ⟨?_, ?_, ?_, ?_, ?_, ?_, ?_⟩
  · rw [hr]; exact (Counters.get_put ..).trans (if_pos rfl)
  · intro j hj
    rw [hr]; exact (Counters.get_put ..).trans (if_neg hj)
  · rw [hr]
  · intro h
    have hv : v = 32767 := h
    rw [e, hv]
    exact raisedAll_raise _ _
  · intro h
    have hc : (satInc v = Config.counterAlert && !(satInc v = v)) = false := by
      have hv : v ≠ 32767 := h
      by_cases hx : satInc v = v
      · simp [hx]
      · have : satInc v ≠ Config.counterAlert := satInc_ne_alert hv hx
        simp [this]
    rw [e, hc]
    rfl
  · intro b hb
    rw [e]
    cases b <;> first | exact absurd hb (by decide) | simp [Block.same, u]
  · rw [e]
    exact .raiseIf_of _ .counterAlert rfl (by decide)

/-- A moment at which a transmission may begin (R168). -/
theorem beginTransmission_begun (s : State) : TransmissionBegun s (beginTransmission s) := by
  refine ⟨?_, ?_, ?_, ?_⟩
  · intro w e rest hw ht hf ha
    simp [beginTransmission, hw, ht, hf, waitingFrame, ha, updRadio]
  · intro w hw ht hf ha hr
    simp [beginTransmission, hw, ht, hf, waitingFrame, ha, hr, updRadio]
  · intro ha hr
    have : waitingFrame s = none := by simp [waitingFrame, ha, hr]
    unfold beginTransmission
    rw [this]
    split
    · split <;> rfl
    · rfl
  · intro h
    unfold beginTransmission
    split
    · rename_i w hw ht
      rcases h with h | h | h
      · rw [h] at hw; cases hw
      · exact absurd ht h
      · rw [if_neg (by have := h w hw; omega)]
    · rfl

/-- An acknowledgement offered (R165, R168). -/
theorem offerAck_offered (e : BulletinEntry) (s : State) : AckOffered e s (offerAck e s) := by
  refine ⟨?_, ?_, ?_⟩
  · intro h
    have : transmits s.mode = false := by
      unfold transmits
      cases hc : s.mode.composition with
      | none => rfl
      | some c => simp [h c hc]
    simp [offerAck, this]
  · intro c hc hr hl
    have : offerAck e s = beginTransmission (updRadio (fun r => { r with acks := r.acks ++ [e] }) s) := by
      simp [offerAck, transmits, hc, hr, Config.ackSlots, hl]
    rw [this]
    exact beginTransmission_begun _
  · intro c hc hr hl
    have : offerAck e s = count .ackDrops s := by
      have : ¬s.radio.acks.length < 8 := by omega
      simp [offerAck, transmits, hc, hr, Config.ackSlots, this]
    rw [this]
    exact count_counted _ _

/-- A message stored (R162, R164). -/
theorem storeMessage_stored (m : Message) (s : State) : MessageStored m s (storeMessage m s) := by
  let u : State := updRadio (fun r =>
    { r.withInbox (r.inbox ++ [m]) with arrivalCount := (r.arrivalCount + 1) % 256 }) s
  let c := decide (s.store.params.inboxLow < s.radio.freeCount) &&
    decide ((raise .inbox u).radio.freeCount ≤ s.store.params.inboxLow)
  have e : storeMessage m s = raiseIf c .inboxLow (raise .inbox u) := rfl
  have hr : (storeMessage m s).radio = { s.radio with
      inbox := s.radio.inbox ++ [m], freeCount := 8 - (s.radio.inbox.length + 1)
      arrivalCount := (s.radio.arrivalCount + 1) % 256 } := by
    rw [e, raiseIf_radio]
    simp [u, Radio.withInbox, freeSlots, Config.inboxSlots]
  have pi : PortsKeep [.inbox, .inboxLow] none s (raise .inbox u) := .raise_of .inbox rfl (by decide)
  have pl : PortsKeep [.inbox, .inboxLow] none (raise .inbox u) (storeMessage m s) :=
    .raiseIf_of _ .inboxLow rfl (by decide)
  refine ⟨hr, (raisedAll_raise _ _).mono pl, ?_, ?_, pi.trans pl⟩
  · intro h1 h2
    have hc : c = true := by
      rw [e, raiseIf_radio] at h2
      simp only [c, h1, h2, decide_true, Bool.and_self]
    rw [e, hc]
    exact raisedAll_raise _ _
  · intro b hb
    rw [e]
    cases b <;> first | exact absurd hb (by decide) | simp [Block.same, u]

/-- A stop entry put (R71, R72). -/
theorem putStop_put (station : Nat) (k : StopKind) (s : State) : StopPut station k s (putStop station k s) := by
  let l := s.limits.stops.set (station - 1) k
  let v : State := { s with limits := { s.limits with stops := l } }
  let u := raiseIf (!(l = s.limits.stops)) .restrictions v
  have hr : { u.dem.rows with radio := radioRow (strongestStop u.limits.stops) u.odo.standstill } =
      { s.dem.rows with radio := radioRow (strongestStop l) s.odo.standstill } := by simp [u, v]
  have e : putStop station k s =
      writeRows { s.dem.rows with radio := radioRow (strongestStop l) s.odo.standstill } u := by
    rw [← hr]; rfl
  have w := writeRows_written { s.dem.rows with radio := radioRow (strongestStop l) s.odo.standstill } u
  have hl : (putStop station k s).limits = { s.limits with stops := l } := by
    rw [e, w.keeps .limits (by decide)]; simp [u, v]
  have pu : PortsKeep (.restrictions :: rowEvents) none s u := .raiseIf_of _ .restrictions rfl (by decide)
  refine ⟨hl, ?_, ?_, ?_, ?_⟩
  · intro h
    rw [hl] at h
    have hu : u = raise .restrictions v := by simp [u, raiseIf, show l ≠ s.limits.stops from h]
    have : raisedAll .restrictions u := by rw [hu]; exact raisedAll_raise _ _
    rw [e]
    exact this.mono w.ports
  · rw [hl, e]
    exact w.follow.of_eq (raiseIf_dem v _ _) (raiseIf_drive v _ _)
      (by rw [show u.odo = v.odo from raiseIf_odo v _ _]) (raiseIf_store v _ _)
  · intro b hb
    rw [e]
    refine Block.same.trans ?_ (w.keeps b (by cases b <;> first | decide | exact absurd hb (by decide)))
    cases b <;> first | exact absurd hb (by decide) | simp [Block.same, u, v]
  · rw [e]
    exact pu.trans (w.ports.mono (by decide) (.inl rfl))

/-- The coverage formed, with the RADIO event of a change (R157). -/
theorem formCoverage_formed (s : State) :
    (formCoverage s).radio = { s.radio with coverage := coverageOf s } ∧
    (coverageOf s ≠ s.radio.coverage → raisedAll .radio (formCoverage s)) ∧
    Keeps allButRadio s (formCoverage s) ∧ PortsKeep [.radio] none s (formCoverage s) := by
  let u : State := updRadio (fun r => { r with coverage := coverageOf s }) s
  have e : formCoverage s = raiseIf (!(coverageOf s = s.radio.coverage)) .radio u := rfl
  rw [e]
  refine ⟨by simp [u], ?_, ?_, .raiseIf_of _ .radio rfl (by decide)⟩
  · intro h
    simp only [raiseIf, h, decide_false, Bool.not_false, ite_true]
    exact raisedAll_raise _ _
  · intro b hb
    cases b <;> first | exact absurd hb (by decide) | simp [Block.same, u]

/-! ### The zone and the coverage by their tables -/

theorem contains_iff (g : Segment) (x : Nat) : g.contains (x : Int) = true ↔ g.start ≤ x ∧ x < g.start + g.length := by
  simp only [Segment.contains, Segment.upEnd, Bool.and_eq_true, decide_eq_true_eq, Int.ofNat_le, Int.ofNat_lt]

/-- The segment at a position is the one that the position lies in (R36). -/
theorem segmentAt_iff (table : List Segment) (x : Nat) (g : Segment) :
    segmentAt table x = some g ↔ StandsIn table x g := by
  unfold segmentAt StandsIn
  rw [List.find?_eq_some_iff_append]
  constructor
  · rintro ⟨hg, before, after, e, h⟩
    refine ⟨before, after, e, ((contains_iff g x).1 hg).1, ((contains_iff g x).1 hg).2, fun k hk hc => ?_⟩
    simpa [(contains_iff k x).2 hc] using h k hk
  · rintro ⟨before, after, e, h1, h2, h⟩
    refine ⟨(contains_iff g x).2 ⟨h1, h2⟩, before, after, e, fun k hk => ?_⟩
    have : ¬k.contains (x : Int) = true := fun hc => h k hk ((contains_iff k x).1 hc)
    simpa using this

theorem nowhere_iff (s : State) : Nowhere s ↔ s.odo.posState = .unknown ∨ carSegment s = none := by
  unfold Nowhere carSegment segmentAt
  rw [List.find?_eq_none]
  simp only [contains_iff]

/-- The zone and DARK of the car position, by the table of R155. -/
theorem zoneHere_table (s : State) : ZoneOf s (zoneHere s).1 (zoneHere s).2 := by
  constructor
  · intro h
    rcases (nowhere_iff s).1 h with h | h <;> unfold zoneHere
    · rw [h]; exact ⟨rfl, rfl⟩
    · rw [h]; split <;> exact ⟨rfl, rfl⟩
  · intro hu g hg
    have hs : carSegment s = some g := (segmentAt_iff _ _ _).2 hg
    unfold zoneHere
    rw [hs]
    split
    · exact absurd ‹_› hu
    · exact ⟨rfl, rfl⟩

/-- The coverage, by the table of R157. -/
theorem coverageOf_table (s : State) : CoverageOf s (coverageOf s) := by
  have hn := nowhere_iff s
  unfold coverageOf lostTime
  constructor <;> intros <;> split_ifs <;> first | rfl | omega | simp_all

/-- The current zone formed anew (R155 to R157). -/
theorem formZone_formed (s : State) :
    ZoneFormed s (formZone s) ∧ Keeps allButRadio s (formZone s) ∧ PortsKeep [.radio] none s (formZone s) := by
  by_cases hz : zoneHere s = (s.radio.zone, s.radio.dark)
  · have e : formZone s = s := by simp [formZone, hz]
    have z := zoneHere_table s
    rw [hz] at z
    rw [e]
    exact ⟨⟨z, fun _ _ => rfl, fun h => by simp at h, fun h => by simp at h, fun h => by simp at h, rfl⟩,
      fun b _ => by cases b <;> rfl, .refl ..⟩
  · let z := zoneHere s
    let v : State := updRadio (fun r => { silenceAfter z.1 z.2 r with zone := z.1, dark := z.2 }) s
    let u := raiseIf (!(z.1 = s.radio.zone)) .radio v
    have e : formZone s = formCoverage u := by simp [formZone, hz, u, v, z]
    have hu : u.radio = v.radio := by simp [u]
    obtain ⟨hr, hv, hk, hp⟩ := formCoverage_formed u
    have pu : PortsKeep [.radio] none s u := .raiseIf_of _ .radio rfl (by decide)
    have hodo : (formCoverage u).odo = s.odo := Eq.trans (hk .odo (by decide)) (by simp [u, v, updRadio])
    have hstore : (formCoverage u).store = s.store := Eq.trans (hk .store (by decide)) (by simp [u, v, updRadio])
    rw [e]
    have rr : (formCoverage u).radio = { s.radio with
        zone := z.1, dark := z.2, coverage := coverageOf u
        silenceCount := 0, silenceRunning := !(z.1 = 0) && !z.2, silenceTick := 0 } := by
      rw [hr, hu]; rfl
    refine ⟨⟨?_, ?_, ?_, ?_, ?_, ?_⟩, ?_, pu.trans hp⟩
    · have t := zoneHere_table s
      rw [rr]
      exact ⟨fun h => t.nowhere (by simpa only [Nowhere, hodo, hstore] using h),
        fun h g hg => t.segment (by simpa only [hodo] using h) g (by simpa only [hodo, hstore] using hg)⟩
    · intro h1 h2
      rw [rr] at h1 h2
      exact absurd (Prod.ext h1 h2) hz
    · intro _
      rw [rr]
      simp
    · intro _
      have t := coverageOf_table (formCoverage u)
      have : coverageOf (formCoverage u) = coverageOf u := by
        unfold coverageOf carSegment
        rw [show (formCoverage u).odo = u.odo from hk .odo (by decide),
          show (formCoverage u).store = u.store from hk .store (by decide), hr]
      rw [this] at t
      rw [show (formCoverage u).radio.coverage = coverageOf u by rw [hr]]
      exact t
    · rintro (h | h)
      · rw [rr] at h
        have : u = raise .radio v := by simp [u, raiseIf, show z.1 ≠ s.radio.zone from h]
        have ru : raisedAll .radio u := by rw [this]; exact raisedAll_raise _ _
        exact ru.mono hp
      · refine hv ?_
        rw [rr] at h
        rw [hu]
        exact h
    · rw [rr]
    · intro b hb
      refine Block.same.trans ?_ (hk b hb)
      cases b <;> first | exact absurd hb (by decide) | simp [Block.same, u, v, updRadio]

/-- What forms the zone within a command forms it for the whole of it, where the rest leaves the radio, the position and
the table. -/
theorem ZoneFormed.within {s u v t : State} {may : List Event} {a : Option Port} (h : ZoneFormed u v)
    (hu : u.radio = s.radio) (hr : t.radio = v.radio) (hs : t.odo.posState = v.odo.posState)
    (hp : t.odo.position = v.odo.position) (ht : t.store = v.store) (hk : PortsKeep may a v t) : ZoneFormed s t := by
  have hn : Nowhere t ↔ Nowhere v := by simp only [Nowhere, hs, hp, ht]
  refine ⟨?_, ?_, ?_, ?_, ?_, ?_⟩
  · rw [hr]
    exact ⟨fun k => h.zone.nowhere (hn.1 k),
      fun k g hg => h.zone.segment (hs ▸ k) g (by rw [hp, ht] at hg; exact hg)⟩
  · rw [hr, ← hu]; exact h.stands
  · rw [hr, ← hu]; exact h.silence
  · intro k
    rw [hr, ← hu] at k
    have c := h.coverage k
    rw [hr]
    constructor <;> simp only [hr, hn, ht]
    exacts [c.nowhere, c.dark, c.noZone, c.covered, c.silent, c.lost]
  · intro k
    rw [hr, ← hu] at k
    exact (h.event k).mono hk
  · rw [hr, ← hu]; exact h.rest

end Sys2Proof.Machine
end

