-- ==== Sys2Proof/Laws/Standstill.lean ====
section
/-!
SUPPORT. What a change of standstill does to the brakes, said once where it begins (`beginStandstill_brakes`) and once
where it ends (`endStandstill_brakes`): the rows written in turn, and the outputs of a HOLD formed anew (R112, R125).
-/

namespace Sys2Proof.Machine

theorem becomesEmergency_same (r : Rows) : becomesEmergency r r = false := by
  simp [becomesEmergency]

/-- The same rows written again change nothing. -/
theorem RowsBring.again {p : Params} {still : Bool} {new : Rows} {a b c : BrakeSide} (h : RowsBring p still new a b)
    (k : RowsBring p still new b c) : c = b := by
  have f : becomesEmergency b.rows new = false := by rw [h.rows]; exact becomesEmergency_same new
  have l : c.latch = b.latch := by rw [k.latch, f, Bool.or_false]
  have d : c.driven = b.driven := by rw [k.driven, l, ← h.driven]
  have e : c.drive = b.drive := by
    by_cases hs : b.drive.source = .test
    · exact k.drive.test hs f
    · exact k.drive.unmoved d hs
  obtain ⟨l1, r1, d1, e1⟩ := c
  obtain ⟨l2, r2, d2, e2⟩ := b
  simp only [BrakeSide.mk.injEq]
  exact ⟨l, k.rows.trans h.rows.symm, d, e⟩

theorem remapHold_remapped (s : State) : HoldRemapped s.store.params s.odo.standstill (brakeSide s)
    (brakeSide (remapHold s)) ∧ (remapHold s).dem = s.dem ∧ Keeps farBlocks s (remapHold s) := by
  unfold remapHold
  split
  · rename_i h
    have m := applyMapping_followed s
    rw [h.2] at m
    refine ⟨⟨?_, fun _ _ => m, fun x => ?_⟩, applyMapping_dem s, (applyMapping_cascade s).keeps⟩
    · simp [brakeSide]
    · exact absurd h fun y => x.elim (fun z => z y.1) fun z => z y.2
  · rename_i h
    exact ⟨⟨⟨rfl, rfl, rfl⟩, fun x y => absurd ⟨x, y⟩ h, fun _ => rfl⟩, rfl, .refl _ _⟩

/-- The rows that follow standstill, formed in turn. -/
theorem formStandstillRows_brakes (begins : Bool) (s : State) (hs : s.odo.standstill = begins) :
    StandstillBrakes begins (standstillWrites begins (formStandstillRows begins s)) s.store.params (brakeSide s)
      (formStandstillRows begins s) ∧
    (formStandstillRows begins s).doors = { s.doors with loopClosed := allSecured s.doors.door } := by
  have wa := formDoorsRow_formed s
  let a := formDoorsRow s
  have wb := writeRows_written { a.dem.rows with radio := radioRow (strongestStop a.limits.stops) a.odo.standstill } a
  let b := formRadioRow a
  have wc := formLinkRow_written b
  let c := formLinkRow b
  have wd := setAlarm_set (alarmNext c.dem.alarm (alarmPulled c.dem.handles) (noStopOverlap c) begins) c
  let d := evaluateAlarm begins c
  have we := writeRows_written
    { d.dem.rows with odometry := if d.odo.rollback || d.odo.pinionFault then .emergency else .none } d
  let e := formOdometryRow d
  have wt := remapHold_remapped e
  let t := remapHold e
  have ht : formStandstillRows begins s = t := rfl
  have keep : ∀ x ∈ [Block.mode, .odo, .limits, .store], x.same s a ∧ x.same a b ∧ x.same b c ∧ x.same c d ∧
      x.same d e ∧ x.same e t := by
    intro x hx
    refine ⟨wa.keeps x ?_, wb.keeps x ?_, wc.keeps x ?_, wd.2.2.2.1 x ?_, we.keeps x ?_, wt.2.2 x ?_⟩ <;>
      (cases x <;> first | decide | exact absurd hx (by decide))
  have doors : t.doors = a.doors := by
    have h1 : t.doors = e.doors := wt.2.2 .doors (by decide)
    have h2 : e.doors = d.doors := we.keeps .doors (by decide)
    have h3 : d.doors = c.doors := wd.2.2.2.1 .doors (by decide)
    have h4 : c.doors = b.doors := wc.keeps .doors (by decide)
    have h5 : b.doors = a.doors := wb.keeps .doors (by decide)
    rw [h1, h2, h3, h4, h5]
  obtain ⟨oa, ob, oc, od, oe, ot⟩ := keep .odo (by decide)
  obtain ⟨la, lb, lc, ld, le, lt⟩ := keep .limits (by decide)
  obtain ⟨ma, mb, mc, md, me, mt⟩ := keep .mode (by decide)
  obtain ⟨sa, sb, sc, sd, se, st⟩ := keep .store (by decide)
  simp only [Block.same] at oa ob oc od oe ot la lb lc ld le lt ma mb mc md me mt sa sb sc sd se st
  have alarm : t.dem.alarm = d.dem.alarm := by rw [wt.2.1]; exact we.follow.dem.alarm
  have ra : RowsBring s.store.params s.odo.standstill
    { s.dem.rows with doors := doorsRow a.doors.loopClosed s.odo.standstill } (brakeSide s) (brakeSide a) :=
    wa.row.bring
  have rb : RowsBring a.store.params a.odo.standstill
    { a.dem.rows with radio := radioRow (strongestStop a.limits.stops) a.odo.standstill } (brakeSide a)
    (brakeSide b) := wb.follow.bring
  have rc : RowsBring b.store.params b.odo.standstill
    { b.dem.rows with link := linkRow (holderLinkLost b.mode) b.odo.standstill } (brakeSide b) (brakeSide c) :=
    wc.follow.bring
  have rd : RowsBring c.store.params c.odo.standstill
    { c.dem.rows with alarm := alarmRow d.dem.alarm c.odo.standstill } (brakeSide c) (brakeSide d) := by
    rw [show d.dem.alarm = _ from wd.1]
    exact wd.2.2.1.bring
  have re : RowsBring d.store.params d.odo.standstill
    { d.dem.rows with odometry := odometryRow d.odo.rollback d.odo.pinionFault } (brakeSide d) (brakeSide e) :=
    we.follow.bring
  have rt : HoldRemapped e.store.params e.odo.standstill (brakeSide e) (brakeSide t) := wt.1
  have da : a.doors = { s.doors with loopClosed := allSecured s.doors.door } := wa.doors
  rw [ht]
  clear_value a b c d e t
  rw [hs] at ra
  rw [sa, oa, hs] at rb
  rw [sb, sa, ob, oa, hs] at rc
  rw [sc, sb, sa, oc, ob, oa, hs] at rd
  rw [sd, sc, sb, sa, od, oc, ob, oa, hs] at re
  rw [se, sd, sc, sb, sa, oe, od, oc, ob, oa, hs] at rt
  refine ⟨⟨brakeSide e, ⟨brakeSide a, ?_, brakeSide b, ?_, brakeSide c, ?_, brakeSide d, ?_, brakeSide e, ?_, rfl⟩, rt⟩,
    doors.trans da⟩
  · rw [doors]; exact ra
  · rw [lt, le, ld, lc, lb]; exact rb
  · rw [mt, me, md, mc]; exact rc
  · rw [alarm]; exact rd
  · rw [ot, oe, od, oc, ob, oa]; exact re

/-- Standstill begun, on the brakes (R23, R112). -/
theorem beginStandstill_brakes (s : State) : StandstillBrakes true (standstillWrites true (beginStandstill s))
    s.store.params (brakeSide s) (beginStandstill s) :=
  (formStandstillRows_brakes true _ rfl).1

/-- Standstill ended, on the brakes (R112, R125, R146, R148). -/
theorem endStandstill_brakes (s : State) :
    ∃ h, (s.drive.source = .test → HoldTaken s.store.params (.aborted .standstillLost) s.drive h) ∧
    (s.drive.source ≠ .test → h = s.drive) ∧
    StandstillBrakes false ((fun r => { r with doors := doorsRow (allSecured s.doors.door) false }) ::
      standstillWrites false (endStandstill s)) s.store.params { brakeSide s with drive := h } (endStandstill s) := by
  let n := notice .standstillEnd (updOdo (fun o => { o with standstill := false }) s)
  have cu := abortTest_cascade .standstillLost n
  have held : s.drive.source = .test → HoldTaken s.store.params (.aborted .standstillLost) s.drive
      (abortTest .standstillLost n).drive := fun h => abortTest_held .standstillLost n h
  have free : s.drive.source ≠ .test → (abortTest .standstillLost n).drive = s.drive := fun h => by
    rw [abortTest_untested .standstillLost n h]; rfl
  have dem : (abortTest .standstillLost n).dem = s.dem := (abortTest_dem _ n).trans rfl
  let u := abortTest .standstillLost n
  have wv := formDoorsRow_formed u
  let v := formDoorsRow u
  have ww := putDoors_formed (v.doors.door.map (·.onMoving (doorCtx v))) false false v
  let w := closeForMoving v
  have ou : u.odo.standstill = false := congrArg Odometry.standstill (cu.keeps .odo (by decide))
  have ov : v.odo.standstill = false := (congrArg Odometry.standstill (wv.keeps .odo (by decide))).trans ou
  have ow : w.odo.standstill = false :=
    (congrArg Odometry.standstill (ww.2.2.2.2.1 .odo (by decide))).trans ov
  have su : u.store = s.store := cu.keeps .store (by decide)
  have sv : v.store = s.store := Eq.trans (wv.keeps .store (by decide)) su
  have sw : w.store = s.store := Eq.trans (ww.2.2.2.2.1 .store (by decide)) sv
  have du : u.doors = s.doors := cu.keeps .doors (by decide)
  have f := formStandstillRows_brakes false w ow
  have he : endStandstill s = formStandstillRows false w := rfl
  have bv := wv.row.bring
  have bw := ww.1.row.bring
  have loop : w.doors.loopClosed = allSecured w.doors.door := ww.1.loop
  have dv := wv.doors
  rw [he]
  generalize formStandstillRows false w = t at f
  change RowsBring v.store.params v.odo.standstill
    { v.dem.rows with doors := doorsRow w.doors.loopClosed v.odo.standstill } (brakeSide v) (brakeSide w) at bw
  change RowsBring u.store.params u.odo.standstill
    { u.dem.rows with doors := doorsRow v.doors.loopClosed u.odo.standstill } (brakeSide u) (brakeSide v) at bv
  change v.doors = _ at dv
  change s.drive.source = .test → HoldTaken _ _ _ u.drive at held
  change s.drive.source ≠ .test → u.drive = _ at free
  change u.dem = _ at dem
  clear ww wv cu he
  clear_value w v u
  have side : brakeSide u = { brakeSide s with drive := u.drive } := by simp only [brakeSide, dem]
  rw [su, ou, dv, du, dem, side] at bv
  rw [sv, ov] at bw
  obtain ⟨⟨x, ⟨c1, h1, rest⟩, hold⟩, hd⟩ := f
  have lt : t.doors.loopClosed = w.doors.loopClosed := by rw [hd]; exact loop.symm
  rw [sw] at h1 rest hold
  have h1' : RowsBring s.store.params false { v.dem.rows with doors := doorsRow w.doors.loopClosed false }
      (brakeSide w) c1 := by
    have hr : (brakeSide w).rows = _ := bw.rows
    rw [hr, lt] at h1
    exact h1
  rw [bw.again h1'] at rest
  refine ⟨u.drive, held, free, x, ⟨brakeSide v, bv, brakeSide w, ?_, rest⟩, hold⟩
  rw [lt]
  exact bw

end Sys2Proof.Machine
end

