-- ==== Sys2Proof/Laws/Store.lean ====
section
/-!
SUPPORT. What the ends of a load and of a page do, each said once: a load ended with its result (`endLoad_ended`),
NO_PROFILE, NO_SEGMENTS, and the segments phase begun (`beginSegments_begun`) (R1, R41 to R46).
-/

namespace Sys2Proof.Machine

/-- A load ended, from any store (R1, R45). -/
theorem endLoad_ended (r : LoadResult) (x : Store) (s : State) : LoadEnded r x s (endLoad r { s with store := x }) := by
  let u : State := { s with
    store := { x with result := r, phase := .done, loader := .idle, differs := false }
    mode := { s.mode with mode := .shunt } }
  have e : endLoad r { s with store := x } = raise .mode (raise .profile u) := rfl
  have pp : PortsKeep [.profile, .mode] none s (raise .profile u) := .raise_of .profile rfl (by decide)
  have pm : PortsKeep [.profile, .mode] none (raise .profile u) (raise .mode (raise .profile u)) :=
    .raise .mode _ (by decide)
  rw [e]
  refine ⟨rfl, rfl, (raisedAll_raise _ _).mono pm, raisedAll_raise _ _, ?_, pp.trans pm⟩
  intro b hb
  cases b <;> first | rfl | exact absurd hb (by decide)

/-- A load that ends NO_PROFILE (R45, R46). -/
theorem endNoProfile_ended (b : LoadBlock) (why : LoadReason) (x : Store) (s : State) :
    NoProfile b why x s (endNoProfile b why { s with store := x }) := endLoad_ended _ _ s

/-- A load that ends NO_SEGMENTS (R43, R46). -/
theorem endNoSegments_ended (why : LoadReason) (d : LoadDetail) (x : Store) (s : State) :
    NoSegments why d x s (endNoSegments why d { s with store := x }) := endLoad_ended _ _ s

/-- A store put, and nothing else. -/
theorem StoreOnly.put (x : Store) (s : State) : StoreOnly x s { s with store := x } :=
  ⟨rfl, by intro b hb; cases b <;> first | rfl | exact absurd hb (by decide)⟩

/-- The segments phase begun (R43, R44). -/
theorem beginSegments_begun (x : Store) (s : State) : SegmentsBegun x s (beginSegments { s with store := x }) := by
  let y : Store := { x with phase := .segments }
  have e : beginSegments { s with store := x } =
      if x.headerCount = 0 ∨ 384 < x.headerCount then endNoSegments .count .none { s with store := y }
      else if 65536 < x.headerSegAddr + (3 + 19 * x.headerCount) then
        endNoSegments .overflow .none { s with store := y }
      else { s with store := { y with loader := .segmentRead } } := rfl
  rw [e]
  refine ⟨?_, ?_, ?_⟩
  · intro h
    rw [if_pos h]
    exact endNoSegments_ended _ _ _ s
  · intro h1 h2 h3
    rw [if_neg (by omega), if_pos (by omega)]
    exact endNoSegments_ended _ _ _ s
  · intro h1 h2 h3
    rw [if_neg (by omega), if_neg (by omega)]
    exact .put _ s

end Sys2Proof.Machine
end

