-- ==== Sys2Proof/Laws/Targets.lean ====
section
/-!
SUPPORT. What a supervision cycle's target list holds, said once (`targetList_at`): at each distance the candidates of
that distance in their order (R83, R84); and what its net deceleration is, said once (`netDecel_met`): the lowest of the
terms that the approach stretch meets (R86).
-/

namespace Sys2Proof.Machine

/-! ### The order -/

theorem mem_insertTarget (t x : Target) (l : List Target) : x ∈ insertTarget t l ↔ x = t ∨ x ∈ l := by
  induction l with
  | nil => simp [insertTarget]
  | cons y l ih =>
    unfold insertTarget
    split
    · simp
    · simp only [List.mem_cons, ih]
      tauto

theorem insertTarget_sorted (t : Target) (l : List Target) (h : l.Pairwise fun x y => x.distance ≤ y.distance) :
    (insertTarget t l).Pairwise fun x y => x.distance ≤ y.distance := by
  induction l with
  | nil => simp [insertTarget]
  | cons y l ih =>
    obtain ⟨hy, hl⟩ := List.pairwise_cons.1 h
    unfold insertTarget
    split
    · rename_i lt
      refine List.pairwise_cons.2 ⟨fun x hx => ?_, h⟩
      rcases List.mem_cons.1 hx with rfl | hx
      · omega
      · have := hy x hx; omega
    · refine List.pairwise_cons.2 ⟨fun x hx => ?_, ih hl⟩
      rcases (mem_insertTarget t x l).1 hx with rfl | hx
      · omega
      · exact hy x hx

/-- An entry put in its place stands behind those of its own distance. -/
theorem insertTarget_at (n : Nat) (t : Target) (l : List Target) (h : l.Pairwise fun x y => x.distance ≤ y.distance) :
    (insertTarget t l).filter (·.distance = n) = l.filter (·.distance = n) ++ [t].filter (·.distance = n) := by
  induction l with
  | nil => simp [insertTarget]
  | cons y l ih =>
    obtain ⟨hy, hl⟩ := List.pairwise_cons.1 h
    unfold insertTarget
    split
    · rename_i lt
      by_cases ht : t.distance = n
      · have none : (y :: l).filter (·.distance = n) = [] := by
          rw [List.filter_eq_nil_iff]
          intro x hx
          have : y.distance ≤ x.distance := by
            rcases List.mem_cons.1 hx with rfl | hx
            · exact Nat.le_refl _
            · exact hy x hx
          simp only [decide_eq_true_eq]
          omega
        rw [List.filter_cons_of_pos (by simpa using ht), none]
        simp [ht]
      · rw [List.filter_cons_of_neg (by simpa using ht)]
        simp [ht]
    · by_cases hn : y.distance = n
      · rw [List.filter_cons_of_pos (by simpa using hn), List.filter_cons_of_pos (by simpa using hn), ih hl]
        rfl
      · rw [List.filter_cons_of_neg (by simpa using hn), List.filter_cons_of_neg (by simpa using hn), ih hl]

/-- The sorted list keeps the order of the entries of one distance, and ascends (R84). -/
theorem sortTargets_at (l : List Target) : (sortTargets l).Pairwise (fun x y => x.distance ≤ y.distance) ∧
    ∀ n, (sortTargets l).filter (·.distance = n) = l.filter (·.distance = n) := by
  have h : ∀ (rest done : List Target), done.Pairwise (fun x y => x.distance ≤ y.distance) →
      (rest.foldl (fun sorted t => insertTarget t sorted) done).Pairwise (fun x y => x.distance ≤ y.distance) ∧
      ∀ n, (rest.foldl (fun sorted t => insertTarget t sorted) done).filter (·.distance = n) =
        done.filter (·.distance = n) ++ rest.filter (·.distance = n) := by
    intro rest
    induction rest with
    | nil => intro done hd; exact ⟨hd, fun n => by simp⟩
    | cons t rest ih =>
      intro done hd
      obtain ⟨p, f⟩ := ih (insertTarget t done) (insertTarget_sorted t done hd)
      refine ⟨p, fun n => ?_⟩
      rw [List.foldl_cons, f n, insertTarget_at n t done hd, List.append_assoc, ← List.filter_append]
      rfl
  obtain ⟨p, f⟩ := h l [] List.Pairwise.nil
  exact ⟨p, fun n => by simpa [sortTargets] using f n⟩

/-! ### The candidates -/

/-- A candidate without its record. -/
def Candidate.parts (c : Candidate) : TargetKind × Nat × Nat := (c.kind, c.point, c.speed)

theorem inWindow_at (s : State) (front : Int) (n : Nat) (h : n ≤ 6000) (l : List Candidate)
    (hk : ∀ c ∈ l, c.kind ≠ .permitEnd) :
    ((l.filterMap (inWindow s front)).filter (·.distance = n)).map (fun x => (x.kind, x.point, x.speed)) =
      (l.map Candidate.parts).filter (entersAt s.mode.direction front n) := by
  induction l with
  | nil => rfl
  | cons c l ih =>
    have ih := ih fun x hx => hk x (List.mem_cons_of_mem _ hx)
    have hc := hk c List.mem_cons_self
    let d := distanceAhead s.mode.direction front c.point
    have ent : entersAt s.mode.direction front n c.parts = decide (0 ≤ d ∧ d = (n : Int)) := by
      simp only [entersAt, Candidate.parts, hc, decide_false, Bool.or_false]
      by_cases hd : 0 ≤ d
      · simp [d, hd] at *
      · simp [d, hd] at *
    by_cases hw : 0 ≤ d ∧ d ≤ (Config.targetWindow : Int)
    · have e : inWindow s front c = some (targetAt s front c d.toNat false) := by
        unfold inWindow
        exact if_pos hw
      have hd : (targetAt s front c d.toNat false).distance = d.toNat := rfl
      rw [List.filterMap_cons_some e, List.map_cons]
      by_cases hn : d = (n : Int)
      · rw [List.filter_cons_of_pos (by simp [hd]; omega), List.filter_cons_of_pos (by rw [ent]; simp [hn]),
          List.map_cons, ih]
        rfl
      · rw [List.filter_cons_of_neg (by simp [hd]; omega), List.filter_cons_of_neg (by rw [ent]; simp [hn]), ih]
    · have e : inWindow s front c = none := by
        unfold inWindow
        exact if_neg hw
      have hn : ¬(0 ≤ d ∧ d = (n : Int)) := by
        intro x
        apply hw
        have : (Config.targetWindow : Int) = 6000 := rfl
        omega
      rw [List.filterMap_cons_none e, List.map_cons, List.filter_cons_of_neg (by rw [ent]; simpa using hn), ih]

theorem segmentCandidates_cons (p : Params) (dir : Direction) (g : Segment) (l : List Segment) (i : Nat) :
    segmentCandidates p dir i (g :: l) =
      ⟨.segment i, (match dir with | .downLine => g.upEnd | _ => g.start), segmentLimit p dir g⟩ ::
        segmentCandidates p dir (i + 1) l := by
  cases dir <;> rfl

theorem segmentCandidates_parts (p : Params) (dir : Direction) (l : List Segment) (i : Nat) :
    (segmentCandidates p dir i l).map Candidate.parts = (l.zipIdx i).map (fun (g, i) =>
      (TargetKind.segment i, if dir = .downLine then g.start + g.length else g.start, segmentLimit p dir g)) := by
  induction l generalizing i with
  | nil => rfl
  | cons g l ih =>
    rw [segmentCandidates_cons, List.map_cons, List.zipIdx_cons, List.map_cons, ih]
    cases dir <;> rfl

theorem segmentCandidates_kind (p : Params) (dir : Direction) (l : List Segment) (i : Nat) :
    ∀ c ∈ segmentCandidates p dir i l, c.kind ≠ .permitEnd := by
  induction l generalizing i with
  | nil => intro c h; cases h
  | cons g l ih =>
    intro c h
    rw [segmentCandidates_cons] at h
    rcases List.mem_cons.1 h with rfl | h
    · simp
    · exact ih _ c h

/-- The target list at a distance: the candidates of that distance, in the order of R84 (R83, R84). -/
theorem targetList_at (s : State) (sp : Span) (n : Nat) (hs : cycleSpan s = some sp) (h : n ≤ 6000) :
    ((targetList s).filter (·.distance = n)).map (fun x => (x.kind, x.point, x.speed)) =
      (candidatesOf s).filter (entersAt s.mode.direction (safeFront s.mode.direction sp) n) := by
  let front := safeFront s.mode.direction sp
  let cs := segmentCandidates s.store.params s.mode.direction 0 s.store.segments ++ edgeCandidate s ++
    restrictionCandidates s
  have e : targetList s = sortTargets (cs.filterMap (inWindow s front) ++ permitTarget s front) := by
    unfold targetList
    rw [hs]
  have kinds : ∀ c ∈ cs, c.kind ≠ .permitEnd := by
    intro c hc
    simp only [cs, List.mem_append] at hc
    rcases hc with (hc | hc) | hc
    · exact segmentCandidates_kind _ _ _ _ c hc
    · simp only [edgeCandidate, Option.mem_toList, Option.map_eq_some_iff] at hc
      obtain ⟨x, -, rfl⟩ := hc
      simp
    · simp only [restrictionCandidates, List.mem_map] at hc
      obtain ⟨r, -, rfl⟩ := hc
      simp
  have parts : candidatesOf s = cs.map Candidate.parts ++
      (if s.mode.mode = .line then s.limits.permit.toList.map fun q => (TargetKind.permitEnd, q.endPos, 0) else []) := by
    simp only [candidatesOf, cs, List.map_append, segmentCandidates_parts]
    congr 2
    · congr 1
      cases hd : s.mode.direction <;> cases hh : s.store.segments.head? <;>
        cases hl : s.store.segments.getLast? <;> simp [edgeCandidate, hd, hh, hl, Candidate.parts, Segment.upEnd]
    · simp only [restrictionCandidates, List.map_map]
      cases hd : s.mode.direction <;> rfl
  have permit : ((permitTarget s front).filter (·.distance = n)).map (fun x => (x.kind, x.point, x.speed)) =
      (if s.mode.mode = .line then s.limits.permit.toList.map fun q => (TargetKind.permitEnd, q.endPos, 0)
        else []).filter (entersAt s.mode.direction front n) := by
    unfold permitTarget
    cases hm : s.mode.mode <;> cases hp : s.limits.permit with
    | none => simp
    | some q =>
      first
      | simp; done
      | simp only [if_true, Option.toList_some, List.map_cons, List.map_nil]
        let d := distanceAhead s.mode.direction front q.endPos
        have ent : entersAt s.mode.direction front n (TargetKind.permitEnd, q.endPos, 0) =
            decide (d.toNat = n) := by
          simp only [entersAt, decide_true, Bool.or_true, Bool.true_and]
          congr 1
          simp only [eq_iff_iff]
          show max 0 d = (n : Int) ↔ d.toNat = n
          omega
        by_cases hw : d ≤ (Config.targetWindow : Int)
        · rw [if_pos hw]
          by_cases hn : d.toNat = n
          · rw [List.filter_cons_of_pos (by simpa [targetAt] using hn),
              List.filter_cons_of_pos (by rw [ent]; simpa using hn)]
            rfl
          · rw [List.filter_cons_of_neg (by simpa [targetAt] using hn),
              List.filter_cons_of_neg (by rw [ent]; simpa using hn)]
            rfl
        · have hn : ¬d.toNat = n := by
            have : (Config.targetWindow : Int) = 6000 := rfl
            omega
          rw [if_neg hw, List.filter_cons_of_neg (by rw [ent]; simpa using hn)]
          rfl
  rw [e, (sortTargets_at _).2 n, List.filter_append, List.map_append, inWindow_at s front n h cs kinds, permit, parts,
    List.filter_append]

/-! ### The net deceleration -/

theorem leastOf_mem (z : Nat) (l : List Nat) (h : l ≠ []) : leastOf z l ∈ l := by
  have f : ∀ (l : List Nat) (x : Nat), l.foldl min x = x ∨ l.foldl min x ∈ l := by
    intro l
    induction l with
    | nil => intro x; exact .inl rfl
    | cons y l ih =>
      intro x
      rcases ih (min x y) with h | h
      · rw [List.foldl_cons, h]
        rcases Nat.le_total x y with k | k
        · exact .inl (Nat.min_eq_left k)
        · exact .inr (by rw [Nat.min_eq_right k]; exact List.mem_cons_self)
      · exact .inr (List.mem_cons_of_mem _ h)
  cases l with
  | nil => exact absurd rfl h
  | cons x l =>
    rcases f l x with k | k
    · rw [leastOf, k]; exact List.mem_cons_self
    · exact List.mem_cons_of_mem _ k

theorem contiguous.tail {g : Segment} {l : List Segment} (h : contiguous (g :: l)) : contiguous l :=
  fun i x y hx hy => h (i + 1) x y (by simpa using hx) (by simpa using hy)

/-- Every later segment of a table starts at or beyond the end of an earlier one (R37). -/
theorem contiguous.beyond {g : Segment} {l : List Segment} (h : contiguous (g :: l)) :
    ∀ x ∈ l, g.start + g.length ≤ x.start := by
  induction l generalizing g with
  | nil => intro x hx; cases hx
  | cons y l ih =>
    have hy : y.start = g.start + g.length := h 0 g y rfl rfl
    intro x hx
    rcases List.mem_cons.1 hx with rfl | hx
    · omega
    · have := ih h.tail x hx
      omega

/-- A position that no segment contains is a gap. -/
theorem hasGap_of (l : List Segment) (lo hi y : Int) (h : ∀ g ∈ l, g.contains y = false) (hl : lo ≤ y) (hh : y ≤ hi) :
    hasGap lo hi l = true := by
  induction l generalizing lo with
  | nil => simp only [hasGap, decide_eq_true_eq]; omega
  | cons g l ih =>
    have hg := h g List.mem_cons_self
    simp only [Segment.contains, Bool.and_eq_false_iff, decide_eq_false_iff_not] at hg
    unfold hasGap
    rw [if_neg (by omega)]
    split
    · rfl
    · exact ih _ (fun x hx => h x (List.mem_cons_of_mem _ hx)) (by omega)

/-- A gap of a table that joins is a position that no segment contains. -/
theorem gap_of (l : List Segment) (lo hi : Int) (hc : contiguous l) (h : hasGap lo hi l = true) :
    ∃ y, lo ≤ y ∧ y ≤ hi ∧ ∀ g ∈ l, g.contains y = false := by
  induction l generalizing lo with
  | nil =>
    simp only [hasGap, decide_eq_true_eq] at h
    exact ⟨lo, Int.le_refl _, h, fun _ hg => by cases hg⟩
  | cons g l ih =>
    unfold hasGap at h
    split at h
    · cases h
    split at h
    · rename_i hlo hst
      refine ⟨lo, Int.le_refl _, by omega, fun x hx => ?_⟩
      have : g.start ≤ x.start := by
        rcases List.mem_cons.1 hx with rfl | hx
        · exact Nat.le_refl _
        · have := hc.beyond x hx; omega
      simp only [Segment.contains, Bool.and_eq_false_iff, decide_eq_false_iff_not]
      omega
    · obtain ⟨y, h1, h2, h3⟩ := ih _ hc.tail h
      refine ⟨y, by omega, h2, fun x hx => ?_⟩
      rcases List.mem_cons.1 hx with rfl | hx
      · simp only [Segment.contains, Bool.and_eq_false_iff, decide_eq_false_iff_not]
        omega
      · exact h3 x hx

/-- The net deceleration is one of the terms that the approach stretch meets, in a table whose segments have a length
and join (R86). -/
theorem netDecel_met (p : Params) (f : FaultState) (dir : Direction) (l : List Segment) (lo hi : Int) (h : lo ≤ hi)
    (hl : ∀ g ∈ l, 1 ≤ g.length) (hc : contiguous l) : ∃ y, lo ≤ y ∧ y ≤ hi ∧
    ((∃ g ∈ l, (g.start : Int) ≤ y ∧ y < g.start + g.length ∧
        netDecel p f dir l lo hi = brakeDecel p f g.kind - gravity (descentOf dir g.gradient)) ∨
      (segmentAt l y = none ∧ netDecel p f dir l lo hi = brakeDecel p f .adhesion - 781)) := by
  let met := l.filter fun g => overlaps g.start g.upEnd ⟨lo, hi⟩
  let terms := met.map fun g => brakeDecel p f g.kind - gravity (descentOf dir g.gradient)
  let beyond := if hasGap lo hi l then [brakeDecel p f .adhesion - Config.steepestAdhesion] else []
  have none_of : ∀ y, (∀ g ∈ l, g.contains y = false) → segmentAt l y = none := fun y hy => by
    unfold segmentAt
    rw [List.find?_eq_none]
    intro g hg
    simp [hy g hg]
  have ne : terms ++ beyond ≠ [] := by
    intro e
    obtain ⟨e1, e2⟩ := List.append_eq_nil_iff.1 e
    have hm : met = [] := List.map_eq_nil_iff.1 e1
    have hg : hasGap lo hi l = true := by
      refine hasGap_of l lo hi lo (fun g hg => ?_) (Int.le_refl _) h
      have := List.filter_eq_nil_iff.1 hm g hg
      simp only [overlaps, Bool.and_eq_true, decide_eq_true_eq, not_and] at this
      simp only [Segment.contains, Bool.and_eq_false_iff, decide_eq_false_iff_not]
      omega
    simp [beyond, hg] at e2
  have e : netDecel p f dir l lo hi = leastOf 0 (terms ++ beyond) := rfl
  rcases List.mem_append.1 (leastOf_mem 0 _ ne) with m | m
  · obtain ⟨g, hg, hv⟩ := List.mem_map.1 m
    obtain ⟨gl, ho⟩ := List.mem_filter.1 hg
    simp only [overlaps, Bool.and_eq_true, decide_eq_true_eq, Segment.upEnd] at ho
    have := hl g gl
    have hb : lo < ((g.start + g.length : Nat) : Int) := of_decide_eq_true ho.2
    exact ⟨max lo g.start, by omega, by omega, .inl ⟨g, gl, by omega, by omega, by rw [e, ← hv]⟩⟩
  · by_cases hg : hasGap lo hi l = true
    · obtain ⟨y, h1, h2, h3⟩ := gap_of l lo hi hc hg
      refine ⟨y, h1, h2, .inr ⟨none_of y h3, ?_⟩⟩
      rw [e]
      simpa [beyond, hg, Config.steepestAdhesion] using m
    · simp [beyond, hg] at m

end Sys2Proof.Machine
end

