-- ==== Sys2Proof/Tests/Slice0.lean ====
section
/-!
SUPPORT. Tests: what cannot arrive, the worked examples of the spec, and for every statement a concrete state
and operands that meet its hypotheses, with what the rules say of them.
-/

open Sys2Proof Sys2Proof.Machine

namespace Sys2Proof.Tests

/-! ### The states that the tests start from -/

/-- What a command leaves. -/
def after (i : Instr) (s : State) : State :=
  match exec i s with
  | .next t => t
  | _ => s

/-- The answer that a port holds after a command. -/
def reply (i : Instr) (p : Port) (s : State) : Option Reply := answerOf p (after i s)

/-- The status of that answer. -/
def status (i : Instr) (p : Port) (s : State) : Option Status := (reply i p s).map Reply.status

/-- Its condition. -/
def condition (i : Instr) (p : Port) (s : State) : Option Condition := (reply i p s).bind Reply.condition

/-- SHUNT at standstill, a load over with no profile, no holder. -/
def free : State := { State.reset with
  mode := { ModeUnit.reset with mode := .shunt }
  odo := { Odometry.reset with standstill := true }
  store := { Store.reset with phase := .done, result := .noProfile, loader := .idle } }

/-- The same with port A the holder, its link UP. -/
def shuntA : State := { free with mode := { free.mode with holder := .portA, linkA := ⟨.up, some 0⟩ } }

/-- The latch clear, no row written and the brakes released. -/
def releasedA : State := { shuntA with
  dem := { shuntA.dem with latch := false, driven := .none, traction := false }
  drive := { BrakeDrive.reset with
    level := 0, target := 0, duty := 0, valve := .energized, springStatus := .released } }

/-- A change of standstill alone. -/
def moving (s : State) : State := { s with odo := { s.odo with standstill := false } }

/-- The table of the braking case: U, T and S down-line, all RACK with line limit 556. -/
def rackTable : List Segment :=
  [⟨110000, 7000, 100, .rack, 556, 4, false, false, none, none⟩,
   ⟨117000, 3000, 220, .rack, 556, 4, false, false, none, none⟩,
   ⟨120000, 2000, 150, .rack, 556, 4, false, true, none, some 100⟩]

/-- The composition of the worked sequences. -/
def train : Composition := ⟨1207, 620, 140, .normal, .transmit⟩

/-- The train of the braking case: LINE down-line at the position given, speed 360, u 35, coverage COVERED, its
permit far off. -/
def lineAt (position : Nat) : State := { shuntA with
  mode := { shuntA.mode with mode := .line, direction := .downLine, composition := some train }
  odo := { Odometry.reset with
    position := position, posState := .known, accumulator := 14300, uncertainty := 35, speed := 360 }
  store := { shuntA.store with segments := rackTable, result := .profileLoaded, lineId := 7 }
  limits := { LimitTable.reset with
    restrictions := [⟨⟨.radio, 6, 3⟩, 116500, 119980, 139, .active⟩]
    permit := some ⟨.radio, 6, 1, 100000, .downLine⟩ }
  dem := releasedA.dem
  drive := { releasedA.drive with testRecord := .passed }
  radio := { Radio.reset with zone := 4, coverage := .covered, silenceRunning := true } }

/-- A test of the brakes at the step given, its outputs those of the step. -/
def testingAt (n : Nat) : State := beginStep n { releasedA with drive := { releasedA.drive with source := .test } }

/-- A frame header of this line from station 6 in zone 4, to any train. -/
def header (serial : BitVec 16) : FrameHeader := ⟨7, 6, 4, serial, 0⟩

/-! ### What cannot arrive -/

theorem test_arguments_that_no_telegram_holds : WellFormed (.readEvents .a (List.replicate 250 0)) = false := by
  decide +kernel

theorem test_arguments_of_the_longest_telegram : WellFormed (.readEvents .a (List.replicate 249 0)) = true := by
  decide +kernel

theorem test_known_code_is_not_unknown : WellFormed (.unknownCommand .b 0x34 []) = false := by decide

theorem test_body_that_no_frame_holds : WellFormed (.text (header 1) (List.replicate 119 0)) = false := by
  decide +kernel

theorem test_short_header_read : WellFormed (.headerReadEnd (List.replicate 15 0)) = false := by decide

theorem test_long_parameter_read : WellFormed (.parameterBlockReadEnd (List.replicate 129 0)) = false := by
  decide +kernel

theorem test_segment_read_of_no_whole_record : WellFormed (.segmentBlockReadEnd (List.replicate 23 0)) = false := by
  decide

/-- No row of the table has bits, so no word spells a command. -/
theorem test_no_word_spells_a_command : decodeTableWord 8 0x16 = none := by decide

/-! ### Worked values of the spec -/

/-- R172: the CRC of the nine ASCII digits 123456789 is 29B1. -/
theorem test_crc_of_the_digits : crc16 [0x31, 0x32, 0x33, 0x34, 0x35, 0x36, 0x37, 0x38, 0x39] = 0x29B1 := by
  decide +kernel

/-- The brake test's trace: level 300 gives the target 1,560 with its duty 360 and its band, level 1,000 the target
4,500 with its duty 824. -/
theorem test_targets_and_duties : targetOf Params.default 300 = 1560 ∧ dutyOf Params.default.valve 1560 = 360 ∧
    bandOf 1560 = (1404, 1716) ∧ targetOf Params.default 1000 = 4500 ∧ dutyOf Params.default.valve 4500 = 824 ∧
    bandOf 4500 = (4050, 4950) := by decide

/-- R77 and the braking case: G at its points, and 2,103 at 220, 1,450 at 150. -/
theorem test_gravity : gravity 100 = 976 ∧ gravity 200 = 1924 ∧ gravity 300 = 2818 ∧ gravity 220 = 2103 ∧
    gravity 150 = 1450 := by decide

/-- The braking case: the static limits of U, T and S down-line. -/
theorem test_segment_limits : rackTable.map (segmentLimit Params.default .downLine) = [444, 322, 388] := by decide

/-- The braking case: 54 dm at 360 cm/s, 21 at 139. -/
theorem test_reaction_distances : reactionDistance 360 1500 = 54 ∧ reactionDistance 139 1500 = 21 := by decide

/-- The envelope of 620 dm with the offset 140 at 41,250 and u = 100, in both directions. -/
theorem test_envelope : ∀ d ∈ [Direction.none, .upLine, .downLine],
    envelopeSpan { lineAt 41250 with
      mode := { (lineAt 41250).mode with direction := d }
      odo := { (lineAt 41250).odo with uncertainty := 100 } } = some ⟨41010, 41830⟩ := by decide

/-- The braking case at its first position: the targets T, the restriction and U with their curve speeds, and the
static limit 388 governing at NORMAL. -/
theorem test_braking_case_far : let t := (after .supervisionCycle (lineAt 120275)).sup
    t.targets.map (fun x => (x.point, x.distance, x.aNet, x.dEff, x.vCurve)) =
      [(120000, 100, 2150, 46, 549), (119980, 120, 1497, 66, 465), (117000, 3100, 1497, 3046, 3052)] ∧
    (t.vPerm, t.governing, t.level) = (388, .static, .normal) := by decide

/-- At its second position the restriction governs at 311 and the level is SERVICE, with the row FULL. -/
theorem test_braking_case_near : let t := after .supervisionCycle (lineAt 120235)
    (t.sup.vPerm, t.sup.governing, t.sup.level, t.dem.rows.supervision) = (311, .target 1, .service, .full) := by decide

/-- With a degraded brake the same position gives 276 and EMERGENCY. -/
theorem test_braking_case_degraded : let s := lineAt 120235
    let t := after .supervisionCycle { s with drive := { s.drive with faultState := .degraded } }
    (t.sup.vPerm, t.sup.level, t.dem.latch) = (276, .emergency, true) := by decide

/-- The worked correction: at 50,006 with u = 45 the mark at 50,000 is matched. -/
theorem test_mark_matched : let s := lineAt 50006
    let t := after .trackMarkDetection { s with
      odo := { s.odo with accumulator := 25000, uncertainty := 45, sinceCorrection := 2917 }
      store := { s.store with segments := [⟨50000, 3000, 0, .rack, 556, 4, false, false, none, some 0⟩] } }
    (t.odo.position, t.odo.accumulator, t.odo.uncertainty, t.odo.sinceCorrection, t.odo.notice) =
      (50000, 0, 20, 0, .markMatched) := by decide

/-- The brake test's trace: the service reading 1,420 meets step 1, the release reading 760 step 4, and 140 step 5. -/
theorem test_brake_test_steps :
    (after (.servicePressureReading 1420) (testingAt 1)).drive.testStep = some ⟨2, 0, 1200⟩ ∧
    (after (.releasePressureReading 760) (testingAt 4)).drive.testStep = some ⟨5, 0, 1200⟩ ∧
    (after (.servicePressureReading 140) (testingAt 5)).drive.testRecord = .passed := by decide

/-- A power-on with every door shut and bolted and every handle back gives the reset state. -/
theorem test_power_on_at_rest : after (.powerOn inputsAtRest) shuntA = State.reset := by decide

/-! ### The hypotheses of the statements are met

Each theorem is named for its statement: its conjuncts are the statement's hypotheses for a concrete state and
operands, clause by clause, and then what the rules say of them. -/

theorem witness_StepRunsTheFrontCommand : let s := { shuntA with pending := [.periodStart, .samplingExpiry] }
    s.pending = .periodStart :: [.samplingExpiry] ∧
    step s = exec .periodStart { s with pending := [.samplingExpiry] } := ⟨rfl, rfl⟩

theorem witness_EmptyQueueLetsAMillisecondPass : free.pending = [] ∧
    (∃ t, step { free with odo := { free.odo with samplingTimer := 49 } } = .next t ∧
      Instr.samplingExpiry ∈ t.pending) ∧
    (∃ t, step { free with odo := { free.odo with samplingTimer := 48 } } = .next t ∧ t.pending = []) ∧
    (∃ t, step { free with store := { free.store with commit := .writing 1 (.poll 24) } } = .next t ∧
      t.pending = [.pageTimerExpiry] ∧ t.store.commit = .writing 1 (.poll 25)) :=
  ⟨rfl, ⟨_, rfl, by decide⟩, ⟨_, rfl, by decide⟩, ⟨_, rfl, by decide⟩⟩

theorem witness_BytesMakeTheTelegram :
    (portOf .b shuntA).rx = .awaiting ∧ (List.replicate 249 (0 : Byte)).length ≤ 249 ∧
    (match runAll ((telegramBytes [0x03]).map (.telegramByteArrival .b)) shuntA with
     | .next t => t
     | _ => shuntA) = takeTelegram .b 0x03 [] shuntA := by decide +kernel

theorem witness_RequestsAreTheirTelegrams : telegramOf (.setMask .b [0, 0, 1]) = some (.b, 0x05, [0, 0, 1]) ∧
    exec (.setMask .b [0, 0, 1]) shuntA = .next (takeTelegram .b 0x05 [0, 0, 1] shuntA) := ⟨rfl, rfl⟩

theorem witness_RequestsAreJudgedInOrder :
    ((portOf .a State.reset).held = none ∧ (telegramLengths.find? fun x => x.1 = 0x07) = none ∧
      status (.unknownCommand .a 0x07 []) .a State.reset = some .unknownCommand) ∧
    ((telegramLengths.find? fun x => x.1 = 0x12) = some (0x12, 1) ∧ ([] : List Byte).length ≠ 1 ∧
      status (.setDirection .a []) .a State.reset = some .badArgument) ∧
    ([(0 : Byte)].length = 1 ∧ State.reset.mode.mode = .loading ∧
      status (.setDirection .a [0]) .a State.reset = some .loading) ∧
    (Ready .b shuntA ∧ isHolder .b shuntA = false ∧ (0x11, 0) ∈ telegramLengths ∧ 0x11 ∈ holderCommands ∧
      status (.releaseAuthority .b []) .b shuntA = some .notAuthority ∧
      status (.releaseAuthority .c []) .c shuntA = some .notPermitted) ∧
    ((0x31, 1) ∈ telegramLengths ∧ status (.doorClose .b [2]) .b shuntA = some .notAuthority) ∧
    ((0x10, 0) ∈ telegramLengths ∧ status (.takeAuthority .c []) .c shuntA = some .notPermitted) := by
  unfold Ready; decide

theorem witness_EveryValidTelegramIsHeard : trainlineOf .a = some .a ∧
    (let held := after (.readEvents .a []) shuntA
     (portOf .a held).held.isSome = true ∧
     (portOf .a (after (.unknownCommand .a 0x07 []) held)).discarded = 1) := by decide

theorem witness_PowerOnResetsEverything : shuntA.store.commit = .idle ∧
    (∃ page n, { shuntA.store with commit := CommitState.writing 2 (.program 3) }.commit = .writing page (.program n)) ∧
    (let t := after (.powerOn ⟨Quad.all { doorShut with closed := false }, ⟨true, false, false, false⟩⟩) shuntA
     t.dem.alarm = .active ∧ t.dem.rows.alarm = .full ∧ t.doors.door.d1.state = .fault) :=
  ⟨rfl, ⟨2, 3, rfl⟩, by decide⟩

theorem witness_RestartResetsAllButWhatItKeeps :
    (Ready .c free ∧ free.mode.holder = .none ∧ status (.restart .c []) .c free = some .ok) ∧
    (Ready .a shuntA ∧ isHolder .a shuntA = true ∧ shuntA.odo.standstill = true ∧
      status (.restart .a []) .a shuntA = some .ok) ∧
    (Ready .b shuntA ∧ shuntA.mode.holder ≠ .none ∧ isHolder .b shuntA = false ∧
      status (.restart .b []) .b shuntA = some .notAuthority) ∧
    (Ready .a (moving shuntA) ∧ isHolder .a (moving shuntA) = true ∧ (moving shuntA).odo.standstill = false ∧
      status (.restart .a []) .a (moving shuntA) = some .notStandstill) := by
  unfold Ready; decide

/-- Port A the holder with its link LOST. -/
def lostA : State := { shuntA with mode := { shuntA.mode with linkA := ⟨.lost, none⟩, direction := .upLine } }

theorem witness_AuthorityIsTakenAndReleased :
    (Ready .c free ∧ status (.takeAuthority .c []) .c free = some .notPermitted) ∧
    (Ready .a free ∧ free.mode.holder = .none ∧ (after (.takeAuthority .a []) free).mode.holder = .portA) ∧
    (Ready .a shuntA ∧ isHolder .a shuntA = true ∧ status (.takeAuthority .a []) .a shuntA = some .ok) ∧
    (Ready .b shuntA ∧ isHolder .b shuntA = false ∧ shuntA.mode.holder ≠ .none ∧
      holderLinkLost shuntA.mode = false ∧
      status (.takeAuthority .b []) .b shuntA = some .busy) ∧
    (Ready .b (moving lostA) ∧ holderLinkLost (moving lostA).mode = true ∧
      status (.takeAuthority .b []) .b (moving lostA) = some .notStandstill) ∧
    (Ready .b lostA ∧ isHolder .b lostA = false ∧ holderLinkLost lostA.mode = true ∧
      lostA.odo.standstill = true ∧
      (let t := after (.takeAuthority .b []) lostA
       t.mode.holder = .portB ∧ t.mode.direction = .none)) ∧
    (status (.releaseAuthority .a []) .a (moving shuntA) = some .notStandstill ∧
      (after (.releaseAuthority .a []) shuntA).mode.holder = .none) := by
  unfold Ready; decide

theorem witness_SetDirectionAtStandstill :
    (Ready .a shuntA ∧ isHolder .a shuntA = true ∧ 3 ≤ (3 : Byte).toNat ∧
      status (.setDirection .a [3]) .a shuntA = some .badArgument) ∧
    (Ready .a (moving shuntA) ∧ isHolder .a (moving shuntA) = true ∧
      status (.setDirection .a [2]) .a (moving shuntA) = some .notStandstill) ∧
    (shuntA.mode.direction = .none ∧ status (.setDirection .a [0]) .a shuntA = some .ok) ∧
    (after (.setDirection .a [2]) shuntA).mode.direction = .downLine := by
  unfold Ready; decide

theorem witness_SetCompositionReplacesTheRecord :
    (Ready .a shuntA ∧ isHolder .a shuntA = true ∧
      status (.setComposition .a (compositionBytes 4096 620 140 .normal .transmit)) .a shuntA = some .badArgument ∧
      2 ≤ (2 : Byte).toNat ∧
      status (.setComposition .a (natField 2 1207 ++ natField 2 620 ++ natField 2 140 ++ [2, 0])) .a shuntA =
        some .badArgument ∧
      status (.setComposition .a (natField 2 1207 ++ natField 2 620 ++ natField 2 140 ++ [0, 2])) .a shuntA =
        some .badArgument) ∧
    (Ready .a (lineAt 120275) ∧ isHolder .a (lineAt 120275) = true ∧
      status (.setComposition .a (compositionBytes 4095 50 50 .normal .listen)) .a (lineAt 120275) =
        some .wrongMode) ∧
    status (.setComposition .a (compositionBytes 1 1200 0 .normal .listen)) .a (moving shuntA) = some .notStandstill ∧
    (after (.setComposition .a (compositionBytes 4095 50 50 .reversed .listen)) shuntA).mode.composition =
      some ⟨4095, 50, 50, .reversed, .listen⟩ ∧
    (let e : BulletinEntry := ⟨6, 1, .applied⟩
     let s := { shuntA with radio := { shuntA.radio with acks := [e], transmission := some ⟨.ack e true, [1]⟩ } }
     let r := (after (.setComposition .a (compositionBytes 1 1200 0 .normal .listen)) s).radio
     (r.acks, r.transmission) = ([], some ⟨.ack e false, [1]⟩)) ∧
    (Ready .a (testingAt 3) ∧ (completeTelegram .a (testingAt 3)).drive.source = .test) := by
  unfold Ready; decide

theorem witness_SetPositionMakesItKnown :
    (Ready .a shuntA ∧ isHolder .a shuntA = true ∧
      status (.setPosition .a (natField 3 200001 ++ natField 2 50)) .a shuntA = some .badArgument ∧
      status (.setPosition .a (natField 3 200000 ++ natField 2 49)) .a shuntA = some .badArgument) ∧
    status (.setPosition .a (natField 3 0 ++ natField 2 600)) .a (moving shuntA) = some .notStandstill ∧
    (let o := (after (.setPosition .a (natField 3 200000 ++ natField 2 600)) shuntA).odo
     (o.position, o.posState, o.uncertainty, o.accumulator) = (200000, .known, 600, 580000)) ∧
    -- onto the line of zone 4 from zone 0, and past its up-line end at 122,000
    (let s := { shuntA with store := { shuntA.store with segments := rackTable } }
     let t := fun x => (after (.setPosition .a (natField 3 x ++ natField 2 50)) s).radio
     s.radio.zone ≠ (t 121999).zone ∧
     ((t 121999).zone, (t 121999).coverage, (t 121999).silenceRunning) = (4, .covered, true) ∧
     t 122000 = s.radio) := by
  unfold Ready; decide +kernel

/-- What SELECT MODE LINE asks for, fulfilled, and one of it then taken away. -/
def lineReady : State := { releasedA with
  mode := { releasedA.mode with composition := some train }
  odo := { releasedA.odo with posState := .known, position := 120275, uncertainty := 20 }
  store := { releasedA.store with result := .profileLoaded, segments := rackTable, lineId := 7 }
  drive := { releasedA.drive with testRecord := .passed } }

theorem witness_SelectModeByItsTable :
    (Ready .a lineReady ∧ isHolder .a lineReady = true ∧ (0 : Byte) ≠ 1 ∧ (0 : Byte) ≠ 2 ∧
      status (.selectMode .a [0]) .a lineReady = some .badArgument ∧
      status (.selectMode .a [3]) .a lineReady = some .badArgument) ∧
    status (.selectMode .a [2]) .a (moving lineReady) = some .notStandstill ∧
    (let s := { lineReady with store := { lineReady.store with commit := .writing 1 .writeEnable } }
     s.store.commit ≠ .idle ∧ status (.selectMode .a [2]) .a s = some .busy) ∧
    status (.selectMode .a [1]) .a lineReady = some .ok ∧
    condition (.selectMode .a [2]) .a shuntA = some .profileNotLoaded ∧
    (let s := { lineReady with drive := { lineReady.drive with faultState := .degraded } }
     condition (.selectMode .a [2]) .a s = some .brakeFault) ∧
    ((completeTelegram .a lineReady).drive.testRecord = .passed ∧
      (after (.selectMode .a [2]) lineReady).mode.mode = .line) ∧
    (let s := { lineAt 120275 with odo := { (lineAt 120275).odo with standstill := true } }
     Ready .a s ∧ isHolder .a s = true ∧ s.mode.mode ≠ .shunt ∧
       (after (.selectMode .a [1]) s).limits.permit = none) := by
  unfold Ready; decide

theorem witness_ReadStatusAnswersInEveryMode : (portOf .c State.reset).held = none ∧
    status (.readStatus .c []) .c State.reset = some .ok := by decide

/-- Every item of the layout stands at its place, on the line as at the reset. -/
theorem witness_ReadStatusAnswersInEveryMode_at_its_offsets : ∀ s ∈ [State.reset, lineAt 120275, testingAt 3],
    (statusLayout .c s).all (fun e => ((statusPayload .c s).drop e.1).take e.2.1 = e.2.2) = true := by decide +kernel

theorem witness_EventFlagsAreReadClearedAndMasked :
    (Ready .b shuntA ∧ status (.readEvents .b []) .b shuntA = some .ok) ∧
    (status (.clearEvents .b (natField 3 (2 ^ 18))) .b shuntA = some .badArgument ∧
      status (.clearEvents .b (natField 3 (2 ^ 18 - 1))) .b shuntA = some .ok) ∧
    (status (.setMask .b (natField 3 (2 ^ 18))) .b shuntA = some .badArgument ∧
      (portOf .b (after (.setMask .b (natField 3 (2 ^ 18 - 1))) shuntA)).mask.has .alarm = true) ∧
    (status (.clearMask .b (natField 3 (2 ^ 18))) .b shuntA = some .badArgument ∧
      status (.clearMask .b (natField 3 1)) .b shuntA = some .ok) := by
  unfold Ready; decide

/-- Port A the holder in an abort hold. -/
def holdA : State := { releasedA with
  drive := { releasedA.drive with source := .abortHold, level := 1000, valve := .deEnergized } }

theorem witness_BrakeDemandWritesTheServicePart :
    (Ready .a releasedA ∧ isHolder .a releasedA = true ∧ (completeTelegram .a releasedA).drive.source = .mapping ∧
      (after (.brakeDemand .a (natField 2 0)) releasedA).dem.rows.cabA.service = .none ∧
      (after (.brakeDemand .a (natField 2 1)) releasedA).dem.rows.cabA.service = .service 1 ∧
      (after (.brakeDemand .a (natField 2 999)) releasedA).dem.rows.cabA.service = .service 999 ∧
      (after (.brakeDemand .a (natField 2 1000)) releasedA).dem.driven = .full) ∧
    (Ready .a holdA ∧ (completeTelegram .a holdA).drive.source = .abortHold ∧
      (after (.brakeDemand .a (natField 2 0)) holdA).drive.source = .mapping) ∧
    (Ready .a (testingAt 2) ∧ (completeTelegram .a (testingAt 2)).drive.source = .test) ∧
    (isHolder .b releasedA = false ∧ status (.brakeDemand .b (natField 2 0)) .b releasedA = some .notAuthority) := by
  unfold Ready; decide

/-- R112 to R116: level 300 forms the target 1,560 and the duty 360, and begins its service check with the band 1,404 to
1,716. -/
theorem test_mapping_forms_the_level :
    let d := (after (.brakeDemand .a (natField 2 300)) releasedA).drive
    (d.level, d.target, d.duty, d.valve) = (300, 1560, 360, .energized) ∧
    d.serviceCheck = ⟨.running, 1560, 1404, 1716, 0, 1200⟩ ∧ d.springCheck = releasedA.drive.springCheck := by decide

/-- R112, R119, R120: EMERGENCY de-energizes the valve, begins the apply check and clears SPRING_STUCK. -/
theorem test_mapping_applies_the_spring_brake :
    let s := { releasedA with drive := { releasedA.drive with springStuck := true } }
    let d := (after (.emergency .c []) s).drive
    (d.level, d.target, d.duty, d.valve) = (1000, 4500, 824, .deEnergized) ∧
    d.springCheck = ⟨.applyRunning, 0, 1000⟩ ∧ d.springStuck = false := by decide

/-- Port C's emergency standing. -/
def panelEmergency : State := { shuntA with
  dem := { shuntA.dem with rows := { shuntA.dem.rows with panel := ⟨.none, true⟩ } } }

theorem witness_EmergencyAndWithdrawActOnTheirOwnRow :
    (Ready .c panelEmergency ∧ (panelEmergency.dem.rows.ofPort .c).emergency = true ∧
      status (.emergency .c []) .c panelEmergency = some .ok ∧
      (after (.emergencyWithdraw .c []) panelEmergency).dem.rows.panel = ⟨.none, false⟩) ∧
    (Ready .c releasedA ∧ (releasedA.dem.rows.ofPort .c).emergency = false ∧
      (after (.emergency .c []) releasedA).dem.latch = true ∧
      status (.emergencyWithdraw .c []) .c releasedA = some .ok) := by
  unfold Ready; decide

/-- Standing under the latch with the spring brake APPLIED. -/
def appliedA : State := { shuntA with drive := { shuntA.drive with springStatus := .applied } }

theorem witness_EmergencyResetByItsTable :
    (Ready .a releasedA ∧ isHolder .a releasedA = true ∧ releasedA.dem.latch = false ∧
      status (.emergencyReset .a []) .a releasedA = some .ok) ∧
    ((moving shuntA).dem.latch = true ∧ status (.emergencyReset .a []) .a (moving shuntA) = some .notStandstill) ∧
    (Ready .a panelEmergency ∧ firstEmergency (completeTelegram .a panelEmergency).dem.rows = some .panel ∧
      condition (.emergencyReset .a []) .a panelEmergency = some .rowEmergency) ∧
    (firstEmergency (completeTelegram .a shuntA).dem.rows = none ∧ shuntA.drive.springStatus ≠ .applied ∧
      condition (.emergencyReset .a []) .a shuntA = some .springNotApplied) ∧
    (Ready .a appliedA ∧ appliedA.drive.springStatus = .applied ∧
      (after (.emergencyReset .a []) appliedA).dem.latch = false) ∧
    (isHolder .b appliedA = false ∧ status (.emergencyReset .b []) .b appliedA = some .notAuthority) := by
  unfold Ready; decide

theorem witness_BrakeTestIsStartedAndAborted :
    (Ready .a (lineAt 120275) ∧ status (.brakeTestStart .a []) .a (lineAt 120275) = some .wrongMode) ∧
    status (.brakeTestStart .a []) .a (moving releasedA) = some .notStandstill ∧
    (Ready .a (testingAt 1) ∧ (testingAt 1).drive.source = .test ∧
      status (.brakeTestStart .a []) .a (testingAt 1) = some .busy) ∧
    condition (.brakeTestStart .a []) .a shuntA = some .latchSet ∧
    (let s := { releasedA with drive := { releasedA.drive with faultState := .failed } }
     condition (.brakeTestStart .a []) .a s = some .brakeFault) ∧
    (let t := after (.brakeTestStart .a []) releasedA
     t.drive.testStep = some ⟨1, 0, 1200⟩ ∧ (t.drive.level, t.drive.target, t.drive.duty) = (300, 1560, 360)) ∧
    (condition (.brakeTestAbort .a []) .a releasedA = some .noTest ∧
      (completeTelegram .a (testingAt 1)).drive.source = .test ∧
      (after (.brakeTestAbort .a []) (testingAt 1)).drive.testRecord = .aborted .request) := by
  unfold Ready; decide

/-- A handle pulled at standstill. -/
def alarmedA : State := after (.handleChange .h2 true) releasedA

theorem witness_AlarmIsConfirmedOrOverridden :
    (Ready .a releasedA ∧ isHolder .a releasedA = true ∧ releasedA.dem.alarm = .clear ∧
      condition (.alarmConfirm .a []) .a releasedA = some .noAlarm ∧
      condition (.alarmOverride .a []) .a releasedA = some .noAlarm) ∧
    (Ready .a alarmedA ∧ alarmedA.dem.alarm ≠ .clear ∧
      (after (.alarmConfirm .a []) alarmedA).dem.rows.alarm = .hold ∧
      (after (.alarmOverride .a []) alarmedA).dem.alarm = .overridden) := by
  unfold Ready; decide

theorem rackTable_joined : contiguous rackTable := by
  rintro (_ | _ | _ | i) x y ⟨⟩ h <;> cases h <;> rfl

theorem tables_lineAt : TablesFollow (lineAt 120275) where
  segments := by decide
  long := by decide
  joined := rackTable_joined
  count := by decide
  glc := by decide
  restrictions := by decide
  ordered := by decide
  active := by unfold oneActive; decide
  stops := by decide
  inbox := by decide
  texts := by decide
  free := by decide
  acks := by decide
  recent := by decide
  distinct := by decide
  window := by intro w h; cases h
  silence := by decide
  held := by decide
  memory := by decide

theorem tables_shuntA : TablesFollow shuntA where
  segments := by decide
  long := by decide
  joined := fun _ _ _ h => by cases h
  count := by decide
  glc := by decide
  restrictions := by decide
  ordered := by decide
  active := by unfold oneActive; decide
  stops := by decide
  inbox := by decide
  texts := by decide
  free := by decide
  acks := by decide
  recent := by decide
  distinct := by decide
  window := by intro w h; cases h
  silence := by decide
  held := by decide
  memory := by decide

theorem witness_ReadTableReturnsTheEntriesAskedFor :
    (Ready .c (lineAt 120275) ∧ TablesFollow (lineAt 120275)) ∧
    (status (.readTable .c [11, 0, 0, 1]) .c (lineAt 120275) = some .badArgument ∧
      tableNumber .segments = 0 ∧ (tableEntries .c (completeTelegram .c (lineAt 120275)) .segments).length = 3 ∧
      status (.readTable .c [0, 0, 4, 1]) .c (lineAt 120275) = some .notFound ∧
      reply (.readTable .c [0, 0, 3, 1]) .c (lineAt 120275) = some (okReply [0, 0, 3, 0, 0, 3]) ∧
      ((reply (.readTable .c [0, 0, 0, 255]) .c (lineAt 120275)).map fun r => r.payload.length) = some 63) :=
  ⟨⟨⟨rfl, by decide⟩, tables_lineAt⟩, by decide +kernel⟩

/-! Doors -/

/-- Port A standing at a platform to the left that takes in doors 1 and 2, the spring brake APPLIED. -/
def platformA : State := { releasedA with
  mode := { releasedA.mode with direction := .upLine, composition := some train }
  odo := { releasedA.odo with posState := .known, position := 50500, uncertainty := 20 }
  store := { releasedA.store with
    segments := [⟨50000, 3000, 0, .rack, 556, 4, false, false, some ⟨.left, 0, 3000⟩, some 0⟩] }
  drive := { releasedA.drive with springStatus := .applied } }

/-- Door 1 with the state, inputs and timer given. -/
def withDoor1 (x : DoorState) (i : DoorInputs) (timer : Option (Nat × Nat)) : State := { platformA with
  doors := { platformA.doors with
    door := { platformA.doors.door with d1 := { Door.reset .left with state := x, inputs := i, timer := timer } } } }

/-- A door's inputs with the bolt drawn, and with the leaf open too. -/
def unbolted : DoorInputs := { doorShut with locked := false }
def ajar : DoorInputs := { doorShut with locked := false, closed := false }

/-- A door's inputs with the leaf at its open limit. -/
def opened : DoorInputs := { ajar with openLimit := true }

theorem witness_DoorReleaseActsOnQualifiedDoors :
    (Ready .a (moving platformA) ∧ isHolder .a (moving platformA) = true ∧
      status (.doorRelease .a [0, 0]) .a (moving platformA) = some .notStandstill ∧
      status (.doorRelease .a [2, 0]) .a (moving platformA) = some .badArgument ∧
      status (.doorRelease .a [0, 2]) .a (moving platformA) = some .badArgument) ∧
    (releasedA.drive.springStatus ≠ .applied ∧
      condition (.doorRelease .a [0, 0]) .a releasedA = some .springNotApplied) ∧
    (Ready .a platformA ∧ platformA.drive.springStatus = .applied ∧
      status (.doorRelease .a [1, 0]) .a platformA = some .noPlatform ∧
      (let t := after (.doorRelease .a [0, 1]) platformA
       t.doors.door.d1.state = .unlocking ∧ t.doors.door.d1.openRequest = true ∧
       t.doors.door.d2.state = .unlocking ∧ t.doors.door.d3.state = .closedLocked ∧ t.doors.leftReleased = true)) ∧
    -- with the bolt drawn and the leaf at its open limit already
    [DoorState.closedLocked, .warning, .closing, .released].map
        (fun x => (after (.doorRelease .a [0, 1]) (withDoor1 x opened none)).doors.door.d1.state) =
      [.opened, .opened, .opened, .opened] := by
  unfold Ready; decide

/-- A car at the platform of 50,000 to 52,999 with the orientation, the position state, the car position and the
uncertainty given, its doors on the car's pinion. -/
def placedAt (o : Orientation) (st : PosState) (x u : Nat) : State := { platformA with
  mode := { platformA.mode with composition := some { train with orientation := o } }
  odo := { platformA.odo with posState := st, position := x, uncertainty := u }
  store := { platformA.store with params := { platformA.store.params with
    doorMap := ⟨⟨.side1, 0, true⟩, ⟨.side1, 0, false⟩, ⟨.side2, 0, true⟩, ⟨.side2, 0, false⟩⟩ } } }

/-- The line position of door 1 after a release of the left side, and whether each door was released. -/
def releasedAt (o : Orientation) (st : PosState) (x u : Nat) : Option Int × List Bool :=
  let q := (after (.doorRelease .a [0, 0]) (placedAt o st x u)).doors.door
  (q.d1.linePosition, q.toList.map (·.state = .unlocking))

/-- R143: the platform holds the whole interval, u about the door while KNOWN and 600 while LOST; in SHUNT any place
serves while UNKNOWN. R131: a car turned about has its left doors on SIDE_2. -/
theorem witness_DoorReleaseActsOnQualifiedDoors_by_place :
    Ready .a (placedAt .normal .known 50020 20) ∧ (placedAt .normal .known 50020 20).drive.springStatus = .applied ∧
    [50019, 50020, 52979, 52980].map (fun x => releasedAt .normal .known x 20) =
      [(some 50019, [false, false, false, false]), (some 50020, [true, false, false, false]),
       (some 52979, [true, false, false, false]), (some 52980, [false, false, false, false])] ∧
    [50599, 50600].map (fun x => releasedAt .normal .lost x 600) =
      [(some 50599, [false, false, false, false]), (some 50600, [true, false, false, false])] ∧
    releasedAt .normal .unknown 0 0 = (none, [true, false, false, false]) ∧
    releasedAt .reversed .known 50500 20 = (some 50500, [false, false, true, false]) := by
  unfold Ready; decide +kernel

theorem witness_DoorsAreClosedAndRetried :
    (Ready .c platformA ∧ (2 : Nat) < (3 : Byte).toNat ∧
      status (.doorClose .c [3]) .c platformA = some .badArgument ∧
      (after (.doorClose .c [2]) (withDoor1 .released unbolted none)).doors.door.d1.state = .locking ∧
      (after (.doorClose .c [1]) (withDoor1 .released unbolted none)).doors.door.d1.state = .released) ∧
    (Ready .a platformA ∧ isHolder .a platformA = true ∧
      status (.doorRetry .a [0]) .a platformA = some .badArgument ∧
      status (.doorRetry .a [5]) .a platformA = some .badArgument ∧
      condition (.doorRetry .a [1]) .a platformA = some .doorNotHeld ∧
      (after (.doorRetry .a [1]) (withDoor1 .fault ajar none)).doors.door.d1.state = .warning) := by
  unfold Ready; decide

theorem witness_DoorTimersExpire :
    after (.doorTimerExpiry .d1) platformA = platformA ∧
    (let t := after (.doorTimerExpiry .d1) (withDoor1 .unlocking doorShut (some (800, 800)))
     t.doors.door.d1.state = .fault ∧ t.doors.door.d1.cause = some .unlockTime) ∧
    (let t := after (.doorTimerExpiry .d1) (withDoor1 .warning ajar (some (2000, 2000)))
     t.doors.door.d1.state = .closing ∧ t.doors.door.d1.timer = some (0, 4000) ∧ t.doors.door.d1.limitRead = 3) ∧
    (after (.doorTimerExpiry .d1) (withDoor1 .warning unbolted (some (2000, 2000)))).doors.door.d1.timer =
      some (0, 800) ∧
    (after (.doorTimerExpiry .d1) (withDoor1 .warning doorShut (some (2000, 2000)))).doors.door.d1.state =
      .closedLocked := by
  decide

/-- R133: the closed input that arrives in the millisecond of the limit comes first, and the expiry does not occur. -/
theorem test_overtaken_door_expiry :
    let t := after (.doorTimerExpiry .d1) (after (.doorClosedInput .d1 true)
      (withDoor1 .closing ajar (some (4000, 4000))))
    t.doors.door.d1.state = .locking ∧ t.doors.door.d1.timer = some (0, 800) := by decide

theorem witness_BoltInputsMoveTheDoor :
    (after (.doorLockedInput .d1 false) (withDoor1 .unlocking doorShut (some (400, 800)))).doors.door.d1.state =
      .released ∧
    (after (.doorLockedInput .d1 true) (withDoor1 .locking unbolted (some (400, 800)))).doors.door.d1.state =
      .closedLocked ∧
    (let t := after (.doorLockedInput .d1 false) platformA
     t.doors.door.d1.lockLost = true ∧ t.doors.loopClosed = false ∧ t.dem.rows.doors = .hold) ∧
    (after (.doorClosedInput .d1 true) (withDoor1 .closing ajar (some (400, 4000)))).doors.door.d1.timer =
      some (0, 800) := by decide

theorem witness_LimitsAndObstaclesTurnTheLeaf :
    (after (.doorOpenLimitInput .d1 true) (withDoor1 .opening ajar (some (400, 4000)))).doors.door.d1.state =
      .warning ∧
    (let s := withDoor1 .closing ajar (some (400, 4000))
     (after (.doorObstacleInput .d1 true) s).doors.door.d1.state = .obstructed) ∧
    (let s := withDoor1 .closing opened (some (400, 4000))
     let s := { s with doors := { s.doors with
       leftReleased := true, door := { s.doors.door with d1 := { s.doors.door.d1 with limitRead := 3 } } } }
     openPermission s = true ∧ (doorCtx s).released .left = true ∧
       (after (.doorObstacleInput .d1 true) s).doors.door.d1.state = .opened) := by decide

theorem witness_ButtonsAndSwitchesActOnTheDoor :
    (after (.passengerButton .d1 true) (withDoor1 .unlocking doorShut (some (400, 800)))).doors.door.d1.openRequest =
      true ∧
    (openPermission platformA = true ∧
      (after (.passengerButton .d1 true) (withDoor1 .released unbolted none)).doors.door.d1.state = .opening) ∧
    (after (.isolationSwitch .d1 true) (withDoor1 .fault ajar none)).doors.door.d1.state = .isolated ∧
    (after (.isolationSwitch .d1 false) (withDoor1 .isolated ajar none)).doors.door.d1.cause = some .atDeisolation ∧
    (after (.isolationSwitch .d1 false) (withDoor1 .isolated doorShut none)).doors.door.d1.state = .closedLocked := by
  decide

theorem witness_HandlesFormTheAlarm :
    after (.handleChange .h1 false) releasedA = releasedA ∧
    (after (.handleChange .h1 true) releasedA).dem.alarm = .active ∧
    (after (.handleChange .h1 true) (lineAt 120275)).dem.alarm = .deferred ∧
    (after (.handleChange .h2 false) alarmedA).dem.alarm = .clear := by decide

/-! Restrictions, permits, stops, the inbox and the counters -/

theorem witness_CabRestrictionsAreSetAndLifted :
    (Ready .a shuntA ∧ isHolder .a shuntA = true ∧ TablesFollow shuntA) ∧
    (status (.restrictionAdd .a (natField 1 0 ++ natField 3 0 ++ natField 3 1 ++ natField 2 0)) .a shuntA =
        some .badArgument ∧
      status (.restrictionAdd .a (natField 1 1 ++ natField 3 200000 ++ natField 3 200001 ++ natField 2 0)) .a shuntA =
        some .badArgument ∧
      (after (.restrictionAdd .a (natField 1 255 ++ natField 3 199999 ++ natField 3 200000 ++ natField 2 1200))
        shuntA).limits.restrictions = [⟨⟨.cab, 0, 255⟩, 199999, 200000, 1200, .active⟩] ∧
      status (.restrictionLift .a [0]) .a shuntA = some .badArgument ∧
      status (.restrictionLift .a [1]) .a shuntA = some .ok) :=
  ⟨⟨⟨rfl, by decide⟩, rfl, tables_shuntA⟩, by decide⟩

/-- In LINE at standstill with the coverage LOST. -/
def darkStand : State := { lineAt 120275 with
  odo := { (lineAt 120275).odo with standstill := true }
  radio := { (lineAt 120275).radio with coverage := .lost }
  limits := { (lineAt 120275).limits with stops := .serviceStop :: List.replicate 30 .none } }

theorem witness_CabPermitsAndStopsAreCleared :
    (Ready .a darkStand ∧ isHolder .a darkStand = true ∧
      status (.permitEnter .a (natField 3 200001)) .a darkStand = some .badArgument ∧
      status (.permitEnter .a (natField 3 200000)) .a shuntA = some .wrongMode ∧
      status (.permitEnter .a (natField 3 200000)) .a (moving darkStand) = some .notStandstill ∧
      (let s := { darkStand with mode := { darkStand.mode with direction := .none } }
       condition (.permitEnter .a (natField 3 200000)) .a s = some .noDirection) ∧
      (let s := { darkStand with radio := { darkStand.radio with coverage := .covered } }
       condition (.permitEnter .a (natField 3 200000)) .a s = some .radioPermitPresent) ∧
      (after (.permitEnter .a (natField 3 200000)) darkStand).limits.permit =
        some ⟨.cab, 0, 0, 200000, .downLine⟩) ∧
    (status (.permitClear .a []) .a (moving darkStand) = some .notStandstill ∧
      status (.permitClear .a []) .a shuntA = some .ok ∧
      (after (.permitClear .a []) darkStand).limits.permit = none) ∧
    (status (.radioStopOverride .a []) .a (moving darkStand) = some .notStandstill ∧
      condition (.radioStopOverride .a []) .a shuntA = some .coverageNotLost ∧
      (after (.radioStopOverride .a []) darkStand).limits.stops = List.replicate 31 .none) := by
  unfold Ready; decide

/-- Two texts waiting, the second URGENT, and two counters raised. -/
def mailed : State := { shuntA with radio := { shuntA.radio with
  inbox := [⟨6, 1, .normal, false, [65], 0⟩, ⟨6, 2, .urgent, false, [66], 1⟩], freeCount := 6
  counters := { Counters.zero with goodFrames := 5, ackDrops := 2 } } }

theorem witness_InboxIsTakenAndCountersLowered :
    (Ready .c shuntA ∧ shuntA.radio.inbox = [] ∧ status (.inboxTake .c []) .c shuntA = some .notFound) ∧
    (Ready .c mailed ∧ (after (.inboxTake .c []) mailed).radio.inbox = [⟨6, 1, .normal, false, [65], 0⟩]) ∧
    status (.counterDecrement .c [12, 0, 1]) .c mailed = some .badArgument ∧
    (counterNumber .ackDrops = 11 ∧ (after (.counterDecrement .c [11, 0, 1]) mailed).radio.counters.ackDrops = 1 ∧
      reply (.counterDecrement .c [0, 0, 6]) .c mailed = some (okReply [0, 0])) := by
  unfold Ready; decide

/-! Edits and commits -/

/-- SHUNT at standstill with a table and a line id. -/
def storedA : State := { shuntA with store := { shuntA.store with segments := rackTable, lineId := 7 } }

/-- The first record with another gradient. -/
def edited : Segment := ⟨110000, 7000, -300, .rack, 556, 31, true, false, some ⟨.both, 0, 7000⟩, some 6999⟩

/-- R184: SIDE_1 carries 1 and SIDE_2 carries 2. -/
theorem test_car_sides_carry_their_numbers :
    [0, 1, 2, 3].map carSideArg = [none, some .side1, some .side2, none] ∧
    CarSide.side1.code = 1 ∧ CarSide.side2.code = 2 := by decide

theorem witness_EditsReplaceOneRecord :
    (Ready .a storedA ∧ isHolder .a storedA = true ∧ SegmentFits edited ∧ SegmentGood edited ∧
      (∃ old, storedA.store.segments[0]? = some old ∧ edited.start = old.start ∧ edited.length = old.length)) ∧
    (storedA.store.segments[3]? = none ∧
      status (.profileWrite .a (natField 2 3 ++ (segmentBytes edited).drop 5)) .a storedA = some .notFound) ∧
    (status (.profileWrite .a (natField 2 0 ++ (segmentBytes { edited with gradient := -301 }).drop 5)) .a storedA =
        some .badArgument ∧
      (after (.profileWrite .a (natField 2 0 ++ (segmentBytes edited).drop 5)) storedA).store.segments =
        edited :: rackTable.drop 1) ∧
    (withField 30 0 [0, 0, 0, 0] storedA.store.params = none ∧
      status (.parameterWrite .a [30, 0, 0, 0, 0, 0]) .a storedA = some .badArgument) ∧
    (after (.parameterWrite .a [0, 0, 0, 120, 0, 0]) storedA).store.params.toothPitch = 120 :=
  ⟨⟨⟨rfl, by decide⟩, rfl,
    ⟨by decide, by decide, by decide, by decide, by rintro p ⟨⟩; decide, by rintro m ⟨⟩; decide⟩,
    ⟨by decide, by decide, by decide, by decide, by decide, by decide, by decide, by rintro p ⟨⟩; decide,
      by rintro m ⟨⟩; decide⟩, _, rfl, rfl, rfl⟩, by decide, by decide, by decide, by decide⟩

/-- A commit of the table's eight pages at the phase given of its page. -/
def committing (page : Nat) (ph : PagePhase) : State := { storedA with
  store := { storedA.store with commit := .writing page ph, pagesAll := 8, pagesWritten := page - 1 } }

theorem witness_CommitsWritePageByPage :
    (Ready .a (lineAt 120275) ∧ status (.profileCommit .a []) .a (lineAt 120275) = some .wrongMode) ∧
    status (.profileCommit .a []) .a (moving storedA) = some .notStandstill ∧
    status (.profileCommit .a []) .a (committing 1 .writeEnable) = some .busy ∧
    condition (.profileCommit .a []) .a shuntA = some .noLineId ∧
    (Ready .a storedA ∧ storedA.store.lineId ≠ 0 ∧ (after (.profileCommit .a []) storedA).store.pagesAll = 8) ∧
    (after .commitTransferEnd (committing 1 .writeEnable)).store.commit = .writing 1 (.program 0) ∧
    (after .commitTransferEnd (committing 1 (.program 3))).store.commit = .writing 1 (.poll 3) ∧
    ((0 : Byte).getLsbD 0 = false ∧
      (after (.commitStatusAnswer 0) (committing 1 (.poll 3))).store.commit = .writing 2 .writeEnable ∧
      (after (.commitStatusAnswer 0) (committing 8 (.poll 3))).store.lastCommit = .committed ∧
      (after (.commitStatusAnswer 0) (committing 8 (.poll 3))).store.revision = 1) ∧
    after (.commitStatusAnswer 1) (committing 1 (.poll 3)) = committing 1 (.poll 3) ∧
    (after .pageTimerExpiry (committing 2 (.poll 25))).store.lastCommit = .failed 2 ∧
    after .pageTimerExpiry storedA = storedA := by
  unfold Ready; decide +kernel

/-! What else the lines bring -/

/-- Port B within a telegram. -/
def receivingB (bytes : List Byte) : State := updPort .b (fun r => { r with rx := .receiving bytes 2 }) shuntA

theorem witness_LineErrorsAreCounted :
    (portOf .b (after (.telegramCrcError .b) (receivingB [2, 1]))).crcErrors = 1 ∧
    (portOf .b (after (.gapTimeExpiry .b) (receivingB [2, 1]))).framingErrors = 1 ∧
    after (.gapTimeExpiry .b) shuntA = shuntA ∧
    ((portOf .b shuntA).rx = .awaiting ∧
      (portOf .b (after (.telegramByteArrival .b 0xC5) shuntA)).rx = .receiving [] 0 ∧
      after (.telegramByteArrival .b 0xC4) shuntA = shuntA) ∧
    ((portOf .b (receivingB [])).rx = .receiving [] 2 ∧
      (portOf .b (after (.telegramByteArrival .b 250) (receivingB []))).rx = .receiving [250] 0 ∧
      (portOf .b (after (.telegramByteArrival .b 251) (receivingB []))).framingErrors = 1 ∧
      (portOf .b (after (.telegramByteArrival .b 0) (receivingB []))).framingErrors = 1) ∧
    (([] : List Byte).length + 2 < (1 : Byte).toNat + 3 ∧
      (portOf .b (after (.telegramByteArrival .b 3) (receivingB [1]))).rx = .receiving [1, 3] 0) ∧
    ([(3 : Byte), 0].length + 2 = (1 : Byte).toNat + 3 ∧
      ([(3 : Byte), 0] ++ [0]).drop (1 : Byte).toNat ≠ crcField (1 :: [(3 : Byte), 0].take (1 : Byte).toNat) ∧
      (portOf .b (after (.telegramByteArrival .b 0) (receivingB [1, 3, 0]))).crcErrors = 1) := by decide +kernel

/-- Port A the holder, its link silent for its whole time. -/
def silentA : State := { shuntA with mode := { shuntA.mode with linkA := ⟨.up, some 500⟩ } }

theorem witness_LinkSilenceLosesTheLink :
    after (.linkSilenceExpiry .b) shuntA = shuntA ∧
    (linkOf .a shuntA.mode = ⟨.up, some 0⟩ ∧ after (.linkSilenceExpiry .a) shuntA = shuntA) ∧
    (linkOf .a silentA.mode = ⟨.up, some 500⟩ ∧ (after (.linkSilenceExpiry .a) silentA).dem.rows.link = .hold ∧
      (after (.linkSilenceExpiry .a) (moving silentA)).dem.rows.link = .full) := by decide +kernel

/-- R13: a request that arrives in the millisecond of the limit comes first, and the link stays UP. -/
theorem test_overtaken_link_silence :
    (after (.linkSilenceExpiry .a) (after (.readEvents .a []) silentA)).mode.linkA = ⟨.up, some 0⟩ := by decide

/-! Motion -/

theorem witness_PulsesAreCountedAndEndStandstill :
    ((moving releasedA).odo.standstill = false ∧
      (after (.tachometerPulse .pinion true) (moving releasedA)).odo.pinionCount = 1 ∧
      (after (.tachometerPulse .axle false) (moving releasedA)).odo.axleCount = -1) ∧
    (releasedA.odo.standstill = true ∧
      (after (.tachometerPulse .axle true) releasedA).odo.notice = .standstillEnd ∧
      (after (.tachometerPulse .axle true) alarmedA).dem.rows.alarm = .full) ∧
    ((testingAt 3).drive.source = .test ∧
      (after (.tachometerPulse .axle true) (testingAt 3)).drive.testRecord = .aborted .standstillLost) ∧
    (after (.tachometerPulse .axle true) (withDoor1 .released unbolted none)).doors.door.d1.state = .locking := by
  decide +kernel

/-- R146: a door in UNLOCKING is not secured as standstill ends, so the DOORS row becomes EMERGENCY and sets the latch,
though the door is locked again at once. -/
theorem test_unlocking_door_sets_the_latch :
    let t := after (.tachometerPulse .axle true) (withDoor1 .unlocking doorShut (some (0, 800)))
    t.dem.latch = true ∧ t.doors.door.d1.state = .closedLocked ∧ t.dem.rows.doors = .none := by decide +kernel

/-- Moving, the quiet time and the pinion fault time running as given. -/
def quietAt (quiet fault : Nat) : State := { moving releasedA with
  odo := { (moving releasedA).odo with quietTime := quiet, quietRunning := true, pinionFaultTime := fault } }

/-- R112: standstill ends a HOLD's spring brake and begins a release check; it begins one's apply check. -/
theorem test_hold_follows_standstill :
    let s := { releasedA with
      dem := { releasedA.dem with driven := .hold, rows := { releasedA.dem.rows with supervision := .hold } }
      drive := { releasedA.drive with valve := .deEnergized } }
    let t := after (.tachometerPulse .axle true) s
    (t.dem.driven, t.drive.valve, t.drive.springCheck) = (.hold, .energized, ⟨.releaseRunning, 0, 3000⟩) ∧
    (let u := { t with odo := { t.odo with quietRunning := true } }
     (after .standstillBegin u).drive.springCheck = ⟨.applyRunning, 0, 1000⟩) := by decide +kernel

theorem witness_StandstillBeginsAndThePinionFails :
    after .standstillBegin releasedA = releasedA ∧
    ((quietAt 1000 0).odo.quietRunning = true ∧ (quietAt 1000 0).odo.standstill = false ∧
      (after .standstillBegin (quietAt 1000 0)).odo.notice = .standstillBegin) ∧
    after .pinionFault releasedA = releasedA ∧
    (0 < (quietAt 0 1950).odo.pinionFaultTime ∧ (quietAt 0 1950).odo.pinionFault = false ∧
      (after .pinionFault (quietAt 0 1950)).dem.rows.odometry = .emergency) := by decide +kernel

/-- Ten pinion pulses up-line of the parts of 100 mm, on rack at 50,000, the position KNOWN. -/
def rolling : State := { moving platformA with odo := { (moving platformA).odo with
  position := 50999, remainder := 300, source := .pinion, pinionCount := 10, pinionSeen := true } }

theorem witness_SamplingFormsSpeedAndPosition :
    (let t := after .samplingExpiry rolling
     quietEnds rolling t = false ∧ t.odo.motion = .upLine ∧ t.odo.pinionWindow.d4 = 250 ∧
     t.odo.speed = 125 ∧ t.odo.position = 51002 ∧ t.odo.remainder = 100 ∧ t.odo.source = .pinion) ∧
    (let s := quietAt 950 0
     quietEnds s (after .samplingExpiry s) = true ∧ (after .samplingExpiry s).odo.standstill = true) ∧
    -- 10 pulses of 25 mm on the pinion take its cross-check distance to 10,000
    (let s := fun x a => { rolling with odo := { rolling.odo with crossPinion := x, crossAxle := a } }
     [(9749, 9000), (9750, 9000), (9750, 8999)].map (fun c =>
         let t := (after .samplingExpiry (s c.1 c.2)).odo
         (t.crossPinion, t.crossAxle, t.notice)) =
       [(9999, 9000, .none), (0, 0, .none), (0, 0, .tachoDisagree)]) := by decide +kernel

theorem witness_SamplingJudgesTheMotion :
    (let t := after .samplingExpiry (quietAt 900 0)
     (quietAt 900 0).odo.quietRunning = true ∧ t.odo.quietTime = 950 ∧ t.odo.standstill = false) ∧
    (let t := after .samplingExpiry releasedA
     releasedA.odo.quietRunning = false ∧ releasedA.odo.standstill = true ∧ t.odo.quietRunning = false) ∧
    (let s := { rolling with mode := { rolling.mode with direction := .downLine }
                             odo := { rolling.odo with reverse := 3, reverseCarry := 99 } }
     let t := after .samplingExpiry s
     (t.odo.windowOf s.odo.source).d4 = 250 ∧ t.odo.reverse = 6 ∧ t.odo.reverseCarry = 49 ∧
     t.odo.rollback = true ∧ t.dem.rows.odometry = .emergency) ∧
    (let t := after .samplingExpiry rolling
     rolling.mode.direction = .upLine ∧ t.odo.reverse = 0 ∧ t.odo.rollback = false) ∧
    (let s := { rolling with odo := { rolling.odo with
                  pinionSeen := false, pinionCount := 0, axleWindow := ⟨0, 100, 100, 100⟩, axleCount := 6
                  pinionFaultTime := 1950 } }
     let t := after .samplingExpiry s
     50 < t.odo.axleSpeed ∧ t.odo.pinionFault = true) ∧
    -- the mark at 120,100 down-line, with u 35: chosen, kept up to 45 dm beyond, then missed
    (marksOf (lineAt 120101).store.segments = [120100] ∧ (lineAt 120101).odo.posState = .known ∧
      (after .samplingExpiry (lineAt 120101)).odo.awaited = some 120100 ∧
      (after .samplingExpiry (lineAt 120100)).odo.awaited = none ∧
      (let s := fun x => { lineAt x with odo := { (lineAt x).odo with awaited := some 120100 } }
       (after .samplingExpiry (s 120055)).odo.awaited = some 120100 ∧
       (after .samplingExpiry (s 120054)).odo.awaited = none ∧
       (after .samplingExpiry (s 120054)).odo.notice = .markMissed)) := by decide +kernel

/-- Zone 4, zone 5, zone 5 in the dark and zone 0, of 1,000 dm each. -/
def zoneTable : List Segment :=
  [⟨0, 1000, 0, .rack, 556, 4, false, false, none, none⟩, ⟨1000, 1000, 0, .rack, 556, 5, false, false, none, some 500⟩,
   ⟨2000, 1000, 0, .rack, 556, 5, true, false, none, none⟩, ⟨3000, 1000, 0, .rack, 556, 0, false, false, none, none⟩]

/-- A train at the position given whose current zone is still 4, with the silence count 12 and the coverage SILENT. -/
def zonedAt (position : Nat) : State := { lineAt position with
  store := { (lineAt position).store with segments := zoneTable }
  limits := LimitTable.reset
  radio := { (lineAt position).radio with coverage := .silent, silenceCount := 12, silenceTick := 400 } }

/-- What the silence timer and the coverage are read by. -/
def heardBy (s : State) : Nat × Bool × Coverage × Bool × Nat × Nat :=
  (s.radio.zone, s.radio.dark, s.radio.coverage, s.radio.silenceRunning, s.radio.silenceCount, s.radio.silenceTick)

/-- R155 to R157 at each boundary of the table: the zone stands, changes, changes into the dark, ceases, and ends. -/
theorem witness_SamplingJudgesTheMotion_zone : [999, 1000, 2000, 3000, 4000].map
      (fun x => heardBy (after .samplingExpiry (zonedAt x))) =
    [(4, false, .silent, true, 12, 400), (5, false, .covered, true, 0, 0), (5, true, .dark, false, 0, 0),
     (0, false, .noZone, false, 0, 0), (0, false, .noZone, false, 0, 0)] ∧
    (after .samplingExpiry (zonedAt 1000)).ports.a.raw.has .radio = true := by decide +kernel

/-- A mark matched in a zone that is not the current one. -/
theorem witness_MarksCorrectThePosition_zone :
    gapBetween 1500 (zonedAt 1510).odo.position ≤ (zonedAt 1510).odo.uncertainty + 10 ∧
    heardBy (after .trackMarkDetection (zonedAt 1510)) = (5, false, .covered, true, 0, 0) := by decide +kernel

theorem witness_MarksCorrectThePosition :
    (releasedA.odo.posState = .unknown ∧ (after .trackMarkDetection releasedA).odo.notice = .markIgnored) ∧
    (let s := { lineAt 120130 with odo := { (lineAt 120130).odo with uncertainty := 20, accumulator := 0 } }
     s.odo.posState ≠ .unknown ∧ marksOf s.store.segments = [120100] ∧ gapBetween 120100 s.odo.position ≤ 20 + 10 ∧
     (after .trackMarkDetection s).odo.notice = .markMatched) ∧
    (let s := { lineAt 120131 with odo := { (lineAt 120131).odo with
                  uncertainty := 20, accumulator := 0, unexpectedMarks := 1 } }
     20 + 10 < gapBetween 120100 s.odo.position ∧ (after .trackMarkDetection s).odo.notice = .lostByMarks) ∧
    (let s := { lineAt 120110 with store := { (lineAt 120110).store with
                  segments := rackTable ++ [⟨122000, 100, 0, .rack, 556, 4, false, false, none, none⟩,
                    ⟨120000, 200, 0, .rack, 556, 4, false, false, none, some 120⟩] } }
     marksOf s.store.segments = [120100, 120120] ∧
     (after .trackMarkDetection s).odo.notice = .markAmbiguous) := by decide +kernel

/-! Supervision -/

theorem witness_SupervisionDecidesTheLevel :
    (let s := { lineAt 120275 with limits := { (lineAt 120275).limits with permit := none } }
     s.mode.mode = .line ∧ s.limits.permit = none ∧ (after .supervisionCycle s).sup.vPerm = 0) ∧
    ((lineAt 120275).limits.permit ≠ none ∧ (after .supervisionCycle (lineAt 120275)).sup.vPerm = 388) ∧
    (let s := fun v => { lineAt 120275 with odo := { (lineAt 120275).odo with speed := v } }
     (s 300).sup.level = .normal ∧ (after .supervisionCycle (s 388)).sup.level = .normal) ∧
    (let s := { shuntA with sup := { shuntA.sup with level := .emergency } }
     (after .supervisionCycle s).sup.level = .normal ∧
     (after .supervisionCycle (moving s)).sup.level = .emergency) := by decide +kernel

/-- The run of cycles: v_perm 139 in SHUNT with the margins 30 and 80, at the levels and speeds on either side of
each test. -/
theorem witness_SupervisionDecidesTheLevel_at_its_bounds :
    [(Level.normal, 139), (.normal, 140), (.normal, 169), (.normal, 170), (.normal, 219), (.normal, 220),
      (.service, 139), (.service, 140)].map (fun x => (after .supervisionCycle { moving shuntA with
        odo := { (moving shuntA).odo with speed := x.2 }, sup := { shuntA.sup with level := x.1 } }).sup.level) =
    [.normal, .warning, .warning, .service, .service, .emergency, .normal, .service] := by decide +kernel

theorem witness_StaticLimitAndTargetsAreFormed :
    (releasedA.store.segments = [] ∧ (after .supervisionCycle releasedA).sup.staticLimit = 139) ∧
    (envelopeSpan (lineAt 120275) = some ⟨120100, 120790⟩ ∧ (lineAt 120275).store.segments ≠ [] ∧
      (lineAt 120275).store.segments.head? = rackTable.head? ∧
      distanceAhead .downLine 120100 119980 = 120 ∧ 6000 < distanceAhead .downLine 120100 100000) ∧
    (let s := { lineAt 120275 with limits := { (lineAt 120275).limits with
                  permit := some ⟨.radio, 6, 1, 120200, .downLine⟩ } }
     s.mode.mode = .line ∧ distanceAhead .downLine 120100 120200 ≤ 6000 ∧
     ((after .supervisionCycle s).sup.targets.map fun x => (x.point, x.distance)).head? = some (120200, 0)) ∧
    ((∀ g ∈ (lineAt 120275).store.segments, 1 ≤ g.length) ∧ contiguous (lineAt 120275).store.segments) := by
  refine ⟨?_, ?_, ?_, ?_, rackTable_joined⟩ <;> decide +kernel

/-- R84: a restriction that begins where a segment does stands behind it at the same distance. -/
theorem test_targets_of_one_distance :
    let s := { lineAt 120275 with limits := { (lineAt 120275).limits with
                 restrictions := [⟨⟨.cab, 0, 3⟩, 118000, 120000, 139, .active⟩] } }
    ((after .supervisionCycle s).sup.targets.filter (·.distance = 100)).map (fun x => x.kind) =
      [.segment 1, .restriction ⟨.cab, 0, 3⟩ .active] := by decide +kernel

/-! What arrives at the brakes -/

theorem witness_PressureReadingsJudgeTheBrakes :
    ((releasedA.drive.testStep = none ∧
      (after (.servicePressureReading 5001) releasedA).drive.serviceReading = some 5000) ∧
     (let s := { releasedA with drive := { releasedA.drive with
                   serviceCheck := ⟨.running, 1560, 1404, 1716, 70, 1200⟩ } }
      (after (.servicePressureReading 1404) s).drive.serviceCheck.outcome = .met ∧
      (after (.servicePressureReading 1403) s).drive.serviceCheck.outcome = .running)) ∧
    ((testingAt 1).drive.testStep = some ⟨1, 0, 1200⟩ ∧ (bandOf (testingAt 1).drive.target) = (1404, 1716) ∧
      (testingAt 2).drive.testStep = some ⟨2, 0, 1200⟩ ∧
      (after (.servicePressureReading 4950) (testingAt 2)).drive.testStep = some ⟨3, 0, 3000⟩ ∧
      (after (.servicePressureReading 150) (testingAt 5)).drive.testStep = some ⟨5, 0, 1200⟩) ∧
    (releasedA.drive.valve = .energized ∧
      [799, 800, 2500, 2501].map (fun x => (after (.releasePressureReading x) releasedA).drive.springStatus) =
        [.applied, .releasing, .releasing, .released] ∧
      (let s := { releasedA with drive := { releasedA.drive with springStuck := true } }
       (after (.releasePressureReading 2501) s).drive.springStuck = false)) ∧
    ((testingAt 3).drive.testStep = some ⟨3, 0, 3000⟩ ∧
      (after (.releasePressureReading 2501) (testingAt 3)).drive.testStep = some ⟨4, 0, 1000⟩ ∧
      (after (.releasePressureReading 2500) (testingAt 3)).drive.testStep = some ⟨3, 0, 3000⟩) := by decide +kernel

/-- Step 3 with SPRING_STUCK set. -/
def stuckTest : State := { testingAt 3 with drive := { (testingAt 3).drive with springStuck := true, activeDuty := 824 } }

theorem brakes_stuckTest : BrakesFollow stuckTest where
  latch := fun h => absurd h (by decide)
  mapping := fun h => absurd h (by decide)
  hold := fun h => absurd h (by decide)
  test := fun _ => ⟨_, rfl, by decide, by decide, by decide⟩
  step := fun _ => by decide

/-- The end of step 3 with SPRING_STUCK set: the next step de-energizes the valve, which clears it. -/
theorem witness_PressureReadingsJudgeTheBrakes_release : BrakesFollow stuckTest ∧
    stuckTest.drive.testStep = some ⟨3, 0, 3000⟩ ∧
    (let d := (after (.releasePressureReading 2501) stuckTest).drive
     d.testStep = some ⟨4, 0, 1000⟩ ∧ d.springStuck = false ∧ d.activeDuty = 824 ∧ d.springStatus = .released) :=
  ⟨brakes_stuckTest, by decide, by decide⟩

/-- The checks running as given. -/
def checking (service : ServiceOutcome) (spring : SpringOutcome) : State := { releasedA with
  drive := { releasedA.drive with
    serviceCheck := ⟨service, 0, 0, 149, 1200, 1200⟩, springCheck := ⟨spring, 1000, 1000⟩ } }

/-- A test of the brakes at a step that has run its whole time. -/
def stepUp (n : Nat) : State := { testingAt n with drive := { (testingAt n).drive with
  testStep := (testingAt n).drive.testStep.map fun x => { x with timer := x.limit } } }

theorem witness_MissedChecksSetTheBrakeFaults :
    after .serviceCheckTimerExpiry releasedA = releasedA ∧
    ((checking .running .idle).drive.serviceCheck.outcome = .running ∧ releasedA.drive.serviceSlow = false ∧
      (let t := after .serviceCheckTimerExpiry (checking .running .idle)
       t.drive.serviceSlow = true ∧ t.drive.faultState = .degraded ∧ t.dem.latch = true)) ∧
    ((checking .idle .releaseRunning).drive.springStuck = false ∧
      (after .releaseCheckTimerExpiry (checking .idle .releaseRunning)).drive.springStuck = true) ∧
    ((checking .idle .applyRunning).drive.springFail = false ∧
      (after .applyCheckTimerExpiry (checking .idle .applyRunning)).dem.rows.brakeCheck = .full) ∧
    (after .brakeTestStepTimerExpiry releasedA = releasedA ∧
      after .brakeTestStepTimerExpiry (testingAt 3) = testingAt 3 ∧
      (after .brakeTestStepTimerExpiry (stepUp 3)).drive.testRecord = .failed 3) := by decide +kernel

/-- R123: the reading that meets step 1 in the millisecond of its limit begins step 2, whose time has not run. -/
theorem test_overtaken_test_step :
    (after .brakeTestStepTimerExpiry (after (.servicePressureReading 1560) (stepUp 1))).drive.testStep =
      some ⟨2, 0, 1200⟩ := by decide

/-! Radio -/

/-- Two bytes that are not the CRC of a list. -/
def wrongCrc (l : List Byte) : List Byte := [~~~(crc16 l).extractLsb' 8 8, 0]

theorem wrongCrc_ne (l : List Byte) : wrongCrc l ≠ crcField l := by
  intro h
  have h1 : ~~~((crc16 l).extractLsb' 8 8) = (crc16 l).extractLsb' 8 8 := (List.cons.inj h).1
  have h2 := congrArg (fun x : Byte => x.getLsbD 0) h1
  simp at h2

theorem witness_FramesAreClassedAndCounted :
    frameOf (.beacon (header 0) [1]) = some ⟨header 0, 0x01, [1]⟩ ∧
    ((lineAt 120275).radio.transmission = none ∧
      (after (.discardedFrame ⟨List.replicate 9 0, false⟩) (lineAt 120275)).radio.counters.shortFrames = 1 ∧
      (List.replicate 10 (0 : Byte)).drop 8 ≠ crcField (List.replicate 8 0) ∧
      (after (.discardedFrame ⟨List.replicate 10 0, false⟩) (lineAt 120275)).radio.counters.crcErrors = 1) ∧
    (∀ n, n = 128 ∨ n = 129 → ∃ bytes : List Byte, bytes.length = n ∧
      bytes.drop (bytes.length - 2) ≠ crcField (bytes.take (bytes.length - 2))) ∧
    ((after (.text (header 0) (List.replicate 119 0)) (lineAt 120275)).radio.counters.longFrames = 1 ∧
      (after (.text { header 0 with station := 32 } []) (lineAt 120275)).radio.counters.foreignFrames = 1 ∧
      (after (.text { header 0 with train := 1206 } []) (lineAt 120275)).radio.counters.notAddressed = 1 ∧
      (after (.discardedFrame ⟨frameOnAir ⟨header 0, 0x17, []⟩, false⟩) (lineAt 120275)).radio.counters.goodFrames =
        1) := by
  refine ⟨by decide, by decide +kernel, fun n h => ?_, by decide +kernel⟩
  refine ⟨List.replicate (n - 2) 0 ++ wrongCrc (List.replicate (n - 2) 0), ?_, ?_⟩
  · rcases h with rfl | rfl <;> simp [wrongCrc]
  · have h : (List.replicate (n - 2) (0 : Byte) ++ wrongCrc (List.replicate (n - 2) 0)).length - 2 = n - 2 := by
      simp [wrongCrc]
    rw [h, List.drop_left' (by simp), List.take_left' (by simp)]
    exact wrongCrc_ne _

theorem good_frame (kind : Byte) (serial : BitVec 16) (body : List Byte) (h : body.length ≤ 118) :
    frameGood ⟨header serial, kind, body⟩ (lineAt 120275) :=
  ⟨rfl, h, ⟨rfl, by decide, (by decide : 1 ≤ (6 : Byte).toNat), (by decide : (6 : Byte).toNat ≤ 31),
    (by decide : 1 ≤ (4 : Byte).toNat), (by decide : (4 : Byte).toNat ≤ 31)⟩, fun h => (h rfl).elim, fun _ _ => rfl⟩

theorem new_bulletin (serial : BitVec 16) : newBulletin (header serial) (lineAt 120275) := by
  intro e h; cases h

theorem witness_BeaconsAndTicksFormTheCoverage :
    (frameGood ⟨header 0, 0x01, [1]⟩ (lineAt 120275) ∧ (header 0).zone.toNat = (lineAt 120275).radio.zone ∧
      (lineAt 120275).radio.zone ≠ 0 ∧ (lineAt 120275).radio.window = none ∧
      (∃ x, (lineAt 120275).mode.composition = some x ∧ x.role = .transmit)) ∧
    (frameGood ⟨{ header 0 with zone := 5 }, 0x01, [1]⟩ (lineAt 120275) ∧ [(1 : Byte), 0].length ≠ 1) ∧
    (let t := after (.beacon (header 0) [1]) (lineAt 120275)
     t.radio.window = some ⟨0, 0⟩ ∧ t.radio.counters.beacons = 1) ∧
    ((lineAt 120275).radio.silenceRunning = true ∧ shuntA.radio.silenceRunning = false ∧
      (let s := { lineAt 120275 with radio := { (lineAt 120275).radio with silenceCount := 7, silenceTick := 1000 } }
       (after .silenceTimerTick s).radio.coverage = .silent) ∧
      (let s := { lineAt 120275 with radio := { (lineAt 120275).radio with silenceCount := 29, silenceTick := 1000 } }
       (after .silenceTimerTick s).radio.coverage = .lost) ∧
      -- T_SILENCE 8 and T_LOST 9, used as 10
      (let s := fun n => { lineAt 120275 with
         store := { (lineAt 120275).store with params := { (lineAt 120275).store.params with tLost := 9 } }
         radio := { (lineAt 120275).radio with silenceCount := n, silenceTick := 1000 } }
       [6, 7, 8, 9].map (fun n => (after .silenceTimerTick (s n)).radio.coverage) =
         [.covered, .silent, .silent, .lost])) :=
  ⟨⟨good_frame _ _ _ (by decide), rfl, by decide, rfl, _, rfl, rfl⟩,
    ⟨⟨rfl, by decide, ⟨rfl, by decide, by decide, by decide, by decide, by decide⟩, fun h => (h rfl).elim,
      fun _ h => h.elim (fun h => absurd h (by decide)) fun h => absurd h (by decide)⟩, by decide⟩,
    by decide, by decide⟩

theorem witness_RestrictionBulletinsAreApplied :
    (TablesFollow (lineAt 120275) ∧ newBulletin (header 1) (lineAt 120275) ∧
      frameGood ⟨header 1, 0x10, natField 1 3 ++ natField 3 116500 ++ natField 3 120200 ++ natField 2 139⟩
        (lineAt 120275) ∧
      frameGood ⟨header 1, 0x10, List.replicate 10 0⟩ (lineAt 120275) ∧
      frameGood ⟨header 1, 0x11, [0]⟩ (lineAt 120275) ∧ frameGood ⟨header 1, 0x11, []⟩ (lineAt 120275)) ∧
    ((after (.restrictionSet (header 1) (natField 1 3 ++ natField 3 116500 ++ natField 3 120200 ++ natField 2 139))
        (lineAt 120275)).limits.restrictions = [⟨⟨.radio, 6, 3⟩, 116500, 120200, 139, .active⟩] ∧
      (after (.restrictionSet (header 1) (natField 1 0 ++ natField 3 116500 ++ natField 3 120200 ++ natField 2 139))
        (lineAt 120275)).radio.recent = [⟨6, 1, .refusedInvalid⟩] ∧
      (after (.restrictionLiftBulletin (header 1) [3]) (lineAt 120275)).limits.restrictions = [] ∧
      (after (.restrictionLiftBulletin (header 1) [0]) (lineAt 120275)).radio.recent = [⟨6, 1, .refusedInvalid⟩]) :=
  ⟨⟨tables_lineAt, new_bulletin _, good_frame _ _ _ (by decide), good_frame _ _ _ (by decide),
    good_frame _ _ _ (by decide), good_frame _ _ _ (by decide)⟩, by decide⟩

/-- A frame header to the train alone. -/
def trainHeader (serial : BitVec 16) : FrameHeader := { header serial with train := 1207 }

theorem train_frame (kind : Byte) (serial : BitVec 16) (body : List Byte) (h : body.length ≤ 118) :
    frameGood ⟨trainHeader serial, kind, body⟩ (lineAt 120275) :=
  ⟨rfl, h, ⟨rfl, by decide, (by decide : 1 ≤ (6 : Byte).toNat), (by decide : (6 : Byte).toNat ≤ 31),
    (by decide : 1 ≤ (4 : Byte).toNat), (by decide : (4 : Byte).toNat ≤ 31)⟩, fun _ => ⟨train, rfl, rfl⟩,
    fun h => absurd h (by decide : (1207 : BitVec 16) ≠ 0)⟩

/-- The result entered for a PERMIT_GRANT of the end and the direction given. -/
def granted (stop : Nat) (d : Byte) (s : State) : List BulletinResult :=
  (after (.permitGrant (trainHeader 1) (natField 3 stop ++ [d])) s).radio.recent.map BulletinEntry.result

theorem witness_PermitBulletinsAreApplied :
    (newBulletin (trainHeader 1) (lineAt 120275) ∧ (trainHeader 1).train ≠ 0 ∧
      frameGood ⟨trainHeader 1, 0x12, natField 3 200000 ++ [2]⟩ (lineAt 120275) ∧
      frameGood ⟨trainHeader 1, 0x12, []⟩ (lineAt 120275) ∧
      frameGood ⟨trainHeader 1, 0x13, []⟩ (lineAt 120275) ∧ frameGood ⟨trainHeader 1, 0x13, [0]⟩ (lineAt 120275) ∧
      envelopeSpan (lineAt 120275) = some ⟨120100, 120790⟩) ∧
    (granted 200001 2 (lineAt 120275) = [.refusedInvalid] ∧ granted 90000 0 (lineAt 120275) = [.refusedInvalid] ∧
      granted 90000 1 (lineAt 120275) = [.refusedDirection] ∧ granted 90000 2 (lineAt 120275) = [.applied] ∧
      (let s := { lineAt 120275 with mode := { (lineAt 120275).mode with mode := .shunt } }
       granted 90000 2 s = [.refusedMode])) ∧
    -- 114,100 lies 6,000 dm ahead, where the net deceleration 1,497 and the 5,946 dm allow 4,219 cm/s; 120,080 lies 20
    (granted 114099 2 (lineAt 120275) = [.applied] ∧ granted 114100 2 (lineAt 120275) = [.applied] ∧
      granted 120080 2 (lineAt 120275) = [.refusedShorten] ∧
      shorteningPasses (lineAt 120275) 114100 = true ∧ shorteningPasses (lineAt 120275) 120080 = false) ∧
    (after (.permitRevoke (trainHeader 1) []) (lineAt 120275)).limits.permit = none :=
  ⟨⟨(by intro e h; cases h), by decide, train_frame _ _ _ (by decide), train_frame _ _ _ (by decide),
    train_frame _ _ _ (by decide), train_frame _ _ _ (by decide), by decide⟩, by decide, by decide, by decide⟩

/-- The state after a stop order of station 6 that stands in the recent bulletin list. -/
def ordered : State := { lineAt 120275 with
  radio := { (lineAt 120275).radio with recent := [⟨6, 1, .applied⟩] }
  limits := { (lineAt 120275).limits with stops := (List.replicate 31 .none).set 5 .serviceStop } }

/-- An inbox with no free slot. -/
def mailFull : State := { lineAt 120275 with radio := { (lineAt 120275).radio with
  inbox := List.replicate 8 ⟨6, 1, .normal, false, [65], 0⟩, freeCount := 0 } }

theorem witness_StopsTextsAndDuplicatesAreTaken :
    (TablesFollow (lineAt 120275) ∧ newBulletin (header 2) (lineAt 120275) ∧
      frameGood ⟨header 2, 0x14, [1]⟩ (lineAt 120275) ∧ frameGood ⟨header 2, 0x14, [3]⟩ (lineAt 120275) ∧
      frameGood ⟨header 2, 0x15, []⟩ (lineAt 120275) ∧ frameGood ⟨header 2, 0x16, [1]⟩ (lineAt 120275) ∧
      frameGood ⟨header 2, 0x16, 1 :: 1 :: [65]⟩ (lineAt 120275)) ∧
    ((after (.stopOrder (header 2) [1]) (lineAt 120275)).dem.rows.radio = .full ∧
      (after (.stopOrder (header 2) [2]) (lineAt 120275)).dem.latch = true ∧
      (after (.stopOrder (header 2) [0]) (lineAt 120275)).radio.recent = [⟨6, 2, .refusedInvalid⟩] ∧
      (after (.stopRelease (header 2) []) ordered).limits.stops = List.replicate 31 .none) ∧
    ((after (.text (header 2) [1, 1, 65]) (lineAt 120275)).radio.inbox = [⟨6, 2, .urgent, false, [65], 0⟩] ∧
      (after (.text (header 2) [2, 1, 65]) (lineAt 120275)).radio.inbox = [] ∧
      ((after (.text (header 2) (0 :: 97 :: List.replicate 97 65)) (lineAt 120275)).radio.inbox.map
        fun m => (m.truncated, m.text.length)) = [(true, 96)] ∧
      (after (.text (header 2) [0, 1, 65]) mailFull).radio.counters.inboxDrops = 1) ∧
    (frameGood ⟨header 1, 0x14, [1]⟩ ordered ∧ (⟨6, 1, .applied⟩ : BulletinEntry) ∈ ordered.radio.recent ∧
      (after (.stopOrder (header 1) [2]) ordered).radio.counters.duplicates = 1 ∧
      (after (.stopOrder (header 1) [2]) ordered).limits = ordered.limits) :=
  ⟨⟨tables_lineAt, new_bulletin _, good_frame _ _ _ (by decide), good_frame _ _ _ (by decide),
    good_frame _ _ _ (by decide), good_frame _ _ _ (by decide), good_frame _ _ _ (by decide)⟩, by decide,
    by decide +kernel,
    ⟨rfl, by decide, ⟨rfl, by decide, by decide, by decide, by decide, by decide⟩, fun h => (h rfl).elim,
      fun _ _ => rfl⟩, by decide, by decide, by decide⟩

/-- An open window with an acknowledgement on the air, or the report. -/
def sendingAt (k : TxKind) (begun : Nat) : State := { lineAt 120275 with
  radio := { (lineAt 120275).radio with
    acks := [⟨6, 1, .applied⟩], reportDue := true, reportTimer := some (0, 5), window := some ⟨100, begun⟩
    transmission := some ⟨k, []⟩ } }

theorem witness_TransmissionsAndReportsFollowTheirTimers :
    (after .transmissionEnd shuntA = shuntA ∧
      (sendingAt (.ack ⟨6, 1, .applied⟩ true) 1).radio.transmission = some ⟨.ack ⟨6, 1, .applied⟩ true, []⟩ ∧
      (let t := after .transmissionEnd (sendingAt (.ack ⟨6, 1, .applied⟩ true) 1)
       t.radio.acks = [] ∧ t.radio.transmission.map Transmission.kind = some .report) ∧
      (after .transmissionEnd (sendingAt (.ack ⟨6, 1, .applied⟩ true) 2)).radio.transmission = none ∧
      (after .transmissionEnd (sendingAt .report 1)).radio.reportDue = false) ∧
    ((sendingAt .report 1).radio.reportTimer = some (0, 5) ∧
      after .reportTimerExpiry (sendingAt .report 1) = sendingAt .report 1 ∧
      (let s := { shuntA with radio := { shuntA.radio with reportTimer := some (5000, 5), window := some ⟨500, 0⟩ } }
       (after .reportTimerExpiry s).radio.reportTimer = some (0, 5) ∧
         (after .windowTimerExpiry s).radio.window = none) ∧
      after .windowTimerExpiry (sendingAt .report 1) = sendingAt .report 1) ∧
    ((lineAt 120275).mode.composition = some train ∧ (reportFrame (lineAt 120275)).length = 29 ∧
      (ackFrame ⟨6, 1, .refusedFull⟩ (lineAt 120275)).take 9 = [7, 6, 4, 0x20, 0, 1, 0x04, 0xB7, 1] ∧
      (reportLayout train (lineAt 120275)).all
        (fun x => ((reportBody (lineAt 120275)).drop x.1).take x.2.1 = x.2.2) = true) := by decide +kernel

/-! The load -/

/-- The header of the braking case's table, its parameters at 32 and its segments at 192. -/
def headerCovered (mark format line : Byte) : List Byte :=
  [mark, format, line] ++ natField 2 11 ++ natField 2 3 ++ natField 2 32 ++ natField 2 192 ++ [0, 0, 0]

/-- The loader at its operation. -/
def loadingAt (op : LoaderOp) : State := { State.reset with
  store := { Store.reset with loader := op, headerCount := 3, headerParamAddr := 32, headerSegAddr := 192 } }

/-- The failure and the phase that a header leaves. -/
def headerLeaves (bytes : List Byte) : Option LoadReason × LoadPhase :=
  let t := after (.headerReadEnd bytes) (loadingAt .headerRead)
  (t.store.failure.map LoadFailure.reason, t.store.phase)

theorem witness_LoaderTakesTheHeader :
    (State.reset.store.loader = .poll 0 ∧ (0 : Byte).getLsbD 0 = false ∧
      (after (.loaderStatusAnswer 0) State.reset).store.loader = .headerRead ∧
      after (.loaderStatusAnswer 1) State.reset = State.reset ∧
      after .loaderBusyTimeout State.reset = State.reset ∧
      (after .loaderBusyTimeout (loadingAt (.poll 25))).store.result = .noProfile) ∧
    ((loadingAt .headerRead).store.loader = .headerRead ∧
      headerLeaves (headerCovered 0x3C 1 7 ++ crcField (headerCovered 0x3C 1 7)) = (none, .parameters) ∧
      headerLeaves (headerCovered 0x3D 1 7 ++ crcField (headerCovered 0x3D 1 7)) = (some .validMark, .done) ∧
      headerLeaves (headerCovered 0x3C 1 7 ++ [0, 0]) = (some .headerCrc, .done) ∧
      headerLeaves (headerCovered 0x3C 2 7 ++ crcField (headerCovered 0x3C 2 7)) = (some .format, .done) ∧
      headerLeaves (headerCovered 0x3C 1 0 ++ crcField (headerCovered 0x3C 1 0)) = (some .lineId, .done)) := by
  decide +kernel

/-- The bytes of the last record of the table with its kind 2. -/
def strange : List Byte := (segmentBytes ⟨120000, 2000, 150, .rack, 556, 4, false, true, none, some 100⟩).set 7 2

theorem witness_LoaderTakesTheBlocks :
    ((loadingAt .parameterRead).store.loader = .parameterRead ∧ (paramBytes Params.default).length = 100 ∧
      Params.default.valid = true ∧ Params.default.glc.length = 7 ∧
      paramBytes Params.default = paramBytes (paramsOf (paramBytes Params.default))) ∧
    (∀ l : List Byte, (∃ c d, [c, d] = crcField l) ∧ ∃ c d, [c, d] ≠ crcField l) ∧
    (let p := { Params.default with vMax := 1201 }
     p = paramsOf (paramBytes p) ∧ p.valid = false ∧
     let tests := rangeTests p (Quad.all true)
     tests = tests.take 12 ++ (12, 0, false) :: tests.drop 13 ∧ ∀ y ∈ tests.take 12, y.2.2 = true) ∧
    (let p := { Params.default with aRackDeg := 3601 }
     (∀ y ∈ rangeTests p (Quad.all true), y.2.2 = true) ∧ brokenConstraint p = some .decelOrder) ∧
    ((loadingAt .segmentRead).store.loader = .segmentRead ∧
      rackTable.length = (loadingAt .segmentRead).store.headerCount ∧ contiguous rackTable ∧
      (∀ g ∈ rackTable, g.start < 16777216 ∧ g.length < 65536 ∧ SegmentFits g)) ∧
    (∀ g ∈ rackTable, SegmentGood g) ∧
    ((after (.segmentBlockReadEnd (segmentBlock rackTable)) (loadingAt .segmentRead)).store.result = .paramsDefault ∧
      (after (.segmentBlockReadEnd (segmentBlock (rackTable.take 2 ++ [edited])))
        (loadingAt .segmentRead)).store.failure = some ⟨.segments, .contiguity, .record 2⟩) ∧
    (reasonOf (some 120000) edited = .contiguity ∧
      -- a last record whose kind is no code
      (let covered := 0x96 :: (rackTable.take 2).flatMap segmentBytes ++ strange
       strange.length = 19 ∧ 1 < (strange.getD 7 0).toNat ∧
       (after (.segmentBlockReadEnd (covered ++ crcField covered)) (loadingAt .segmentRead)).store.failure =
         some ⟨.segments, .range, .record 2⟩)) := by
  refine ⟨by decide +kernel, fun l => ⟨⟨_, _, rfl⟩, _, _, wrongCrc_ne l⟩,
    by decide +kernel, by decide +kernel,
    ⟨rfl, rfl, rackTable_joined, ?_⟩, ?_, by decide +kernel, by decide +kernel⟩
  · intro g h
    fin_cases h <;> refine ⟨by decide, by decide, by decide, by decide, by decide, by decide, ?_, ?_⟩ <;>
      rintro _ ⟨⟩ <;> decide
  · intro g h
    fin_cases h <;> refine ⟨by decide, by decide, by decide, by decide, by decide, by decide, by decide, ?_, ?_⟩ <;>
      rintro _ ⟨⟩ <;> decide

theorem witness_CurvesAreInterpolated :
    (Params.default.pLo < Params.default.pHi ∧ Params.default.pHi ≤ 5000 ∧ Params.default.glc.length = 7) ∧
    (let v := Params.default.valve
     valveStep v.d1 v.d2 = true ∧ valveStep v.d2 v.d3 = true ∧ valveStep v.d3 v.d4 = true) ∧
    gradientLimit Params.default.glc (-300) = 278 ∧ gradientLimit Params.default.glc 300 = 444 ∧
    gradientLimit Params.default.glc (-220) = 322 ∧
    -- R116: a target of 304 has the band 154..454, and a small one reaches down to 0
    bandOf 304 = (154, 454) ∧ bandOf 0 = (0, 149) ∧ bandOf 100 = (0, 250) ∧ bandOf 1509 = (1359, 1659) ∧
    bandOf 1510 = (1359, 1661) := by decide

/-! Invariants -/

theorem notices_shuntA : NoticesFollow shuntA := by
  intro p
  refine ⟨fun h => absurd h (by cases p <;> decide), fun ⟨e, h, _⟩ => absurd h ?_⟩
  cases p <;> cases e <;> decide

theorem demands_line : DemandsFollow (lineAt 120275) where
  driven := by decide
  traction := by decide
  latched := by decide
  cabA := by decide
  cabB := by decide
  panel := by decide
  supervision := by decide
  loop := by decide
  doors := by decide
  radio := by decide
  link := by decide
  alarm := by decide
  odometry := by decide
  brakeCheck := by decide
  faultState := by decide

/-- A state in which the rows stand as their causes have them, sampled: the last premise of
SamplingJudgesTheMotion. -/
theorem witness_SamplingJudgesTheMotion_brakes : DemandsFollow (lineAt 120275) ∧
    (after .samplingExpiry (lineAt 120275)).dem.driven = .none ∧
    (after .samplingExpiry (lineAt 120275)).drive = (lineAt 120275).drive := ⟨demands_line, by decide, by decide⟩

theorem demands_appliedA : DemandsFollow appliedA where
  driven := by decide
  traction := by decide
  latched := by decide
  cabA := by decide
  cabB := by decide
  panel := by decide
  supervision := by decide
  loop := by decide
  doors := by decide
  radio := by decide
  link := by decide
  alarm := by decide
  odometry := by decide
  brakeCheck := by decide
  faultState := by decide

/-- The same states with a command in front. -/
def queued (c : Instr) (s : State) : State := { s with pending := [c] }

theorem witness_EveryStepKeepsTheNotices :
    NoticesFollow shuntA ∧ (∃ t, step (queued (.handleChange .h1 true) shuntA) = .next t) ∧
    (∃ t, exec (.powerOn inputsAtRest) shuntA = .next t) ∧
    (Ready .a shuntA ∧ isHolder .a shuntA = true ∧ shuntA.odo.standstill = true) :=
  ⟨notices_shuntA, ⟨_, rfl⟩, ⟨_, rfl⟩, ⟨rfl, by decide⟩, rfl, rfl⟩

theorem witness_EveryStepKeepsTheDemands :
    DemandsFollow appliedA ∧ (∃ t, step (queued (.emergencyReset .a []) appliedA) = .next t ∧ t.dem.latch = false) :=
  ⟨demands_appliedA, _, rfl, by decide⟩

theorem witness_EveryStepKeepsTheBrakes : DemandsFollow appliedA ∧ BrakesFollow appliedA ∧
    (∃ t, step (queued (.emergencyReset .a []) appliedA) = .next t ∧ t.drive.valve = .energized) :=
  ⟨demands_appliedA, ⟨fun _ => ⟨by decide, by decide⟩, fun _ => by decide, fun h => absurd h (by decide),
    fun h => absurd h (by decide), fun h => absurd h (by decide)⟩, _, rfl, by decide⟩

theorem witness_EveryStepKeepsTheMode : ModeFollows (lineAt 120275) ∧
    (∃ t, step (queued .supervisionCycle (lineAt 120275)) = .next t ∧ t.mode.mode = .line) := by
  refine ⟨⟨by decide, fun _ => by decide, fun h => absurd h (by decide), fun h => absurd h (by decide),
    fun h => absurd h (by decide), ?_⟩, _, rfl, by decide⟩
  rintro p ⟨⟩; decide

theorem witness_EveryStepKeepsThePosition : PositionFollows (lineAt 120275) ∧
    (∃ t, step (queued .samplingExpiry (lineAt 120275)) = .next t ∧ t.odo.posState = .known) :=
  ⟨⟨by decide, by unfold marksOnLine; decide, fun h => absurd h (by decide), fun _ => by decide,
    fun h => absurd h (by decide), by decide, by decide, by decide, by decide, by decide, by decide, by decide,
    by decide, by decide⟩, _, rfl, by decide⟩

theorem witness_EveryStepKeepsTheTables : TablesFollow (lineAt 120275) ∧
    (∃ t, step (queued (.text (header 2) [1, 1, 65]) (lineAt 120275)) = .next t ∧ t.radio.freeCount = 7) :=
  ⟨tables_lineAt, _, rfl, by decide⟩

end Sys2Proof.Tests
end

section
/-!
What every step does, said once for any property of the state: a step is a millisecond, a telegram, a frame or an
event, and a telegram is heard, then discarded or judged by its code and answered (R172 to R174).
-/

namespace Sys2Proof.Machine

/-- A request command is its telegram, taken whole (R172, R174). -/
theorem exec_telegram {i : Instr} {p : Port} {code : Byte} {args : List Byte}
    (h : telegramOf i = some (p, code, args)) (s : State) : exec i s = .next (takeTelegram p code args s) := by
  cases i <;> cases h <;> rfl

/-- A frame command is its frame, received (R151, R152). -/
theorem exec_frame {i : Instr} {f : Frame} (h : frameOf i = some f) (s : State) :
    exec i s = .next (receiveFrame f s) := by
  cases i <;> cases h <;> rfl

/-- What a rule finds that is asked at all, READ STATUS excepted: the load over, and the link of the asking trainline
port UP (R13, R174). -/
structure Heeded (p : Port) (s : State) : Prop where
  loaded : s.mode.mode ≠ .loading
  up : ∀ l, trainlineOf p = some l → (linkOf l s.mode).state = .up

/-- A telegram keeps what its hearing, its discarding, its answering and its code's rule keep. -/
theorem takeTelegram_keeps {P : State → Prop} {p : Port} {code : Byte} {args : List Byte} {s : State}
    (heard : P (completeTelegram p s)) (discard : ∀ t, P t → P (discardRequest p t))
    (hold : ∀ r : State × Reply, P r.1 → P (holdAnswer p code r))
    (rule : ∀ n (rule : Rule) t, ruleOf code p args = some (n, rule) → Heeded p t → P t → P (rule t).1) :
    P (takeTelegram p code args s) := by
  have judged : P (judgeByCode p code args (completeTelegram p s)).1 := by
    unfold judgeByCode
    cases hr : ruleOf code p args with
    | none => exact heard
    | some r =>
      simp only [judge]
      split
      · exact heard
      split
      · exact heard
      rename_i hload
      by_cases hcode : code = 0x01
      · subst hcode
        cases hr
        exact heard
      · refine rule r.1 r.2 _ hr ⟨fun h => hload ⟨h, hcode⟩, fun l hl => ?_⟩ heard
        rw [(completeTelegram_heard p s).up l hl]
  unfold takeTelegram takeRequest
  simp only
  split
  · exact discard _ heard
  · exact hold _ judged

/-- Every step keeps what a millisecond and every command keep. -/
theorem step_keeps {P : State → Prop} (time : ∀ s, P s → P (passTime s))
    (queue : ∀ s q, P s → P { s with pending := q }) (command : ∀ i s t, P s → exec i s = .next t → P t)
    {s t : State} (h : P s) (hs : step s = .next t) : P t := by
  unfold step at hs
  split at hs
  · cases hs
    exact time s h
  · rename_i c rest _
    exact command c _ t (queue s rest h) hs

/-- Every command keeps what the telegrams, the frames and the other events keep. -/
theorem exec_keeps {P : State → Prop} (telegram : ∀ p code args s, P s → P (takeTelegram p code args s))
    (frame : ∀ f s, P s → P (receiveFrame f s))
    (event : ∀ i s t, telegramOf i = none → frameOf i = none → P s → exec i s = .next t → P t)
    {i : Instr} {s t : State} (h : P s) (he : exec i s = .next t) : P t := by
  cases ht : telegramOf i with
  | some x =>
    obtain ⟨p, code, args⟩ := x
    rw [exec_telegram ht] at he
    cases he
    exact telegram p code args s h
  | none =>
    cases hf : frameOf i with
    | some f =>
      rw [exec_frame hf] at he
      cases he
      exact frame f s h
    | none => exact event i s t ht hf h he

end Sys2Proof.Machine
end

section
/-!
What neither the mode and authority invariant nor the demand rows speak of may change in many acts: `Aside` names what
of a state both speak of, and each act that leaves it alone is here shown to do so (R1 to R16, R93 to R109).
-/

namespace Sys2Proof.Machine

/-! ### The brake test, as the mode's invariant speaks of it -/

/-- What a change of the brake drive may do to the brake test: a test that runs afterwards ran before with its record,
where none ran the record stays, and a step stands in a running test alone (R3, R110, R125). -/
structure TestCarried (d e : BrakeDrive) : Prop where
  running : e.source = .test → d.source = .test ∧ e.testRecord = d.testRecord
  record : d.source ≠ .test → e.testRecord = d.testRecord
  stepped : (d.testStep.isSome = true → d.source = .test) → e.testStep.isSome = true → e.source = .test

theorem TestCarried.of_eq {d e : BrakeDrive} (hs : e.source = d.source) (ht : e.testStep = d.testStep)
    (hr : e.testRecord = d.testRecord) : TestCarried d e :=
  ⟨fun h => ⟨hs ▸ h, hr⟩, fun _ => hr, fun h k => hs ▸ h (ht ▸ k)⟩

theorem TestCarried.refl (d : BrakeDrive) : TestCarried d d := .of_eq rfl rfl rfl

theorem TestCarried.trans {d e f : BrakeDrive} (h : TestCarried d e) (k : TestCarried e f) : TestCarried d f where
  running hf := by
    obtain ⟨he, hr⟩ := k.running hf
    obtain ⟨hd, hr'⟩ := h.running he
    exact ⟨hd, hr.trans hr'⟩
  record hd := (k.record fun he => hd (h.running he).1).trans (h.record hd)
  stepped hd := k.stepped (h.stepped hd)

/-- A drive that no test commands and that holds no step, with the record as it was. -/
theorem TestCarried.of_ended {d e : BrakeDrive} (hs : e.source ≠ .test) (ht : e.testStep = none)
    (hr : d.source ≠ .test → e.testRecord = d.testRecord) : TestCarried d e :=
  ⟨fun h => absurd h hs, hr, fun _ h => by rw [ht] at h; cases h⟩

theorem MappingTaken.carried {p : Params} {o : Nat × Valve} {d e : BrakeDrive} (h : MappingTaken p o d e) :
    TestCarried d e := by
  obtain ⟨hs, ht, hr⟩ := h.test
  exact .of_ended (by rw [hs]; decide) ht fun _ => hr

theorem HoldTaken.carried {p : Params} {r : TestRecord} {d e : BrakeDrive} (h : HoldTaken p r d e)
    (hd : d.source = .test) : TestCarried d e := by
  obtain ⟨hs, ht, _⟩ := h.test
  exact .of_ended (by rw [hs]; decide) ht fun h => absurd hd h

/-- What the drive does with a driven kind carries the brake test (R112, R125). -/
theorem DriveFollows.carried {p : Params} {still fresh : Bool} {k l : Kind} {d e : BrakeDrive}
    (h : DriveFollows p still fresh k l d e) : TestCarried d e := by
  have same : e = d → TestCarried d e := fun x => x ▸ .refl d
  cases hd : d.source with
  | mapping =>
    by_cases hk : l = k
    · exact same (h.unmoved hk (by rw [hd]; decide))
    · obtain ⟨hs, ht, hr⟩ := (h.mapping hk hd).test
      exact .of_eq hs ht hr
  | abortHold =>
    by_cases hk : l = k
    · exact same (h.unmoved hk (by rw [hd]; decide))
    · exact (h.hold hk hd).carried
  | test =>
    cases fresh with
    | false => exact same (h.test hd rfl)
    | true =>
      rcases h.aborted hd rfl with held | ⟨c, held, taken⟩
      · exact held.carried hd
      · exact (held.carried hd).trans taken.carried

/-! ### What both invariants speak of -/

/-- The faults of the brake drive (R102, R121). -/
structure FaultsStand (d e : BrakeDrive) : Prop where
  slow : e.serviceSlow = d.serviceSlow
  fail : e.springFail = d.springFail
  state : e.faultState = d.faultState

theorem DriveKeeps.faults {d e : BrakeDrive} (h : DriveKeeps d e) : FaultsStand d e :=
  ⟨h.serviceSlow, h.springFail, h.faultState⟩

/-- What a millisecond, a page, a message or a mark leaves: the mode, the loader's operation and result, the permit
and the stops, the level, the demands, the doors, standstill and the two odometry faults, and of the brake drive the
faults and the test. -/
structure Aside (s t : State) : Prop where
  mode : t.mode = s.mode
  loader : t.store.loader = s.store.loader
  result : t.store.result = s.store.result
  permit : t.limits.permit = s.limits.permit
  stops : t.limits.stops = s.limits.stops
  level : t.sup.level = s.sup.level
  dem : t.dem = s.dem
  doors : t.doors = s.doors
  standstill : t.odo.standstill = s.odo.standstill
  rollback : t.odo.rollback = s.odo.rollback
  pinionFault : t.odo.pinionFault = s.odo.pinionFault
  test : TestCarried s.drive t.drive
  faults : FaultsStand s.drive t.drive

theorem Aside.refl (s : State) : Aside s s :=
  ⟨rfl, rfl, rfl, rfl, rfl, rfl, rfl, rfl, rfl, rfl, rfl, .refl _, ⟨rfl, rfl, rfl⟩⟩

theorem Aside.trans {s t u : State} (h : Aside s t) (k : Aside t u) : Aside s u :=
  ⟨k.mode.trans h.mode, k.loader.trans h.loader, k.result.trans h.result, k.permit.trans h.permit,
    k.stops.trans h.stops, k.level.trans h.level, k.dem.trans h.dem, k.doors.trans h.doors,
    k.standstill.trans h.standstill, k.rollback.trans h.rollback, k.pinionFault.trans h.pinionFault,
    h.test.trans k.test, ⟨k.faults.slow.trans h.faults.slow, k.faults.fail.trans h.faults.fail,
      k.faults.state.trans h.faults.state⟩⟩

theorem Aside.ite {c : Prop} [Decidable c] {s t u : State} (h : Aside s t) (k : Aside s u) :
    Aside s (if c then t else u) := by
  split
  · exact h
  · exact k

/-- The blocks of which both invariants speak. -/
def ruledBlocks : List Block := [.mode, .odo, .store, .limits, .sup, .dem, .drive, .doors]

theorem Aside.of_keeps {s t : State} (h : Keeps ruledBlocks s t) : Aside s t := by
  have mode : t.mode = s.mode := h .mode (by decide)
  have odo : t.odo = s.odo := h .odo (by decide)
  have store : t.store = s.store := h .store (by decide)
  have limits : t.limits = s.limits := h .limits (by decide)
  have sup : t.sup = s.sup := h .sup (by decide)
  have dem : t.dem = s.dem := h .dem (by decide)
  have drive : t.drive = s.drive := h .drive (by decide)
  have doors : t.doors = s.doors := h .doors (by decide)
  refine ⟨mode, ?_, ?_, ?_, ?_, ?_, dem, doors, ?_, ?_, ?_, ?_, ?_⟩ <;>
    simp only [odo, store, limits, sup, drive]
  · exact .refl _
  · exact ⟨rfl, rfl, rfl⟩

theorem Aside.of_radio {s t : State} (h : Keeps allButRadio s t) : Aside s t := .of_keeps (h.mono (by decide))

theorem raise_aside (e : Event) (s : State) : Aside s (raise e s) := .of_keeps (.raise _ e s (by decide))

theorem raiseIf_aside (c : Bool) (e : Event) (s : State) : Aside s (raiseIf c e s) :=
  .of_keeps (.raiseIf _ c e s (by decide))

theorem updPort_aside (p : Port) (f : PortRec → PortRec) (s : State) : Aside s (updPort p f s) :=
  .of_keeps fun b hb => by cases p <;> cases b <;> first | rfl | exact absurd hb (by decide)

theorem updRadio_aside (f : Radio → Radio) (s : State) : Aside s (updRadio f s) :=
  .of_keeps fun b hb => by cases b <;> first | rfl | exact absurd hb (by decide)

theorem memory_aside (s : State) (m : Memory) : Aside s { s with memory := m } :=
  .of_keeps fun b hb => by cases b <;> first | rfl | exact absurd hb (by decide)

theorem pending_aside (s : State) (q : List Instr) : Aside s { s with pending := q } :=
  .of_keeps fun b hb => by cases b <;> first | rfl | exact absurd hb (by decide)

theorem updStore_aside (f : Store → Store) (s : State) (hl : (f s.store).loader = s.store.loader := by rfl)
    (hr : (f s.store).result = s.store.result := by rfl) : Aside s (updStore f s) :=
  ⟨rfl, hl, hr, rfl, rfl, rfl, rfl, rfl, rfl, rfl, rfl, .refl _, ⟨rfl, rfl, rfl⟩⟩

theorem updDrive_aside (f : BrakeDrive → BrakeDrive) (s : State) (ht : TestCarried s.drive (f s.drive))
    (hf : FaultsStand s.drive (f s.drive)) : Aside s (updDrive f s) :=
  ⟨rfl, rfl, rfl, rfl, rfl, rfl, rfl, rfl, rfl, rfl, rfl, ht, hf⟩

theorem updOdo_aside (f : Odometry → Odometry) (s : State) (hs : (f s.odo).standstill = s.odo.standstill := by rfl)
    (hr : (f s.odo).rollback = s.odo.rollback := by rfl)
    (hp : (f s.odo).pinionFault = s.odo.pinionFault := by rfl) : Aside s (updOdo f s) :=
  ⟨rfl, rfl, rfl, rfl, rfl, rfl, rfl, rfl, hs, hr, hp, .refl _, ⟨rfl, rfl, rfl⟩⟩

/-! ### The odometry -/

theorem notice_aside (n : Notice) (s : State) : Aside s (notice n s) :=
  (updOdo_aside _ s).trans (raise_aside .position _)

theorem noticeIf_aside (c : Bool) (n : Notice) (s : State) : Aside s (noticeIf c n s) := by
  cases c
  · exact .refl s
  · exact notice_aside n s

theorem loseBy_aside (n : Notice) (s : State) : Aside s (loseBy n s) :=
  (updOdo_aside _ s).trans (notice_aside n _)

theorem growUncertainty_aside (factor moved : Nat) (s : State) : Aside s (growUncertainty factor moved s) := by
  unfold growUncertainty
  split
  · exact .refl s
  split
  · exact updOdo_aside _ s
  · exact (updOdo_aside _ s).trans (loseBy_aside _ _)

theorem movePosition_aside (net : Int) (s : State) : Aside s (movePosition net s) := by
  unfold movePosition
  split
  · exact .refl s
  · simp only
    refine Aside.ite (Aside.trans ?_ (loseBy_aside _ _)) ?_ <;>
    · refine Aside.trans ?_ (growUncertainty_aside _ _ _)
      exact updOdo_aside _ s

theorem sampleDistances_aside (s : State) : Aside s (sampleDistances s) := by
  unfold sampleDistances
  exact updOdo_aside _ s

theorem sampleSpeeds_aside (s : State) : Aside s (sampleSpeeds s) := updOdo_aside _ s

theorem sampleCross_aside (s : State) : Aside s (sampleCross s) := by
  unfold sampleCross
  split
  · exact .refl s
  · simp only
    split
    · exact updOdo_aside _ s
    · exact (updOdo_aside _ s).trans (noticeIf_aside _ _ _)

theorem selectSource_aside (s : State) : Aside s (selectSource s) := by
  unfold selectSource
  simp only
  split
  · exact .refl s
  · exact updOdo_aside _ s

theorem sampleAwaited_aside (s : State) : Aside s (sampleAwaited s) := by
  have put : ∀ m, Aside s (updOdo (fun o => { o with awaited := m }) s) := fun m => updOdo_aside _ s
  unfold sampleAwaited
  simp only
  split
  · exact put none
  split
  · exact put _
  split
  · exact (put none).trans (notice_aside _ _)
  · exact .refl s

theorem sampleClear_aside (s : State) : Aside s (sampleClear s) := updOdo_aside _ s

theorem countPulse_aside (t : Tacho) (forward : Bool) (s : State) : Aside s (countPulse t forward s) := by
  cases t with
  | pinion => exact updOdo_aside (fun o => { o with pinionCount := _, pinionSeen := true }) s
  | axle => exact updOdo_aside (fun o => { o with axleCount := _, axleSeen := true }) s

/-! ### The radio, and what the zone and the tables leave -/

theorem count_aside (k : Counter) (s : State) : Aside s (count k s) := .of_radio (count_counted k s).keeps

theorem formCoverage_aside (s : State) : Aside s (formCoverage s) := .of_radio (formCoverage_formed s).2.2.1

theorem formZone_aside (s : State) : Aside s (formZone s) := .of_radio (formZone_formed s).2.1

theorem beginTransmission_aside (s : State) : Aside s (beginTransmission s) := by
  unfold beginTransmission
  split
  · split
    · split
      · exact .refl s
      · exact updRadio_aside _ s
    · exact .refl s
  · exact .refl s

theorem offerAck_aside (e : BulletinEntry) (s : State) : Aside s (offerAck e s) := by
  unfold offerAck
  split
  · split
    · exact (updRadio_aside _ s).trans (beginTransmission_aside _)
    · exact count_aside _ s
  · exact .refl s

theorem openWindow_aside (s : State) : Aside s (openWindow s) := by
  unfold openWindow
  split
  · exact (updRadio_aside _ s).trans (beginTransmission_aside _)
  · exact .refl s

theorem storeMessage_aside (m : Message) (s : State) : Aside s (storeMessage m s) :=
  .of_radio (storeMessage_stored m s).keeps

theorem handleBeacon_aside (h : FrameHeader) (b : List Byte) (s : State) : Aside s (handleBeacon h b s) := by
  unfold handleBeacon
  split
  · simp only
    split
    · have covered : ∀ f, Aside s (formCoverage (updRadio f (count .beacons s))) := fun f =>
        ((count_aside _ s).trans (updRadio_aside f _)).trans (formCoverage_aside _)
      split
      · exact (covered _).trans (openWindow_aside _)
      · exact covered _
    · exact count_aside _ s
  · exact .refl s

theorem putRestrictions_aside (l : List Restriction) (s : State) : Aside s (putRestrictions l s) := by
  refine Aside.trans ?_ (raiseIf_aside _ _ _)
  exact ⟨rfl, rfl, rfl, rfl, rfl, rfl, rfl, rfl, rfl, rfl, rfl, .refl _, ⟨rfl, rfl, rfl⟩⟩

theorem setRestriction_aside (k : Key) (start stop limit : Nat) (s : State) :
    Aside s (setRestriction k start stop limit s).1 := by
  unfold setRestriction
  split
  · exact .refl s
  · exact putRestrictions_aside _ s

theorem liftRestriction_aside (k : Key) (s : State) : Aside s (liftRestriction k s) := putRestrictions_aside _ s

theorem removeLifted_aside (s : State) : Aside s (removeLifted s) := putRestrictions_aside _ s

/-! ### Marks, the store and the test -/

theorem matchMark_aside (m : Nat) (s : State) : Aside s (matchMark m s) :=
  ((updOdo_aside _ s).trans (notice_aside _ _)).trans (formZone_aside _)

theorem unexpectedMark_aside (s : State) : Aside s (unexpectedMark s) := by
  unfold unexpectedMark
  simp only
  split
  · exact (updOdo_aside _ s).trans (loseBy_aside _ _)
  · exact (updOdo_aside _ s).trans (notice_aside _ _)

theorem detectMark_aside (s : State) : Aside s (detectMark s) := by
  unfold detectMark
  split
  · exact notice_aside _ s
  · have counted := (movePosition_aside (unappliedCount s.odo) s).trans
      (updOdo_aside (fun o => { o with applied := o.countOf o.source }) _)
    simp only
    split
    · exact counted.trans (matchMark_aside _ _)
    · exact counted.trans (unexpectedMark_aside _)
    · exact counted.trans (notice_aside _ _)

theorem endPage_aside (page : Nat) (s : State) : Aside s (endPage page s) := by
  have written := (memory_aside s (storePage page s).memory).trans
    (updStore_aside (fun x => { x with pagesWritten := x.pagesWritten + 1 }) _)
  unfold endPage
  simp only
  split
  · exact ((written.trans (updStore_aside _ _)).trans (updStore_aside _ _)).trans (raise_aside _ _)
  · exact written.trans (updStore_aside _ _)

theorem failPage_aside (page : Nat) (s : State) : Aside s (failPage page s) :=
  (memory_aside s _).trans ((updStore_aside _ _).trans (raise_aside _ _))

theorem abortTest_aside (c : AbortCause) (s : State) : Aside s (abortTest c s) := by
  have k := (abortTest_cascade c s)
  have mode : (abortTest c s).mode = s.mode := k.keeps .mode (by decide)
  have odo : (abortTest c s).odo = s.odo := k.keeps .odo (by decide)
  have store : (abortTest c s).store = s.store := k.keeps .store (by decide)
  have limits : (abortTest c s).limits = s.limits := k.keeps .limits (by decide)
  have sup : (abortTest c s).sup = s.sup := k.keeps .sup (by decide)
  have doors : (abortTest c s).doors = s.doors := k.keeps .doors (by decide)
  have test : TestCarried s.drive (abortTest c s).drive := by
    by_cases h : s.drive.source = .test
    · exact (abortTest_held c s h).carried h
    · rw [abortTest_untested c s h]
      exact .refl _
  exact ⟨mode, by rw [store], by rw [store], by rw [limits], by rw [limits], by rw [sup], abortTest_dem c s, doors,
    by rw [odo], by rw [odo], by rw [odo], test, k.drive.faults⟩

end Sys2Proof.Machine
end

section
/-!
What every command can do, said once for any property of the state: `RulesKeep` lists the acts of the request rules,
`EventsKeep` those of the frames, the expiries and the inputs besides, each with what its rule has tested before it; a
property that these keep is kept by every step (`EventsKeep.step`). What a rule does to none of the things that the
acts change is an `Aside`.
-/

namespace Sys2Proof.Machine

/-- The acts of the request rules keep a property (R1 to R12, R47 to R51, R62 to R73, R98 to R106, R122 to R126,
R142 to R147). -/
structure RulesKeep (P : State → Prop) : Prop where
  aside : ∀ {s t}, Aside s t → P s → P t
  taken : ∀ {p s}, Heeded p s → p ≠ .c → s.mode.holder = .none → P s → P (changeHolder (holderOf p) s)
  passed : ∀ {p s}, (∀ l, trainlineOf p = some l → (linkOf l s.mode).state = .up) → P s →
    P (passAuthority (holderOf p) s)
  turned : ∀ {d s}, s.mode.holder ≠ .none → P s → P (changeDirection d s)
  composed : ∀ {c s}, s.mode.mode = .shunt → P s → P (putComposition c s)
  selected : ∀ {m s}, s.mode.mode ≠ .loading → m ≠ .loading → (m = .line → lineCondition s = none) → P s →
    P (changeMode m s)
  restarted : ∀ {s}, P s → P (restartedState s)
  begun : ∀ {s}, s.mode.mode = .shunt → P s → P (beginTest s)
  permitted : ∀ {q s}, s.mode.mode = .line → q.direction = s.mode.direction → q.direction ≠ .none → P s →
    P (putPermit q s)
  unpermitted : ∀ {s}, P s → P (dropPermit s)
  serviceAsked : ∀ {p level s}, isHolder p s = true → P s →
    P (writeRows (s.dem.rows.updPort p fun r => { r with service := servicePart level }) s)
  emergencyAsked : ∀ {p e s}, P s → P (writeRows (s.dem.rows.updPort p fun r => { r with emergency := e }) s)
  holdEnded : ∀ {s}, P s → P (endHold s)
  unlatched : ∀ {s}, firstEmergency s.dem.rows = none → P s → P (clearLatch s)
  doorMoved : ∀ {d f s}, P s → P (updDoor d f s)
  doorsPut : ∀ {q left right s}, P s → P (putDoors q left right s)
  doorsPlaced : ∀ {s}, P s → P { s with doors := { s.doors with door := placeDoors s } }
  alarmAsked : ∀ {a s}, P s → P (setAlarm a s)
  stopsPut : ∀ {l s}, P s → P (putStops l s)

/-! ### The tests of a rule -/

theorem asHolder_keeps {P : State → Prop} {p : Port} {rule : Rule} {s : State} (hs : P s)
    (h : isHolder p s = true → P (rule s).1) : P (asHolder p rule s).1 := by
  unfold asHolder
  split
  · exact h ‹_›
  · exact hs

theorem asHolderOrPanel_keeps {P : State → Prop} {p : Port} {rule : Rule} {s : State} (hs : P s)
    (h : P (rule s).1) : P (asHolderOrPanel p rule s).1 := by
  unfold asHolderOrPanel
  split
  · exact h
  · exact hs

theorem refuseIf_keeps {P : State → Prop} {failed : State → Bool} {answer : Reply} {rule : Rule} {s : State}
    (hs : P s) (h : failed s = false → P (rule s).1) : P (refuseIf failed answer rule s).1 := by
  unfold refuseIf
  split
  · exact hs
  · rename_i passed
    exact h (by simpa using passed)

theorem editing_keeps {P : State → Prop} {rule : Rule} {s : State} (hs : P s) (h : P (rule s).1) :
    P (editing rule s).1 :=
  refuseIf_keeps hs fun _ => refuseIf_keeps hs fun _ => refuseIf_keeps hs fun _ => h

theorem notMode_eq_false {m : CarMode} {s : State} : notMode m s = false ↔ s.mode.mode = m := by simp [notMode]

theorem isHolder_ne_none {p : Port} {s : State} (h : isHolder p s = true) : s.mode.holder ≠ .none := by
  intro hn
  cases p <;> simp [isHolder, hn] at h

/-! ### The rules -/

namespace RulesKeep

variable {P : State → Prop} {p : Port} {args : List Byte} {s : State}

theorem raised (K : RulesKeep P) (e : Event) (h : P s) : P (raise e s) := K.aside (raise_aside e s) h

theorem withEventSet (K : RulesKeep P) (f : EventSet → PortRec → PortRec) (h : P s) : P (withEventSet p args f s).1 := by
  unfold Machine.withEventSet
  split
  · exact h
  · exact K.aside (updPort_aside p _ s) h

theorem takeAuthority (K : RulesKeep P) (hd : Heeded p s) (h : P s) : P (ruleTakeAuthority p s).1 := by
  unfold ruleTakeAuthority
  split
  · exact h
  split
  · exact K.taken hd ‹_› ‹_› h
  split
  · exact h
  split
  · exact h
  split
  · exact h
  · exact K.passed hd.up h

theorem releaseAuthority (K : RulesKeep P) (h : P s) : P (ruleReleaseAuthority p s).1 :=
  asHolder_keeps h fun _ => refuseIf_keeps h fun _ => K.passed (p := .c) (fun _ hl => by cases hl) h

theorem setDirection (K : RulesKeep P) (h : P s) : P (ruleSetDirection p args s).1 := by
  refine asHolder_keeps h fun hh => ?_
  split
  · exact h
  split
  · exact h
  · exact K.turned (isHolder_ne_none hh) h

theorem setComposition (K : RulesKeep P) (h : P s) : P (ruleSetComposition p args s).1 := by
  refine asHolder_keeps h fun _ => ?_
  split
  · exact h
  split
  · exact h
  split
  · exact h
  · exact K.composed (notMode_eq_false.mp (by simpa using ‹¬notMode .shunt s = true›)) h

theorem setPosition (K : RulesKeep P) (h : P s) : P (ruleSetPosition p args s).1 := by
  refine asHolder_keeps h fun _ => ?_
  have put : ∀ x u, Aside s (putPosition x u s) := fun x u =>
    ((updOdo_aside _ s).trans (notice_aside _ _)).trans (formZone_aside _)
  simp only
  split
  · exact h
  split
  · exact h
  · exact K.aside (put _ _) h

theorem selectMode (K : RulesKeep P) (hd : Heeded p s) (h : P s) : P (ruleSelectMode p args s).1 := by
  refine asHolder_keeps h fun _ => ?_
  have some : ∀ n m, modeArg n = some m → m ≠ .loading := by
    intro n m hm
    unfold modeArg at hm
    split at hm <;> cases hm <;> decide
  split
  · exact h
  rename_i m hm
  split
  · exact h
  split
  · exact h
  split
  · exact h
  split
  · split
    · exact h
    · exact K.selected (m := .line) hd.loaded (by decide) (fun _ => ‹_›) h
  · exact K.selected hd.loaded (some _ _ hm) (fun x => absurd x ‹_›) h

theorem restart (K : RulesKeep P) (h : P s) : P (ruleRestart p s).1 := by
  unfold ruleRestart
  split
  · exact K.restarted h
  split
  · exact h
  split
  · exact h
  · exact K.restarted h

theorem brakeDemand (K : RulesKeep P) (h : P s) : P (ruleBrakeDemand p args s).1 :=
  asHolder_keeps h fun hh => K.holdEnded (K.serviceAsked hh h)

theorem putEmergency (K : RulesKeep P) (e : Bool) (h : P s) : P (putEmergency p e s).1 := by
  unfold Machine.putEmergency
  split
  · exact h
  · exact K.raised _ (K.emergencyAsked h)

theorem emergencyReset (K : RulesKeep P) (h : P s) : P (ruleEmergencyReset p s).1 := by
  refine asHolder_keeps h fun _ => ?_
  split
  · exact h
  split
  · exact h
  split
  · exact h
  split
  · exact h
  · exact K.unlatched ‹_› h

theorem brakeTestStart (K : RulesKeep P) (h : P s) : P (ruleBrakeTestStart p s).1 :=
  asHolder_keeps h fun _ => refuseIf_keeps h fun hm => refuseIf_keeps h fun _ => refuseIf_keeps h fun _ =>
    refuseIf_keeps h fun _ => refuseIf_keeps h fun _ => K.begun (notMode_eq_false.mp hm) h

theorem brakeTestAbort (K : RulesKeep P) (h : P s) : P (ruleBrakeTestAbort p s).1 :=
  asHolder_keeps h fun _ => refuseIf_keeps h fun _ => K.aside (abortTest_aside .request s) h

theorem doorRelease (K : RulesKeep P) (h : P s) : P (ruleDoorRelease p args s).1 := by
  refine asHolder_keeps h fun _ => ?_
  split
  · split
    · exact h
    split
    · exact h
    · unfold tryRelease
      simp only
      split
      · exact K.doorsPut (K.doorsPlaced h)
      · exact K.doorsPlaced h
  · exact h

theorem doorClose (K : RulesKeep P) (h : P s) : P (ruleDoorClose p args s).1 := by
  refine asHolderOrPanel_keeps h ?_
  split
  · exact h
  · exact K.doorsPut h

theorem doorRetry (K : RulesKeep P) (h : P s) : P (ruleDoorRetry p args s).1 := by
  refine asHolderOrPanel_keeps h ?_
  split
  · exact h
  split
  · exact K.doorMoved h
  · exact h

theorem askAlarm (K : RulesKeep P) (a : AlarmState) (h : P s) : P (askAlarm a p s).1 :=
  asHolder_keeps h fun _ => refuseIf_keeps h fun _ => K.alarmAsked h

theorem restrictionAdd (K : RulesKeep P) (h : P s) : P (ruleRestrictionAdd p args s).1 := by
  refine asHolder_keeps h fun _ => ?_
  simp only
  split
  · exact K.aside (setRestriction_aside _ _ _ _ s) h
  · exact h

theorem restrictionLift (K : RulesKeep P) (h : P s) : P (ruleRestrictionLift p args s).1 := by
  refine asHolder_keeps h fun _ => ?_
  split
  · exact h
  · exact K.aside (liftRestriction_aside _ s) h

theorem permitEnter (K : RulesKeep P) (h : P s) : P (rulePermitEnter p args s).1 :=
  asHolder_keeps h fun _ => refuseIf_keeps h fun _ => refuseIf_keeps h fun hm => refuseIf_keeps h fun _ =>
    refuseIf_keeps h fun hd => refuseIf_keeps h fun _ =>
      K.permitted (notMode_eq_false.mp hm) rfl (by simpa using hd) h

theorem permitClear (K : RulesKeep P) (h : P s) : P (rulePermitClear p s).1 :=
  asHolder_keeps h fun _ => refuseIf_keeps h fun _ => K.unpermitted h

theorem radioStopOverride (K : RulesKeep P) (h : P s) : P (ruleRadioStopOverride p s).1 :=
  asHolder_keeps h fun _ => refuseIf_keeps h fun _ => refuseIf_keeps h fun _ => K.stopsPut h

theorem readTable (h : P s) : P (ruleReadTable p args s).1 := by
  unfold ruleReadTable
  split
  · exact h
  split
  · exact h
  · exact h

theorem inboxTake (K : RulesKeep P) (h : P s) : P (ruleInboxTake s).1 := by
  unfold ruleInboxTake
  split
  · exact h
  · exact K.aside (updRadio_aside _ s) h

theorem counterDecrement (K : RulesKeep P) (h : P s) : P (ruleCounterDecrement args s).1 := by
  unfold ruleCounterDecrement
  split
  · exact h
  · simp only
    exact K.aside (updRadio_aside _ s) h

theorem profileWrite (K : RulesKeep P) (h : P s) : P (ruleProfileWrite p args s).1 := by
  refine asHolder_keeps h fun _ => ?_
  have edited : ∀ i g, Aside s (edit (fun x => { x with segments := x.segments.set i g }) s) := fun i g =>
    (updStore_aside _ s).trans (raise_aside _ _)
  simp only
  split
  · exact h
  split
  · exact h
  · exact editing_keeps h (K.aside (edited _ _) h)

theorem parameterWrite (K : RulesKeep P) (h : P s) : P (ruleParameterWrite p args s).1 := by
  refine asHolder_keeps h fun _ => ?_
  have edited : ∀ q, Aside s (edit (fun x => { x with params := q }) s) := fun q =>
    (updStore_aside _ s).trans (raise_aside _ _)
  have cut : ∀ id t, Aside t (updOdo (fun o => if isGeometry id then { o with remainder := 0 } else o) t) := by
    intro id t
    cases isGeometry id
    · exact updOdo_aside (fun o => o) t
    · exact updOdo_aside (fun o => { o with remainder := 0 }) t
  simp only
  split
  · exact h
  split
  · exact h
  · exact editing_keeps h (K.aside ((edited _).trans (cut _ _)) h)

theorem profileCommit (K : RulesKeep P) (h : P s) : P (ruleProfileCommit p s).1 := by
  have begun : Aside s (beginCommit s) :=
    updStore_aside (fun x => { x with
      commit := .writing 1 .writeEnable, pagesWritten := 0, pagesAll := commitPages x.segments.length }) s
  exact asHolder_keeps h fun _ => refuseIf_keeps h fun _ => refuseIf_keeps h fun _ => refuseIf_keeps h fun _ =>
    refuseIf_keeps h fun _ => K.aside begun h

/-- Every rule keeps what the acts keep (R174). -/
theorem rule (K : RulesKeep P) {code : Byte} {n : Nat} {r : Rule} (hr : ruleOf code p args = some (n, r))
    (hd : Heeded p s) (h : P s) : P (r s).1 := by
  unfold ruleOf at hr
  split at hr <;> cases hr
  · exact h
  · exact readTable h
  · exact h
  · exact K.withEventSet _ h
  · exact K.withEventSet _ h
  · exact K.withEventSet _ h
  · exact K.takeAuthority hd h
  · exact K.releaseAuthority h
  · exact K.setDirection h
  · exact K.setComposition h
  · exact K.setPosition h
  · exact K.selectMode hd h
  · exact K.restart h
  · exact K.brakeDemand h
  · exact K.putEmergency true h
  · exact K.putEmergency false h
  · exact K.emergencyReset h
  · exact K.brakeTestStart h
  · exact K.brakeTestAbort h
  · exact K.doorRelease h
  · exact K.doorClose h
  · exact K.doorRetry h
  · exact K.askAlarm .confirmed h
  · exact K.askAlarm .overridden h
  · exact K.restrictionAdd h
  · exact K.restrictionLift h
  · exact K.permitEnter h
  · exact K.permitClear h
  · exact K.radioStopOverride h
  · exact K.inboxTake h
  · exact K.counterDecrement h
  · exact K.profileWrite h
  · exact K.parameterWrite h
  · exact K.profileCommit h

/-- A telegram keeps what its hearing and the acts of the rules keep. -/
theorem telegram (K : RulesKeep P) {code : Byte} (heard : P (completeTelegram p s)) : P (takeTelegram p code args s) :=
  takeTelegram_keeps heard (fun t => K.aside (updPort_aside _ _ t)) (fun r => K.aside (updPort_aside _ _ r.1))
    fun _ _ _ hr hd ht => K.rule hr hd ht

end RulesKeep

end Sys2Proof.Machine
end

section
/-!
What arrives besides the requests, said once for any property of the state (`EventsKeep`): the frames, the inputs, the
readings, the expiries and the passing of time; and with the rules every step (`EventsKeep.step`).
-/

namespace Sys2Proof.Machine

/-- The acts of the frames, the inputs and the expiries keep a property, besides those of the rules (R13 to R34, R41 to
R46, R75, R90, R103, R115 to R124, R132 to R141). -/
structure EventsKeep (P : State → Prop) : Prop extends RulesKeep P where
  heard : ∀ {p s}, P s → P (completeTelegram p s)
  powered : ∀ {i s}, P s → P (poweredState i s)
  timed : ∀ {s}, P s → P (advance s)
  loads : ∀ {s t}, s.store.loader ≠ .idle → t.store.loader ≠ .idle →
    Keeps [.mode, .odo, .limits, .sup, .dem, .drive, .doors] s t → P s → P t
  loadEnded : ∀ {r x s t}, s.store.loader ≠ .idle → LoadEnded r x s t → P s → P t
  silent : ∀ {l s}, P s → P (silenceOn l s)
  standstillBegun : ∀ {s}, P s → P (beginStandstill s)
  standstillEnded : ∀ {s}, P s → P (endStandstill s)
  rolledBack : ∀ {s}, P s → P (formOdometryRow (notice .rollback (updOdo (fun o => { o with rollback := true }) s)))
  pinionFailed : ∀ {s}, P s → P (setPinionFault s)
  supervised : ∀ {s}, P s → P (superviseOnce s)
  faulted : ∀ {slow fail s}, P s → P (setFaults slow fail s)
  met : ∀ {n k s}, s.drive.testStep = some k → P s → P (meetStep n s)
  ended : ∀ {r k s}, s.drive.testStep = some k → P s → P (endTest r s)
  handled : ∀ {q s}, P s → P { s with dem := { s.dem with handles := q } }

namespace EventsKeep

variable {P : State → Prop} {s : State}

/-! ### The frames -/

theorem applyBulletin (K : EventsKeep P) (k : BulletinKind) (f : FrameHeader) (b : List Byte) (h : P s) :
    P (applyBulletin k f b s).1 := by
  cases k with
  | restrictionSet =>
    show P (applyRestrictionSet f b s).1
    unfold applyRestrictionSet
    split
    · simp only
      split
      · exact K.aside (setRestriction_aside _ _ _ _ s) h
      · exact h
    · exact h
  | restrictionLift =>
    show P (applyRestrictionLift f b s).1
    unfold applyRestrictionLift
    split
    · exact K.aside (liftRestriction_aside _ s) h
    · exact h
  | permitGrant =>
    show P (applyPermitGrant f b s).1
    unfold applyPermitGrant
    split
    · simp only
      split
      · exact h
      · exact h
      rename_i dir some _
      split
      · exact h
      split
      · exact h
      rename_i line
      split
      · exact h
      rename_i same
      have granted : ∀ a t n e, P (putPermit ⟨a, t, n, e, dir⟩ s) := fun _ _ _ _ =>
        K.permitted (not_not.mp line) (not_not.mp same) (fun x => some x) h
      split <;> split
      · exact granted _ _ _ _
      · exact h
      · exact granted _ _ _ _
      · exact h
    · exact h
  | permitRevoke =>
    show P (applyPermitRevoke b s).1
    unfold applyPermitRevoke
    split
    · exact K.unpermitted h
    · exact h
  | stopOrder =>
    show P (applyStopOrder f b s).1
    unfold applyStopOrder
    simp only
    split
    · exact K.stopsPut h
    split
    · exact K.stopsPut h
    · exact h
  | stopRelease =>
    show P (applyStopRelease f b s).1
    unfold applyStopRelease
    split
    · exact K.stopsPut h
    · exact h
  | text =>
    show P (applyText f b s).1
    unfold applyText
    split
    · exact h
    split
    · split
      · exact K.aside (storeMessage_aside _ s) h
      · exact K.aside (count_aside _ s) h
    · exact h

theorem bulletin (K : EventsKeep P) (k : BulletinKind) (f : FrameHeader) (b : List Byte) (h : P s) :
    P (handleBulletin k f b s) := by
  unfold handleBulletin
  simp only
  split
  · exact K.aside (offerAck_aside _ _) (K.aside (count_aside _ s) h)
  · exact K.aside (offerAck_aside _ _)
      (K.aside (updRadio_aside _ _) (K.applyBulletin k f b (K.aside (count_aside _ s) h)))

/-- A frame keeps what the acts keep (R151, R152, R158 to R162). -/
theorem frame (K : EventsKeep P) (f : Frame) (h : P s) : P (receiveFrame f s) := by
  have counted : ∀ c, P (count c s) := fun c => K.aside (count_aside c s) h
  unfold receiveFrame
  split
  · exact h
  split
  · exact counted _
  split
  · exact counted _
  · exact counted _
  · unfold handleGood
    split
    · exact K.aside (handleBeacon_aside _ _ _) (counted _)
    split
    · exact K.bulletin _ _ _ (counted _)
    · exact counted _

theorem bytes (K : EventsKeep P) (b : List Byte) (h : P s) : P (receiveBytes b s) := by
  have counted : ∀ c, P (count c s) := fun c => K.aside (count_aside c s) h
  unfold receiveBytes
  split
  · exact h
  split
  · exact counted _
  split
  · exact K.frame _ h
  split
  · exact counted _
  · exact counted _

/-! ### The ports -/

theorem telegramTaken (K : EventsKeep P) (p : Port) (code : Byte) (args : List Byte) (h : P s) :
    P (takeTelegram p code args s) := K.telegram (K.heard h)

theorem port (K : EventsKeep P) (p : Port) (f : PortRec → PortRec) (h : P s) : P (updPort p f s) :=
  K.aside (updPort_aside p f s) h

theorem byte (K : EventsKeep P) (p : Port) (b : Byte) (h : P s) : P (receiveByte p b s) := by
  unfold receiveByte
  split
  · split
    · exact K.port p _ h
    · exact h
  · split
    · exact K.port p _ h
    · exact K.port p _ h
  · simp only
    split
    · exact K.port p _ h
    · unfold endTelegram
      split
      · split
        · exact K.telegramTaken _ _ _ h
        · exact K.port p _ h
      · exact K.port p _ h

/-! ### Motion -/

theorem sampleReverse (K : EventsKeep P) (h : P s) : P (sampleReverse s) := by
  have counted : ∀ (a : Odometry → Nat) b, P (updOdo (fun o => { o with reverse := a o, reverseCarry := b }) s) :=
    fun a b =>
    K.aside (updOdo_aside (fun o => { o with reverse := a o, reverseCarry := b }) s) h
  unfold Machine.sampleReverse
  simp only
  split
  · split
    · exact K.rolledBack (counted _ _)
    · exact counted _ _
  · exact h

theorem samplePinion (K : EventsKeep P) (h : P s) : P (samplePinion s) := by
  have timed : ∀ t, P (if t = Config.pinionFaultTime then
      setPinionFault (updOdo (fun o => { o with pinionFaultTime := t }) s)
      else updOdo (fun o => { o with pinionFaultTime := t }) s) := by
    intro t
    have k := K.aside (updOdo_aside (fun o => { o with pinionFaultTime := t }) s) h
    split
    · exact K.pinionFailed k
    · exact k
  unfold Machine.samplePinion
  split
  · exact h
  · exact timed _

theorem sampleQuiet (K : EventsKeep P) (h : P s) : P (sampleQuiet s) := by
  have quiet : ∀ (t : Odometry → Nat) (r : Odometry → Bool),
      P (updOdo (fun o => { o with quietTime := t o, quietRunning := r o }) s) := fun t r =>
    K.aside (updOdo_aside (fun o => { o with quietTime := t o, quietRunning := r o }) s) h
  have timed : ∀ t : Odometry → Nat, P (updOdo (fun o => { o with quietTime := t o }) s) := fun t =>
    quiet t fun o => o.quietRunning
  unfold Machine.sampleQuiet
  simp only
  split
  · split
    · split
      · exact K.standstillBegun (timed _)
      · exact timed _
    · split
      · exact h
      · exact quiet (fun _ => 0) fun _ => true
  · exact quiet (fun _ => 0) fun _ => false

theorem evaluated (K : EventsKeep P) (h : P s) : P (evaluateAlarm false s) := K.alarmAsked h

/-- A sampling expiry keeps what the acts keep (R19 to R33, R60, R103, R155). -/
theorem sampled (K : EventsKeep P) (h : P s) : P (sample s) := by
  refine K.evaluated (K.aside ((removeLifted_aside _).trans (formZone_aside _)) ?_)
  refine K.aside (sampleClear_aside _) (K.sampleQuiet (K.aside (sampleAwaited_aside _) (K.samplePinion ?_)))
  refine K.aside (selectSource_aside _) (K.sampleReverse (K.aside ?_ h))
  exact ((sampleDistances_aside s).trans (movePosition_aside _ _)).trans
    ((sampleSpeeds_aside _).trans (sampleCross_aside _))

theorem pulsed (K : EventsKeep P) (t : Tacho) (forward : Bool) (h : P s) :
    P (if (countPulse t forward s).odo.standstill then endStandstill (countPulse t forward s)
      else countPulse t forward s) := by
  have counted := K.aside (countPulse_aside t forward s) h
  split
  · exact K.standstillEnded counted
  · exact counted

/-! ### The brakes -/

theorem driven (K : EventsKeep P) (f : BrakeDrive → BrakeDrive) (h : P s)
    (source : (f s.drive).source = s.drive.source := by rfl)
    (step : (f s.drive).testStep = s.drive.testStep := by rfl)
    (record : (f s.drive).testRecord = s.drive.testRecord := by rfl)
    (slow : (f s.drive).serviceSlow = s.drive.serviceSlow := by rfl)
    (fail : (f s.drive).springFail = s.drive.springFail := by rfl)
    (state : (f s.drive).faultState = s.drive.faultState := by rfl) : P (updDrive f s) :=
  K.aside (updDrive_aside f s (.of_eq source step record) ⟨slow, fail, state⟩) h

theorem serviceRead (K : EventsKeep P) (v : Nat) (h : P s) : P (useServiceReading v s) := by
  have read := K.driven (fun d => { d with serviceReading := some v }) h
  unfold useServiceReading
  simp only
  split
  · split
    · exact K.met ‹_› read
    · exact read
  · exact K.driven (fun d => { d with serviceCheck := d.serviceCheck.judge v }) read

theorem stuckCleared (K : EventsKeep P) (v : Nat) (h : P s) : P (clearStuck v s) := by
  unfold clearStuck
  split
  · exact K.aside (raiseIf_aside _ _ _) (K.driven (fun d => { d with springStuck := false }) h)
  · exact h

theorem springFormed (K : EventsKeep P) (v : Nat) (h : P s) : P (formSpringStatus v s) :=
  K.aside (raiseIf_aside _ _ _)
    (K.driven (fun d => { d with springStatus := springStatusOf v s.drive.valve }) h)

theorem releaseRead (K : EventsKeep P) (v : Nat) (h : P s) : P (useReleaseReading v s) := by
  have read := K.driven (fun d => { d with releaseReading := some v }) h
  unfold useReleaseReading
  refine K.springFormed v (K.stuckCleared v ?_)
  split
  · split
    · exact K.met ‹_› read
    · exact read
  · exact K.driven (fun d => { d with springCheck := d.springCheck.judge v }) read

theorem springMissed (K : EventsKeep P) (h : P s) : P (missSpring s) :=
  K.driven (fun d => { d with springCheck := { d.springCheck with outcome := .missed } }) h

/-! ### The loader -/

theorem headerTaken (K : EventsKeep P) (b : List Byte) (hl : s.store.loader ≠ .idle) (h : P s) :
    P (takeHeader b s) := by
  unfold takeHeader
  split
  · exact K.loadEnded hl (endNoProfile_ended _ _ s.store s) h
  · simp only
    split
    · exact K.loadEnded hl (endNoProfile_ended _ _ _ s) h
    · exact K.loads hl (by simp [updStore]) (fun c hc => by cases c <;> first | rfl | exact absurd hc (by decide)) h

theorem segmentsBegun (K : EventsKeep P) (x : Store) (hl : s.store.loader ≠ .idle) (h : P s) :
    P (beginSegments { s with store := x }) := by
  unfold beginSegments
  simp only
  split
  · exact K.loadEnded hl (endNoSegments_ended _ _ _ s) h
  split
  · exact K.loadEnded hl (endNoSegments_ended _ _ _ s) h
  · exact K.loads hl (by simp [updStore]) (fun c hc => by cases c <;> first | rfl | exact absurd hc (by decide)) h

theorem paramsTaken (K : EventsKeep P) (b : List Byte) (hl : s.store.loader ≠ .idle) (h : P s) :
    P (takeParams b s) := by
  unfold takeParams
  split
  · exact K.segmentsBegun _ hl h
  · exact K.segmentsBegun _ hl h

theorem segmentsTaken (K : EventsKeep P) (b : List Byte) (hl : s.store.loader ≠ .idle) (h : P s) :
    P (takeSegments b s) := by
  unfold takeSegments
  simp only
  split
  · exact K.loadEnded hl (endNoSegments_ended _ _ s.store s) h
  split
  · exact K.loadEnded hl (endNoSegments_ended _ _ s.store s) h
  split
  · exact K.loadEnded hl (endNoSegments_ended _ _ s.store s) h
  · exact K.loadEnded hl (endLoad_ended _ _ s) h

/-! ### The commands and the steps -/

/-- The commands that are no telegram and no frame keep what the acts keep. -/
theorem event (K : EventsKeep P) {i : Instr} (ht : telegramOf i = none) (hf : frameOf i = none) (h : P s) :
    ∃ t, exec i s = .next t ∧ P t := by
  cases i <;> first | (cases ht; done) | (cases hf; done) | refine ⟨_, rfl, ?_⟩
  case powerOn => exact K.powered h
  case telegramCrcError => exact K.port _ _ h
  case framingError => exact K.port _ _ h
  case gapTimeExpiry => exact K.port _ _ h
  case answerSent => exact K.port _ _ h
  case linkSilenceExpiry => exact K.silent h
  case tachometerPulse => exact K.pulsed _ _ h
  case samplingExpiry => exact K.sampled h
  case standstillBegin =>
    split
    · exact K.standstillBegun h
    · exact h
  case pinionFault =>
    split
    · exact K.pinionFailed (K.aside (updOdo_aside (fun o => { o with pinionFaultTime := Config.pinionFaultTime }) s) h)
    · exact h
  case trackMarkDetection => exact K.aside (detectMark_aside s) h
  case supervisionCycle => exact K.supervised h
  case periodStart => exact K.driven (fun d => { d with activeDuty := d.duty, periodTimer := 0 }) h
  case servicePressureReading => exact K.serviceRead _ h
  case releasePressureReading => exact K.releaseRead _ h
  case serviceCheckTimerExpiry =>
    split
    · exact K.faulted (K.driven (fun d => { d with serviceCheck := { d.serviceCheck with outcome := .missed } }) h)
    · exact h
  case releaseCheckTimerExpiry =>
    split
    · exact K.aside (raiseIf_aside _ _ _) (K.driven (fun d => { d with springStuck := true }) (K.springMissed h))
    · exact h
  case applyCheckTimerExpiry =>
    split
    · exact K.faulted (K.springMissed h)
    · exact h
  case brakeTestStepTimerExpiry =>
    split
    · split
      · exact K.ended ‹_› h
      · exact h
    · exact h
  case doorTimerExpiry => exact K.doorMoved h
  case doorLockedInput => exact K.doorMoved (K.aside (raiseIf_aside _ _ _) h)
  case doorClosedInput => exact K.doorMoved (K.aside (raiseIf_aside _ _ _) h)
  case doorOpenLimitInput => exact K.doorMoved h
  case doorObstacleInput => exact K.doorMoved h
  case passengerButton => exact K.doorMoved h
  case isolationSwitch => exact K.doorMoved h
  case handleChange =>
    split
    · exact h
    · exact K.evaluated (K.raised .alarm (K.handled h))
  case discardedFrame =>
    split
    · exact h
    · exact K.bytes _ h
  case transmissionEnd =>
    split
    · exact K.aside ((updRadio_aside _ s).trans (beginTransmission_aside _)) h
    · exact h
  case windowTimerExpiry =>
    split
    · exact K.aside (updRadio_aside _ s) h
    · exact h
  case silenceTimerTick =>
    split
    · exact K.aside ((updRadio_aside _ s).trans (formCoverage_aside _)) h
    · exact h
  case reportTimerExpiry =>
    split
    · exact K.aside ((updRadio_aside _ s).trans (beginTransmission_aside _)) h
    · exact h
  case loaderStatusAnswer =>
    split
    · rename_i polled
      refine K.loads (fun hl => ?_) (by simp [updStore])
        (fun c hc => by cases c <;> first | rfl | exact absurd hc (by decide)) h
      simp [polling, hl] at polled
    · exact h
  case loaderBusyTimeout =>
    split
    · rename_i up
      refine K.loadEnded (fun hl => ?_) (endNoProfile_ended _ _ s.store s) h
      rw [hl] at up
      cases up
    · exact h
  case headerReadEnd =>
    split
    · rename_i read
      exact K.headerTaken _ (by rw [read.1]; decide) h
    · exact h
  case parameterBlockReadEnd =>
    split
    · rename_i read
      exact K.paramsTaken _ (by rw [read.1]; decide) h
    · exact h
  case segmentBlockReadEnd =>
    split
    · rename_i read
      exact K.segmentsTaken _ (by rw [read.1]; decide) h
    · exact h
  case commitStatusAnswer =>
    split
    · split
      · exact h
      · exact K.aside (endPage_aside _ s) h
    · exact h
  case pageTimerExpiry =>
    split
    · split
      · exact K.aside (failPage_aside _ s) h
      · exact h
    · exact h
  case telegramByteArrival => exact K.byte _ _ h
  case commitTransferEnd =>
    have moved : ∀ c, P (updStore (fun x => { x with commit := c }) s) := fun c => K.aside (updStore_aside _ s) h
    split
    · exact moved _
    · exact moved _
    · exact h

/-- Every step keeps what the acts keep. -/
theorem step (K : EventsKeep P) {t : State} (h : P s) (hs : step s = .next t) : P t :=
  step_keeps (fun _ hu => K.aside (pending_aside _ _) (K.timed hu)) (fun u q hu => K.aside (pending_aside u q) hu)
    (fun _ _ _ hu he => exec_keeps (fun p code args _ => K.telegramTaken p code args) (fun f _ => K.frame f)
      (fun _ _ _ ht hf hv hx => by
        obtain ⟨w, e, hw⟩ := K.event ht hf hv
        rw [e] at hx
        cases hx
        exact hw) hu he) h hs

end EventsKeep

end Sys2Proof.Machine
end

section
/-!
The mode, the direction and the permit stay consistent in every step (R1, R3, R6, R65). `ModeKept` names what an act
leaves that touches none of what `ModeFollows` speaks of but a brake test that it may end; the acts that change the
mode, the holder, the direction, the permit, the record or the load are taken one by one.
-/

namespace Sys2Proof.Machine

/-! ### Acts that leave the mode -/

/-- The mode block, the load and the permit as they were, and the brake test carried on or ended. -/
structure ModeKept (s t : State) : Prop where
  mode : t.mode = s.mode
  loader : t.store.loader = s.store.loader
  result : t.store.result = s.store.result
  permit : t.limits.permit = s.limits.permit
  test : TestCarried s.drive t.drive

theorem ModeKept.refl (s : State) : ModeKept s s := ⟨rfl, rfl, rfl, rfl, .refl _⟩

theorem ModeKept.trans {s t u : State} (h : ModeKept s t) (k : ModeKept t u) : ModeKept s u :=
  ⟨k.mode.trans h.mode, k.loader.trans h.loader, k.result.trans h.result, k.permit.trans h.permit, h.test.trans k.test⟩

theorem Aside.modeKept {s t : State} (h : Aside s t) : ModeKept s t := ⟨h.mode, h.loader, h.result, h.permit, h.test⟩

theorem ModeKept.same {s t : State} (hm : t.mode = s.mode := by rfl) (hs : t.store = s.store := by rfl)
    (hp : t.limits.permit = s.limits.permit := by rfl) (hd : t.drive = s.drive := by rfl) : ModeKept s t :=
  ⟨hm, by rw [hs], by rw [hs], hp, hd ▸ .refl _⟩

theorem ModeKept.ite {c : Prop} [Decidable c] {s t u : State} (h : ModeKept s t) (k : ModeKept s u) :
    ModeKept s (if c then t else u) := by
  split
  · exact h
  · exact k

/-- What keeps the far blocks and carries the test keeps the mode. -/
theorem Cascade.modeKept {s t : State} (h : Cascade s t) (test : TestCarried s.drive t.drive) : ModeKept s t := by
  have mode : t.mode = s.mode := h.keeps .mode (by decide)
  have store : t.store = s.store := h.keeps .store (by decide)
  have limits : t.limits = s.limits := h.keeps .limits (by decide)
  exact ⟨mode, by rw [store], by rw [store], by rw [limits], test⟩

theorem raise_modeKept (e : Event) (s : State) : ModeKept s (raise e s) := (raise_aside e s).modeKept

theorem raiseIf_modeKept (c : Bool) (e : Event) (s : State) : ModeKept s (raiseIf c e s) :=
  (raiseIf_aside c e s).modeKept

/-- A writing of the rows leaves the mode (R96, R125). -/
theorem writeRows_modeKept (new : Rows) (s : State) : ModeKept s (writeRows new s) := by
  have w := writeRows_written new s
  have mode : (writeRows new s).mode = s.mode := w.keeps .mode (by decide)
  have store : (writeRows new s).store = s.store := w.keeps .store (by decide)
  have limits : (writeRows new s).limits = s.limits := w.keeps .limits (by decide)
  exact ⟨mode, by rw [store], by rw [store], by rw [limits], w.follow.outputs.carried⟩

theorem refreshDriven_modeKept (s : State) : ModeKept s (refreshDriven s) :=
  (refreshDriven_cascade s).modeKept (refreshDriven_outputs s).carried

theorem applyMapping_modeKept (s : State) : ModeKept s (applyMapping s) := by
  obtain ⟨hs, ht, hr⟩ := (applyMapping_followed s).test
  exact (applyMapping_cascade s).modeKept (.of_eq hs ht hr)

theorem takeMapping_modeKept (s : State) : ModeKept s (takeMapping s) :=
  (takeMapping_cascade s).modeKept (takeMapping_taken s).carried

theorem endHold_modeKept (s : State) : ModeKept s (endHold s) := .ite (takeMapping_modeKept s) (.refl s)

theorem clearLatch_modeKept (s : State) : ModeKept s (clearLatch s) :=
  .trans (.trans .same (raise_modeKept _ _)) (refreshDriven_modeKept _)

theorem setFaults_modeKept (slow fail : Bool) (s : State) : ModeKept s (setFaults slow fail s) := by
  refine .ite (.refl s) (.trans (.trans ?_ (raise_modeKept _ _)) (writeRows_modeKept _ _))
  exact ⟨rfl, rfl, rfl, rfl, .of_eq rfl rfl rfl⟩

theorem setAlarm_modeKept (a : AlarmState) (s : State) : ModeKept s (setAlarm a s) :=
  .trans (.trans .same (raiseIf_modeKept _ _ _)) (writeRows_modeKept _ _)

theorem putLevel_modeKept (l : Level) (s : State) : ModeKept s (putLevel l s) :=
  .trans (.trans .same (raiseIf_modeKept _ _ _)) (writeRows_modeKept _ _)

theorem superviseOnce_modeKept (s : State) : ModeKept s (superviseOnce s) := .trans .same (putLevel_modeKept _ _)

theorem putStops_modeKept (l : List StopKind) (s : State) : ModeKept s (putStops l s) :=
  .trans (.trans .same (raiseIf_modeKept _ _ _)) (writeRows_modeKept _ _)

/-! ### The doors and standstill -/

theorem formDoorsRow_modeKept (s : State) : ModeKept s (formDoorsRow s) :=
  .trans (.trans .same (raiseIf_modeKept _ _ _)) (writeRows_modeKept _ _)

theorem updDoor_modeKept (d : DoorId) (f : Door → Door) (s : State) : ModeKept s (updDoor d f s) :=
  .trans (.trans (.trans .same (raiseIf_modeKept _ _ _)) (raiseIf_modeKept _ _ _)) (formDoorsRow_modeKept _)

theorem putDoors_modeKept (new : Quad Door) (left right : Bool) (s : State) : ModeKept s (putDoors new left right s) :=
  .trans (.trans .same (raiseIf_modeKept _ _ _)) (formDoorsRow_modeKept _)

theorem formStandstillRows_modeKept (begins : Bool) (s : State) : ModeKept s (formStandstillRows begins s) := by
  have rows : ModeKept s (formOdometryRow (evaluateAlarm begins (formLinkRow (formRadioRow (formDoorsRow s))))) :=
    .trans (.trans (.trans (.trans (formDoorsRow_modeKept s) (writeRows_modeKept _ _)) (writeRows_modeKept _ _))
      (setAlarm_modeKept _ _)) (writeRows_modeKept _ _)
  exact .ite (rows.trans (applyMapping_modeKept _)) rows

theorem beginStandstill_modeKept (s : State) : ModeKept s (beginStandstill s) :=
  .trans (.trans .same (notice_aside _ _).modeKept) (formStandstillRows_modeKept _ _)

theorem endStandstill_modeKept (s : State) : ModeKept s (endStandstill s) :=
  .trans (.trans (.trans (.trans (.trans .same (notice_aside _ _).modeKept) (abortTest_aside _ _).modeKept)
    (formDoorsRow_modeKept _)) (putDoors_modeKept _ _ _ _)) (formStandstillRows_modeKept _ _)

theorem formOdometryRow_modeKept (s : State) : ModeKept s (formOdometryRow s) := writeRows_modeKept _ s

theorem setPinionFault_modeKept (s : State) : ModeKept s (setPinionFault s) :=
  .trans (.trans .same (notice_aside _ _).modeKept) (formOdometryRow_modeKept _)

/-! ### The invariant under what leaves the mode -/

/-- The invariant reads neither link. -/
theorem ModeFollows.relinked {s t : State} (h : ModeFollows s)
    (mode : t.mode = { s.mode with linkA := t.mode.linkA, linkB := t.mode.linkB })
    (loader : t.store.loader = s.store.loader) (result : t.store.result = s.store.result)
    (permit : t.limits.permit = s.limits.permit) (test : TestCarried s.drive t.drive) : ModeFollows t := by
  have same : t.mode.mode = s.mode.mode ∧ t.mode.holder = s.mode.holder ∧ t.mode.direction = s.mode.direction ∧
      t.mode.composition = s.mode.composition := by
    rw [mode]
    exact ⟨rfl, rfl, rfl, rfl⟩
  obtain ⟨sm, sh, sd, sc⟩ := same
  refine ⟨by rw [sm, loader]; exact h.loading, fun hl => ?_, fun ht => ?_, test.stepped h.step,
    by rw [sh, sd]; exact h.direction, by rw [permit, sm, sd]; exact h.permit⟩
  · rw [sm] at hl
    obtain ⟨hc, hr, hp⟩ := h.line hl
    have idle : s.drive.source ≠ .test := fun x => h.test x hp
    exact ⟨by rw [sc]; exact hc, by rw [result]; exact hr, (test.record idle).trans hp⟩
  · obtain ⟨ran, record⟩ := test.running ht
    rw [record]
    exact h.test ran

theorem ModeFollows.of_kept {s t : State} (h : ModeFollows s) (k : ModeKept s t) : ModeFollows t :=
  h.relinked (by rw [k.mode]) k.loader k.result k.permit k.test

/-- While the load goes on nothing but its going on is asked of the store. -/
theorem ModeFollows.loads {s t : State} (h : ModeFollows s) (hl : s.store.loader ≠ .idle)
    (hm : t.mode = s.mode) (ht : t.store.loader ≠ .idle) (hp : t.limits = s.limits) (hd : t.drive = s.drive) :
    ModeFollows t := by
  have loading := h.loading.mpr hl
  refine ⟨⟨fun _ => ht, fun _ => by rw [hm]; exact loading⟩, fun x => ?_, by rw [hd]; exact h.test,
    by rw [hd]; exact h.step, by rw [hm]; exact h.direction, by rw [hm, hp]; exact h.permit⟩
  rw [hm, loading] at x
  cases x

/-- The end of a load leaves LOADING for SHUNT, with no permit there (R1). -/
theorem ModeFollows.loadEnded {s t : State} {r : LoadResult} {x : Store} (h : ModeFollows s)
    (hl : s.store.loader ≠ .idle) (e : LoadEnded r x s t) : ModeFollows t := by
  have loading := h.loading.mpr hl
  have limits : t.limits = s.limits := e.keeps .limits (by decide)
  have drive : t.drive = s.drive := e.keeps .drive (by decide)
  have idle : t.store.loader = .idle := by rw [e.store]
  refine ⟨?_, fun x => ?_, by rw [drive]; exact h.test, by rw [drive]; exact h.step, by rw [e.mode]; exact h.direction,
    fun p hp => ?_⟩
  · rw [idle, e.mode]
    simp
  · rw [e.mode] at x
    cases x
  · rw [limits] at hp
    obtain ⟨line, _⟩ := h.permit p hp
    rw [loading] at line
    cases line

/-! ### Telegrams and links -/

theorem completeTelegram_carried (p : Port) (s : State) : TestCarried s.drive (completeTelegram p s).drive := by
  have hh := completeTelegram_heard p s
  by_cases hup : ∀ l, trainlineOf p = some l → (linkOf l s.mode).state = .up
  · rw [(hh.quiet hup).2.1]
    exact .refl _
  · push Not at hup
    obtain ⟨l, hl, hn⟩ := hup
    exact (hh.follow l hl hn).outputs.carried

theorem ModeFollows.complete {s : State} (h : ModeFollows s) (p : Port) : ModeFollows (completeTelegram p s) :=
  h.relinked (completeTelegram_heard p s).modeKeeps (by simp) (by simp) (by simp) (completeTelegram_carried p s)

theorem ModeFollows.silence {s : State} (h : ModeFollows s) (l : LinkPort) : ModeFollows (silenceOn l s) := by
  have lost : ModeFollows (putLink l ⟨.lost, none⟩ s) :=
    h.relinked (by cases l <;> rfl) (by simp) (by simp) (by simp) (by rw [putLink_drive]; exact .refl _)
  unfold silenceOn
  split
  · exact (lost.of_kept (raise_modeKept _ _)).of_kept (writeRows_modeKept _ _)
  · exact h

/-! ### Authority, direction, permit and mode -/

/-- A direction, a holder and a permit that go together. -/
theorem ModeFollows.redirected {s t : State} {d : Direction} {g : Holder} (h : ModeFollows s)
    (mode : t.mode = { s.mode with holder := g, direction := d }) (hd : g = .none → d = .none)
    (store : t.store = s.store) (test : TestCarried s.drive t.drive)
    (permit : ∀ p, t.limits.permit = some p → s.limits.permit = some p ∧ p.direction = d) : ModeFollows t := by
  have kept : ModeFollows { t with mode := s.mode, limits := s.limits } :=
    h.relinked rfl (by rw [store]) (by rw [store]) rfl test
  refine ⟨?_, ?_, kept.test, kept.step, by rw [mode]; exact hd, fun p hp => ?_⟩
  · rw [mode]; exact kept.loading
  · rw [mode]; exact kept.line
  · obtain ⟨was, dir⟩ := permit p hp
    obtain ⟨line, _, some⟩ := h.permit p was
    rw [mode]
    exact ⟨line, dir, some⟩

/-- Authority taken while nobody has it (R6). -/
theorem ModeFollows.taken {s : State} (h : ModeFollows s) (g : Holder) (hn : s.mode.holder = .none) :
    ModeFollows (changeHolder g s) := by
  refine h.redirected (d := s.mode.direction) (g := g) rfl (fun _ => h.direction hn) rfl (.refl _) fun p hp => ?_
  exact ⟨hp, (h.permit p hp).2.1.symm ▸ rfl⟩

/-- Authority passed (R7 to R10). -/
theorem ModeFollows.passed {s : State} (h : ModeFollows s) (heir : Holder) : ModeFollows (passAuthority heir s) := by
  obtain ⟨a, keeps, _⟩ := passAuthority_passed heir s
  refine h.redirected a.mode (fun _ => rfl) (keeps .store (by decide)) a.rows.outputs.carried fun p hp => ?_
  rw [a.limits] at hp
  by_cases hd : s.mode.direction = .none
  · simp only [hd, if_true] at hp
    exact ⟨hp, (h.permit p hp).2.1.trans hd⟩
  · simp only [hd, if_false, Option.filter_eq_some_iff, decide_eq_true_eq] at hp
    exact hp

/-- The direction changed by a holder (R10). -/
theorem ModeFollows.turned {s : State} (h : ModeFollows s) (d : Direction) (hh : s.mode.holder ≠ .none) :
    ModeFollows (changeDirection d s) := by
  have c := changeDirection_changed d s
  have drive : (changeDirection d s).drive = s.drive := c.keeps .drive (by decide)
  refine h.redirected c.mode (fun x => absurd x hh) (c.keeps .store (by decide)) (drive ▸ .refl _) fun p hp => ?_
  rw [c.limits] at hp
  by_cases hd : d = s.mode.direction
  · simp only [hd, if_true] at hp
    exact ⟨hp, (h.permit p hp).2.1.trans hd.symm⟩
  · simp only [hd, if_false, Option.filter_eq_some_iff, decide_eq_true_eq] at hp
    exact hp

theorem dropPermit_limits (s : State) : (dropPermit s).limits = { s.limits with permit := none } := by
  unfold dropPermit
  split
  · rfl
  · rename_i absent
    rw [Option.not_isSome_iff_eq_none] at absent
    rw [← absent]

/-- What a permit made absent leaves (R65). -/
theorem dropPermit_keeps (s : State) :
    Keeps [.mode, .odo, .store, .sup, .dem, .drive, .doors, .radio, .memory, .pending] s (dropPermit s) ∧
    PortsKeep [.permit] none s (dropPermit s) ∧ (s.limits.permit ≠ none → raisedAll .permit (dropPermit s)) := by
  unfold dropPermit
  split
  · exact ⟨fun b hb => by cases b <;> first | rfl | exact absurd hb (by decide), .raise_of .permit rfl (by decide),
      fun _ => raisedAll_raise _ _⟩
  · rename_i absent
    exact ⟨.refl _ s, .refl _ _ s, fun h => absurd (Option.not_isSome_iff_eq_none.mp absent) h⟩

theorem ModeFollows.unpermitted {s : State} (h : ModeFollows s) : ModeFollows (dropPermit s) := by
  obtain ⟨keeps, _, _⟩ := dropPermit_keeps s
  have mode : (dropPermit s).mode = s.mode := keeps .mode (by decide)
  have drive : (dropPermit s).drive = s.drive := keeps .drive (by decide)
  refine h.redirected (g := s.mode.holder) (d := s.mode.direction) mode h.direction (keeps .store (by decide))
    (drive ▸ .refl _) fun p hp => ?_
  rw [dropPermit_limits] at hp
  cases hp

/-- A permit in LINE and in the selected direction (R66, R69). -/
theorem ModeFollows.permitted {s : State} (h : ModeFollows s) (p : Permit) (hl : s.mode.mode = .line)
    (hd : p.direction = s.mode.direction) (hn : p.direction ≠ .none) : ModeFollows (putPermit p s) := by
  refine ⟨h.loading, h.line, h.test, h.step, h.direction, fun q hq => ?_⟩
  cases hq
  exact ⟨hl, hd, hn⟩

/-- The mode selected once the load is over; LINE with what LINE needs (R2 to R4). -/
theorem ModeFollows.selected {s : State} (h : ModeFollows s) (m : CarMode) (hs : s.mode.mode ≠ .loading)
    (hm : m ≠ .loading) (hl : m = .line → lineCondition s = none) : ModeFollows (changeMode m s) := by
  have idle : s.store.loader = .idle := by
    by_contra x
    exact hs (h.loading.mpr x)
  let u := raise .mode { s with mode := { s.mode with mode := m } }
  cases m with
  | loading => exact absurd rfl hm
  | line =>
    have conditions := hl rfl
    unfold lineCondition at conditions
    split_ifs at conditions with c1 c2 c3 c4 c5
    push Not at c1 c3 c4
    refine ⟨iff_of_false (by simp [changeMode]) (fun x => x idle), fun _ => ⟨?_, c1, c4⟩, h.test, h.step, h.direction,
      fun p hp => ⟨rfl, (h.permit p hp).2⟩⟩
    exact Option.isSome_iff_ne_none.mpr c3
  | shunt =>
    have e : changeMode .shunt s = dropPermit u := rfl
    obtain ⟨keeps, _, _⟩ := dropPermit_keeps u
    have mode : (dropPermit u).mode = { s.mode with mode := .shunt } := keeps .mode (by decide)
    have store : (dropPermit u).store = s.store := keeps .store (by decide)
    have drive : (dropPermit u).drive = s.drive := keeps .drive (by decide)
    rw [e]
    refine ⟨?_, fun x => ?_, by rw [drive]; exact h.test, by rw [drive]; exact h.step, by rw [mode]; exact h.direction,
      fun p hp => ?_⟩
    · rw [mode, store, idle]
      simp
    · rw [mode] at x
      cases x
    · rw [dropPermit_limits] at hp
      cases hp

/-- The record of a brake test written while no test runs and no car is in LINE; and so with a composition (R11). -/
theorem ModeFollows.composed {s : State} (h : ModeFollows s) (c : Composition) (hm : s.mode.mode = .shunt) :
    ModeFollows (putComposition c s) := by
  let u := updRadio (radioComposed c.role s.store.params.reportInterval)
    (raise .mode { s with mode := { s.mode with composition := some c } })
  have hu : ModeFollows u :=
    ⟨h.loading, fun x => absurd (hm.symm.trans x) (by decide), h.test, h.step, h.direction, h.permit⟩
  have e : putComposition c s = if s.drive.source = .test then abortTest .composition u
      else raise .brakeTest { u with drive := { u.drive with testRecord := .notRun false } } := rfl
  rw [e]
  split
  · exact hu.of_kept (abortTest_aside _ _).modeKept
  · rename_i idle
    exact ⟨hu.loading, fun x => absurd (hm.symm.trans x) (by decide), fun x => absurd x idle, hu.step, hu.direction,
      hu.permit⟩

/-! ### The brake test -/

/-- A drive under a test with its record not passed, in a state that is otherwise as it was. -/
theorem ModeFollows.tested {s t : State} (h : ModeFollows s) (hm : t.mode = s.mode) (hs : t.store = s.store)
    (hl : t.limits = s.limits) (line : s.mode.mode ≠ .line)
    (test : t.drive.source = .test → t.drive.testRecord ≠ .passed)
    (step : t.drive.testStep.isSome = true → t.drive.source = .test) : ModeFollows t :=
  ⟨by rw [hm, hs]; exact h.loading, fun x => absurd (hm ▸ x) line, test, step, by rw [hm]; exact h.direction,
    by rw [hm, hl]; exact h.permit⟩

/-- No car is in LINE while a test runs. -/
theorem ModeFollows.test_not_line {s : State} (h : ModeFollows s) (ht : s.drive.source = .test) : s.mode.mode ≠ .line :=
  fun hl => h.test ht (h.line hl).2.2

theorem beginStep_test (n : Nat) (s : State) : (beginStep n s).mode = s.mode ∧ (beginStep n s).store = s.store ∧
    (beginStep n s).limits = s.limits ∧ (beginStep n s).drive.source = s.drive.source ∧
    (beginStep n s).drive.testRecord = s.drive.testRecord := by
  have valve : ∀ (v : Valve) (d : BrakeDrive), (d.atValve v).source = d.source ∧
      (d.atValve v).testRecord = d.testRecord := by
    intro v d
    unfold BrakeDrive.atValve
    split <;> exact ⟨rfl, rfl⟩
  obtain ⟨source, record⟩ := valve (stepOutputs n).2 (s.drive.form s.store.params (stepOutputs n).1)
  refine ⟨by simp [beginStep], by simp [beginStep], by simp [beginStep], ?_, ?_⟩ <;>
    simp only [beginStep, raise_drive, withDrive_drive]
  · exact source
  · exact record

theorem ModeFollows.stepped {s : State} (h : ModeFollows s) (n : Nat) (ht : s.drive.source = .test) :
    ModeFollows (beginStep n s) := by
  obtain ⟨mode, store, limits, source, record⟩ := beginStep_test n s
  exact h.tested mode store limits (h.test_not_line ht) (fun _ => record ▸ h.test ht) fun _ => source.trans ht

/-- A test that ends leaves the mapping, whatever its record (R124, R127). -/
theorem ModeFollows.ended {s : State} (h : ModeFollows s) (r : TestRecord) (ht : s.drive.source = .test) :
    ModeFollows (endTest r s) := by
  obtain ⟨keeps, _, _⟩ := endTest_keeps r s
  obtain ⟨source, step, _⟩ := (endTest_ended r s).drive.test
  refine h.tested (keeps .mode (by decide)) (keeps .store (by decide)) (keeps .limits (by decide)) (h.test_not_line ht)
    (fun x => ?_) fun x => ?_
  · rw [source] at x
    cases x
  · rw [step] at x
    cases x

theorem ModeFollows.met {s : State} (h : ModeFollows s) (n : Nat) (ht : s.drive.source = .test) :
    ModeFollows (meetStep n s) := by
  unfold meetStep
  split
  · exact h.stepped _ ht
  · exact h.ended _ ht

/-- A test begun in SHUNT (R122). -/
theorem ModeFollows.begun {s : State} (h : ModeFollows s) (hm : s.mode.mode = .shunt) : ModeFollows (beginTest s) := by
  let u : State := { writeRecord (.notRun false) s with drive := { (writeRecord (.notRun false) s).drive with
    source := .test, serviceCheck := (writeRecord (.notRun false) s).drive.serviceCheck.dropped,
    springCheck := (writeRecord (.notRun false) s).drive.springCheck.dropped } }
  have hu : ModeFollows u := h.tested (by simp [u, writeRecord]) (by simp [u, writeRecord]) (by simp [u, writeRecord])
    (by rw [hm]; decide) (fun _ => by simp [u, writeRecord]) fun _ => rfl
  exact hu.stepped 1 rfl

/-! ### The resets and the passing of time -/

/-- After a reset the part loads, without holder, direction, permit or test (R1, R15). -/
theorem freshState_mode (i : CarInputs) : ModeFollows (freshState i) where
  loading := iff_of_true rfl (fun h => by cases h)
  line h := by cases h
  test h := by cases h
  step h := by cases h
  direction _ := rfl
  permit p h := by cases h

theorem BrakeDrive.tick_carried (d : BrakeDrive) : TestCarried d d.tick :=
  ⟨fun h => ⟨h, rfl⟩, fun _ => rfl, fun h k => h (by simpa [BrakeDrive.tick] using k)⟩

theorem LoaderOp.tick_idle (l : LoaderOp) : l.tick = .idle ↔ l = .idle := by cases l <;> simp [LoaderOp.tick]

theorem ModeFollows.timed {s : State} (h : ModeFollows s) : ModeFollows (advance s) := by
  let u : State := { advance s with store := s.store }
  have hu : ModeFollows u := h.relinked rfl rfl rfl rfl (BrakeDrive.tick_carried _)
  refine ⟨?_, hu.line, hu.test, hu.step, hu.direction, hu.permit⟩
  exact hu.loading.trans (not_congr (LoaderOp.tick_idle s.store.loader)).symm

/-! ### Every step -/

/-- The acts of every command keep the mode, the direction and the permit consistent. -/
theorem modeFollows_keeps : EventsKeep ModeFollows where
  aside k h := h.of_kept k.modeKept
  taken _ _ hn h := h.taken _ hn
  passed _ h := h.passed _
  turned hh h := h.turned _ hh
  composed hm h := h.composed _ hm
  selected hs hm hl h := h.selected _ hs hm hl
  restarted {s} _ := (freshState_mode (inputsNow s)).relinked rfl rfl rfl rfl (.refl _)
  begun hm h := h.begun hm
  permitted hl hd hn h := h.permitted _ hl hd hn
  unpermitted h := h.unpermitted
  serviceAsked _ h := h.of_kept (writeRows_modeKept _ _)
  emergencyAsked h := h.of_kept (writeRows_modeKept _ _)
  holdEnded h := h.of_kept (endHold_modeKept _)
  unlatched _ h := h.of_kept (clearLatch_modeKept _)
  doorMoved h := h.of_kept (updDoor_modeKept _ _ _)
  doorsPut h := h.of_kept (putDoors_modeKept _ _ _ _)
  doorsPlaced h := h.of_kept .same
  alarmAsked h := h.of_kept (setAlarm_modeKept _ _)
  stopsPut h := h.of_kept (putStops_modeKept _ _)
  heard h := h.complete _
  powered {i s} _ := (freshState_mode i).relinked rfl rfl rfl rfl (.refl _)
  timed h := h.timed
  loads hl ht k h := h.loads hl (k .mode (by decide)) ht (k .limits (by decide)) (k .drive (by decide))
  loadEnded hl e h := h.loadEnded hl e
  silent h := h.silence _
  standstillBegun h := h.of_kept (beginStandstill_modeKept _)
  standstillEnded h := h.of_kept (endStandstill_modeKept _)
  rolledBack h := h.of_kept (.trans (.trans .same (notice_aside _ _).modeKept) (formOdometryRow_modeKept _))
  pinionFailed h := h.of_kept (setPinionFault_modeKept _)
  supervised h := h.of_kept (superviseOnce_modeKept _)
  faulted h := h.of_kept (setFaults_modeKept _ _ _)
  met hk h := h.met _ (h.step (by rw [hk]; rfl))
  ended hk h := h.ended _ (h.step (by rw [hk]; rfl))
  handled h := h.of_kept .same

/-- Settles O57: every act of every command keeps `ModeFollows` (`modeFollows_keeps`), and so does every step
(`EventsKeep.step`). -/
theorem everyStepKeepsTheMode : Obligations.EveryStepKeepsTheMode := fun _ _ => modeFollows_keeps.step

end Sys2Proof.Machine
end

section
/-!
The demand rows stand as their causes have them in every step (R14, R32, R72, R90, R95 to R97, R102, R107, R108, R121,
R148). `Causes` names what the rows follow, `RowStands` what each row asks of them, and `Stands w` the invariant but for
the rows `w` that are still to be formed: a change of a cause leaves rows to be formed (`Stands.moved`), and each
forming settles its row (`Stands.write`).
-/

namespace Sys2Proof.Machine

/-! ### The rows and their causes -/

/-- What the rows of the demands follow (R95). -/
structure Causes where
  level : Level
  loop : Bool
  secured : Bool
  still : Bool
  stop : StopKind
  lost : Bool
  alarm : AlarmState
  rollback : Bool
  pinionFault : Bool
  slow : Bool
  fail : Bool
  faultState : FaultState

/-- The causes as a state has them. -/
def causesOf (s : State) : Causes where
  level := s.sup.level
  loop := s.doors.loopClosed
  secured := allSecured s.doors.door
  still := s.odo.standstill
  stop := strongestStop s.limits.stops
  lost := holderLinkLost s.mode
  alarm := s.dem.alarm
  rollback := s.odo.rollback
  pinionFault := s.odo.pinionFault
  slow := s.drive.serviceSlow
  fail := s.drive.springFail
  faultState := s.drive.faultState

/-- What a row's causes ask of it, the loop being formed with the DOORS row and the fault state with the BRAKE_CHECK
row (R14, R32, R72, R90, R99, R102, R107, R121, R148). -/
def RowStands (c : Causes) (r : Rows) : Row → Prop
  | .cabA => legalService r.cabA.service = true
  | .cabB => legalService r.cabB.service = true
  | .panel => r.panel.service = .none
  | .supervision => r.supervision = supervisionRow c.level
  | .doors => c.loop = c.secured ∧ r.doors = doorsRow c.loop c.still
  | .radio => r.radio = radioRow c.stop c.still
  | .link => r.link = linkRow c.lost c.still
  | .alarm => r.alarm = alarmRow c.alarm c.still
  | .odometry => r.odometry = odometryRow c.rollback c.pinionFault
  | .brakeCheck => r.brakeCheck = brakeCheckRow c.slow c.fail ∧ c.faultState = faultStateOf c.slow c.fail

/-- The driven kind, the traction inhibit and the latch as the rows have them (R96, R97, R108). -/
structure DrivenStands (d : Demands) : Prop where
  driven : d.driven = drivenOf d.latch d.rows
  traction : d.traction = !(d.driven == .none)
  latched : d.latch = true ∨ firstEmergency d.rows = none

/-- The demands stand but for the rows listed. -/
structure Stands (w : List Row) (s : State) : Prop where
  demands : DrivenStands s.dem
  rows : ∀ x, x ∉ w → RowStands (causesOf s) s.dem.rows x

theorem demandsFollow_iff (s : State) : DemandsFollow s ↔ Stands [] s := by
  constructor
  · intro h
    refine ⟨⟨h.driven, h.traction, h.latched⟩, fun x _ => ?_⟩
    cases x with
    | cabA => exact h.cabA
    | cabB => exact h.cabB
    | panel => exact h.panel
    | supervision => exact h.supervision
    | doors => exact ⟨h.loop, h.doors⟩
    | radio => exact h.radio
    | link => exact h.link
    | alarm => exact h.alarm
    | odometry => exact h.odometry
    | brakeCheck => exact ⟨h.brakeCheck, h.faultState⟩
  · intro h
    have r : ∀ x, RowStands (causesOf s) s.dem.rows x := fun x => h.rows x List.not_mem_nil
    exact ⟨h.demands.driven, h.demands.traction, h.demands.latched, r .cabA, r .cabB, r .panel, r .supervision,
      (r .doors).1, (r .doors).2, r .radio, r .link, r .alarm, r .odometry, (r .brakeCheck).1, (r .brakeCheck).2⟩

/-- A row at EMERGENCY that was not so sets the latch (R97). -/
theorem DrivenStands.latched_of {old new : Rows} (h : firstEmergency old = none)
    (hb : becomesEmergency old new = false) : firstEmergency new = none := by
  simp only [firstEmergency, List.find?_eq_none, decide_eq_true_eq] at h ⊢
  simp only [becomesEmergency, List.any_eq_false, Bool.and_eq_true, decide_eq_true_eq, Bool.not_eq_true',
    decide_eq_false_iff_not, not_and, not_not] at hb
  exact fun x hx hk => h x hx (hb x hx hk)

/-- A writing of the rows leaves the driven kind, the traction inhibit and the latch as the rows have them. -/
theorem DrivenStands.take {new : Rows} {s t : State} (h : DrivenStands s.dem) (k : DemandsTake new s t) :
    DrivenStands t.dem where
  driven := by rw [k.rows]; exact k.driven
  traction := by
    rw [k.traction]
    split
    · rename_i same
      rw [same]
      exact h.traction
    · rfl
  latched := by
    rw [k.rows, k.latch]
    cases hb : becomesEmergency s.dem.rows new
    · rcases h.latched with l | l
      · exact .inl (by rw [l]; rfl)
      · exact .inr (DrivenStands.latched_of l hb)
    · exact .inl (Bool.or_true _)

/-! ### What moves no cause -/

/-- The demands and their causes as they were. -/
structure Unmoved (s t : State) : Prop where
  dem : t.dem = s.dem
  causes : causesOf t = causesOf s

/-- The causes are of six blocks, and of the drive its faults. -/
theorem causesOf_congr {s t : State} (level : t.sup.level = s.sup.level) (doors : t.doors = s.doors)
    (still : t.odo.standstill = s.odo.standstill) (stops : t.limits.stops = s.limits.stops)
    (lost : holderLinkLost t.mode = holderLinkLost s.mode) (alarm : t.dem.alarm = s.dem.alarm)
    (rollback : t.odo.rollback = s.odo.rollback) (pinion : t.odo.pinionFault = s.odo.pinionFault)
    (faults : FaultsStand s.drive t.drive) : causesOf t = causesOf s := by
  simp only [causesOf, level, doors, still, stops, lost, alarm, rollback, pinion, faults.slow, faults.fail, faults.state]

theorem Aside.unmoved {s t : State} (h : Aside s t) : Unmoved s t :=
  ⟨h.dem, causesOf_congr h.level h.doors h.standstill h.stops (by rw [h.mode]) (by rw [h.dem]) h.rollback
    h.pinionFault h.faults⟩

/-- What keeps all blocks but the brake drive and keeps its faults moves no cause. -/
theorem Unmoved.of_drive {s t : State} (k : Keeps allButDrive s t) (d : DriveKeeps s.drive t.drive) : Unmoved s t := by
  have mode : t.mode = s.mode := k .mode (by decide)
  have odo : t.odo = s.odo := k .odo (by decide)
  have limits : t.limits = s.limits := k .limits (by decide)
  have sup : t.sup = s.sup := k .sup (by decide)
  have dem : t.dem = s.dem := k .dem (by decide)
  exact ⟨dem, causesOf_congr (by rw [sup]) (k .doors (by decide)) (by rw [odo]) (by rw [limits]) (by rw [mode])
    (by rw [dem]) (by rw [odo]) (by rw [odo]) d.faults⟩

theorem Cascade.causes {s t : State} (k : Cascade s t) : causesOf t = causesOf s := by
  have mode : t.mode = s.mode := k.keeps .mode (by decide)
  have odo : t.odo = s.odo := k.keeps .odo (by decide)
  have limits : t.limits = s.limits := k.keeps .limits (by decide)
  have sup : t.sup = s.sup := k.keeps .sup (by decide)
  exact causesOf_congr (by rw [sup]) (k.keeps .doors (by decide)) (by rw [odo]) (by rw [limits]) (by rw [mode])
    k.alarm (by rw [odo]) (by rw [odo]) k.drive.faults

/-! ### Forming and leaving rows to be formed -/

namespace Stands

variable {w v : List Row} {s t : State}

theorem mono (h : Stands w s) (hw : ∀ x ∈ w, x ∈ v) : Stands v s :=
  ⟨h.demands, fun x hx => h.rows x fun m => hx (hw x m)⟩

/-- A change of causes that a row does not follow leaves it standing. -/
theorem moved (h : Stands w s) (rows : t.dem.rows = s.dem.rows) (latch : t.dem.latch = s.dem.latch)
    (driven : t.dem.driven = s.dem.driven) (traction : t.dem.traction = s.dem.traction)
    (hw : ∀ x, x ∉ v → x ∉ w ∧ (RowStands (causesOf s) s.dem.rows x → RowStands (causesOf t) s.dem.rows x)) :
    Stands v t := by
  refine ⟨⟨?_, ?_, ?_⟩, fun x hx => ?_⟩
  · rw [driven, latch, rows]; exact h.demands.driven
  · rw [traction, driven]; exact h.demands.traction
  · rw [latch, rows]; exact h.demands.latched
  · rw [rows]; exact (hw x hx).2 (h.rows x (hw x hx).1)

theorem unmoved (h : Stands w s) (u : Unmoved s t) : Stands w t :=
  h.moved (by rw [u.dem]) (by rw [u.dem]) (by rw [u.dem]) (by rw [u.dem]) fun x hx => ⟨hx, by rw [u.causes]; exact id⟩

theorem aside (h : Stands w s) (a : Aside s t) : Stands w t := h.unmoved a.unmoved

/-- A row formed by its causes, the others left. -/
theorem write {y : Row} {new : Rows} (h : Stands (y :: w) s) (formed : RowStands (causesOf s) new y)
    (others : ∀ x, x ≠ y → RowStands (causesOf s) s.dem.rows x → RowStands (causesOf s) new x) :
    Stands w (writeRows new s) := by
  have k := writeRows_written new s
  have mode : (writeRows new s).mode = s.mode := k.keeps .mode (by decide)
  have odo : (writeRows new s).odo = s.odo := k.keeps .odo (by decide)
  have limits : (writeRows new s).limits = s.limits := k.keeps .limits (by decide)
  have sup : (writeRows new s).sup = s.sup := k.keeps .sup (by decide)
  have causes : causesOf (writeRows new s) = causesOf s := causesOf_congr (by rw [sup]) (k.keeps .doors (by decide))
    (by rw [odo]) (by rw [limits]) (by rw [mode]) k.follow.dem.alarm (by rw [odo]) (by rw [odo]) k.follow.drive.faults
  refine ⟨h.demands.take k.follow.dem, fun x hx => ?_⟩
  rw [causes, k.follow.dem.rows]
  by_cases hy : x = y
  · rw [hy]; exact formed
  · exact others x hy (h.rows x (by simp [hy, hx]))

/-- A row written in a state whose rows all stand. -/
theorem rewrite {y : Row} {new : Rows} (h : Stands w s) (formed : RowStands (causesOf s) new y)
    (others : ∀ x, x ≠ y → RowStands (causesOf s) s.dem.rows x → RowStands (causesOf s) new x) :
    Stands w (writeRows new s) := (h.mono fun _ => List.mem_cons_of_mem y).write formed others

/-! ### The forming of each row -/

theorem formDoors (h : Stands (.doors :: w) s) : Stands w (formDoorsRow s) := by
  let u : State := { s with doors := { s.doors with loopClosed := allSecured s.doors.door } }
  have hu : Stands (.doors :: w) u := h.moved rfl rfl rfl rfl fun x hx => ⟨hx, fun k => by
    cases x <;> first | exact absurd List.mem_cons_self hx | exact k⟩
  exact (hu.aside (raiseIf_aside _ _ u)).write ⟨by simp [causesOf, u], by simp [causesOf, u]⟩ fun x hx k => by
    cases x <;> first | exact absurd rfl hx | exact k

theorem formRadio (h : Stands (.radio :: w) s) : Stands w (formRadioRow s) :=
  h.write rfl fun x hx k => by cases x <;> first | exact absurd rfl hx | exact k

theorem formLink (h : Stands (.link :: w) s) : Stands w (formLinkRow s) :=
  h.write rfl fun x hx k => by cases x <;> first | exact absurd rfl hx | exact k

theorem formOdometry (h : Stands (.odometry :: w) s) : Stands w (formOdometryRow s) :=
  h.write rfl fun x hx k => by cases x <;> first | exact absurd rfl hx | exact k

theorem alarm (a : AlarmState) (h : Stands (.alarm :: w) s) : Stands w (setAlarm a s) := by
  let u : State := { s with dem := { s.dem with alarm := a } }
  have hu : Stands (.alarm :: w) u := h.moved rfl rfl rfl rfl fun x hx => ⟨hx, fun k => by
    cases x <;> first | exact absurd List.mem_cons_self hx | exact k⟩
  exact (hu.aside (raiseIf_aside _ _ u)).write (by simp [RowStands, causesOf, u]) fun x hx k => by
    cases x <;> first | exact absurd rfl hx | exact k

theorem evaluated (begins : Bool) (h : Stands (.alarm :: w) s) : Stands w (evaluateAlarm begins s) := h.alarm _

theorem level (l : Level) (h : Stands (.supervision :: w) s) : Stands w (putLevel l s) := by
  let u : State := { s with sup := { s.sup with level := l } }
  have hu : Stands (.supervision :: w) u := h.moved rfl rfl rfl rfl fun x hx => ⟨hx, fun k => by
    cases x <;> first | exact absurd List.mem_cons_self hx | exact k⟩
  exact (hu.aside (raiseIf_aside _ _ u)).write (by simp [RowStands, causesOf, u]) fun x hx k => by
    cases x <;> first | exact absurd rfl hx | exact k

theorem stops (l : List StopKind) (h : Stands (.radio :: w) s) : Stands w (putStops l s) := by
  let u : State := { s with limits := { s.limits with stops := l } }
  have hu : Stands (.radio :: w) u := h.moved rfl rfl rfl rfl fun x hx => ⟨hx, fun k => by
    cases x <;> first | exact absurd List.mem_cons_self hx | exact k⟩
  exact (hu.aside (raiseIf_aside _ _ u)).formRadio

theorem faults (slow fail : Bool) (h : Stands w s) : Stands w (setFaults slow fail s) := by
  let u : State := { s with drive := { s.drive with
    serviceSlow := slow, springFail := fail, faultState := faultStateOf slow fail } }
  have hu : Stands (.brakeCheck :: w) u := h.moved rfl rfl rfl rfl fun x hx =>
    ⟨fun m => hx (List.mem_cons_of_mem _ m), fun k => by
      cases x <;> first | exact absurd List.mem_cons_self hx | exact k⟩
  unfold setFaults
  split
  · exact h
  · exact (hu.aside (raise_aside _ u)).write ⟨rfl, rfl⟩ fun x hx k => by
      cases x <;> first | exact absurd rfl hx | exact k

/-! ### The doors and standstill -/

theorem doorMoved (d : DoorId) (f : Door → Door) (h : Stands w s) : Stands w (updDoor d f s) := by
  let u : State := { s with doors := { s.doors with door := putDoor d (f (doorOf d s.doors.door)) s.doors.door } }
  have hu : Stands (.doors :: w) u := h.moved rfl rfl rfl rfl fun x hx =>
    ⟨fun m => hx (List.mem_cons_of_mem _ m), fun k => by
      cases x <;> first | exact absurd List.mem_cons_self hx | exact k⟩
  exact ((hu.aside (raiseIf_aside _ _ u)).aside (raiseIf_aside _ _ _)).formDoors

theorem doorsPut (new : Quad Door) (left right : Bool) (h : Stands w s) : Stands w (putDoors new left right s) := by
  let u : State := { s with doors := { s.doors with door := new, leftReleased := left, rightReleased := right } }
  have hu : Stands (.doors :: w) u := h.moved rfl rfl rfl rfl fun x hx =>
    ⟨fun m => hx (List.mem_cons_of_mem _ m), fun k => by
      cases x <;> first | exact absurd List.mem_cons_self hx | exact k⟩
  exact (hu.aside (raiseIf_aside _ _ u)).formDoors

/-- The rows that follow standstill formed anew (R14, R32, R72, R107, R148). -/
theorem formStandstill (begins : Bool) (h : Stands [.doors, .radio, .link, .alarm, .odometry] s) :
    Stands [] (formStandstillRows begins s) := by
  have formed := (h.formDoors.formRadio.formLink.evaluated begins).formOdometry
  unfold formStandstillRows remapHold
  split
  · exact formed.unmoved ⟨applyMapping_dem _, (applyMapping_cascade _).causes⟩
  · exact formed

theorem standstillBegun (h : Stands [] s) : Stands [] (beginStandstill s) := by
  let u := updOdo (fun o => { o with
    standstill := true, quietTime := 0, quietRunning := false, reverse := 0, reverseCarry := 0,
    rollback := false, motion := .none }) s
  have hu : Stands [.doors, .radio, .link, .alarm, .odometry] u := h.moved rfl rfl rfl rfl fun x hx =>
    ⟨List.not_mem_nil, fun k => by cases x <;> first | exact absurd (by decide) hx | exact k⟩
  exact (hu.aside (notice_aside _ u)).formStandstill true

theorem standstillEnded (h : Stands [] s) : Stands [] (endStandstill s) := by
  let u := updOdo (fun o => { o with standstill := false }) s
  have hu : Stands [.doors, .radio, .link, .alarm] u := h.moved rfl rfl rfl rfl fun x hx =>
    ⟨List.not_mem_nil, fun k => by cases x <;> first | exact absurd (by decide) hx | exact k⟩
  have moving := (hu.aside (notice_aside .standstillEnd u)).aside (abortTest_aside .standstillLost _)
  exact ((moving.formDoors.doorsPut _ false false).mono (by decide)).formStandstill false

/-! ### The links and the holder -/

theorem holderLinkLost_of_up {m : ModeUnit} {p : Port} (hp : m.holder = holderOf p)
    (up : ∀ l, trainlineOf p = some l → (linkOf l m).state = .up) : holderLinkLost m = false := by
  unfold holderLinkLost
  rw [hp]
  cases p with
  | a => simp [holderOf, show m.linkA.state = .up from up .a rfl]
  | b => simp [holderOf, show m.linkB.state = .up from up .b rfl]
  | c => rfl

theorem holderLinkLost_congr {m n : ModeUnit} (hh : n.holder = m.holder)
    (hl : ∀ l, (linkOf l n).state = (linkOf l m).state) : holderLinkLost n = holderLinkLost m := by
  have a : n.linkA.state = m.linkA.state := hl .a
  have b : n.linkB.state = m.linkB.state := hl .b
  simp only [holderLinkLost, hh, a, b]

theorem silent (l : LinkPort) (h : Stands [] s) : Stands [] (silenceOn l s) := by
  have hu : Stands [.link] (putLink l ⟨.lost, none⟩ s) := by
    cases l <;> exact h.moved rfl rfl rfl rfl fun x hx => ⟨List.not_mem_nil, fun k => by
      cases x <;> first | exact absurd (by decide) hx | exact k⟩
  unfold silenceOn
  split
  · exact (hu.aside (raise_aside _ _)).formLink
  · exact h

/-- The causes but the loss of the holder's link, from the blocks besides the mode. -/
theorem causesOf_keeps {r : List Block} (k : Keeps r s t) (hr : ∀ b ∈ [Block.odo, .limits, .sup, .doors], b ∈ r)
    (alarm : t.dem.alarm = s.dem.alarm) (faults : FaultsStand s.drive t.drive) :
    causesOf t = { causesOf s with lost := holderLinkLost t.mode } := by
  have odo : t.odo = s.odo := k .odo (hr _ (by decide))
  have limits : t.limits = s.limits := k .limits (hr _ (by decide))
  have sup : t.sup = s.sup := k .sup (hr _ (by decide))
  have doors : t.doors = s.doors := k .doors (hr _ (by decide))
  simp only [causesOf, odo, limits, sup, doors, alarm, faults.slow, faults.fail, faults.state]

theorem heard (p : Port) (h : Stands [] s) : Stands [] (completeTelegram p s) := by
  have hh := completeTelegram_heard p s
  have holder : (completeTelegram p s).mode.holder = s.mode.holder := by rw [hh.modeKeeps]
  by_cases hup : ∀ l, trainlineOf p = some l → (linkOf l s.mode).state = .up
  · obtain ⟨dem, drive, _⟩ := hh.quiet hup
    have state : ∀ l, (linkOf l (completeTelegram p s).mode).state = (linkOf l s.mode).state := by
      intro l
      by_cases hl : trainlineOf p = some l
      · rw [hh.up l hl, hup l hl]
      · rw [hh.otherLink l hl]
    have causes := causesOf_keeps hh.keeps (by decide) (by rw [dem]) (drive ▸ ⟨rfl, rfl, rfl⟩)
    rw [holderLinkLost_congr holder state] at causes
    exact h.unmoved ⟨dem, causes⟩
  · push Not at hup
    obtain ⟨l, hl, hn⟩ := hup
    have f := hh.follow l hl hn
    have causes := causesOf_keeps hh.keeps (by decide) f.dem.alarm f.drive.faults
    refine ⟨h.demands.take f.dem, fun x _ => ?_⟩
    have stood := h.rows x List.not_mem_nil
    rw [causes, f.dem.rows]
    cases x <;> first | rfl | exact stood

theorem taken (p : Port) (hn : s.mode.holder = .none) (up : ∀ l, trainlineOf p = some l → (linkOf l s.mode).state = .up)
    (h : Stands [] s) : Stands [] (changeHolder (holderOf p) s) := by
  have lost : holderLinkLost (changeHolder (holderOf p) s).mode = holderLinkLost s.mode := by
    have before : holderLinkLost s.mode = false := holderLinkLost_of_up (p := .c) hn fun _ hl => by cases hl
    exact (holderLinkLost_of_up (m := (changeHolder (holderOf p) s).mode) rfl up).trans before.symm
  exact h.unmoved ⟨rfl, causesOf_congr rfl rfl rfl rfl lost rfl rfl rfl ⟨rfl, rfl, rfl⟩⟩

theorem dropService_stands {g : Holder} {c : Causes} {r : Rows} (x : Row) (h : RowStands c r x) :
    RowStands c (dropService g r) x := by
  cases g <;> cases x <;> first | exact h | rfl

theorem passed (p : Port) (up : ∀ l, trainlineOf p = some l → (linkOf l s.mode).state = .up) (h : Stands [] s) :
    Stands [] (passAuthority (holderOf p) s) := by
  obtain ⟨a, keeps, _⟩ := passAuthority_passed (holderOf p) s
  have lost : holderLinkLost (passAuthority (holderOf p) s).mode = false := by
    rw [a.mode]
    exact holderLinkLost_of_up (p := p) rfl up
  have sup : (passAuthority (holderOf p) s).sup = s.sup := keeps .sup (by decide)
  have doors : (passAuthority (holderOf p) s).doors = s.doors := keeps .doors (by decide)
  have odo : (passAuthority (holderOf p) s).odo.standstill = s.odo.standstill ∧
      (passAuthority (holderOf p) s).odo.rollback = s.odo.rollback ∧
      (passAuthority (holderOf p) s).odo.pinionFault = s.odo.pinionFault := by
    rw [a.odo]
    split <;> exact ⟨rfl, rfl, rfl⟩
  obtain ⟨still, rollback, pinion⟩ := odo
  have faults := a.rows.drive.faults
  have causes : causesOf (passAuthority (holderOf p) s) = { causesOf s with lost := false } := by
    simp only [causesOf, sup, doors, still, rollback, pinion, a.limits, lost, a.rows.dem.alarm, faults.slow,
      faults.fail, faults.state]
  refine ⟨h.demands.take a.rows.dem, fun x _ => ?_⟩
  have stood := h.rows x List.not_mem_nil
  rw [causes, a.rows.dem.rows]
  refine dropService_stands x ?_
  cases x <;> first | rfl | exact stood

/-! ### The requested parts -/

theorem legalService_servicePart (n : Nat) : legalService (servicePart n) = true := by
  unfold servicePart
  split
  · rfl
  split
  · simp only [legalService, Bool.and_eq_true, decide_eq_true_eq]
    omega
  · rfl

theorem serviceAsked (p : Port) (level : Nat) (hh : isHolder p s = true) (h : Stands [] s) :
    Stands [] (writeRows (s.dem.rows.updPort p fun r => { r with service := servicePart level }) s) := by
  cases p with
  | a =>
    refine h.rewrite (y := .cabA) (legalService_servicePart level) fun x hx k => ?_
    cases x <;> first | exact absurd rfl hx | exact k
  | b =>
    refine h.rewrite (y := .cabB) (legalService_servicePart level) fun x hx k => ?_
    cases x <;> first | exact absurd rfl hx | exact k
  | c => simp [isHolder] at hh

theorem emergencyAsked (p : Port) (e : Bool) (h : Stands [] s) :
    Stands [] (writeRows (s.dem.rows.updPort p fun r => { r with emergency := e }) s) := by
  have stood : ∀ x, RowStands (causesOf s) (s.dem.rows.updPort p fun r => { r with emergency := e }) x := by
    intro x
    have k := h.rows x List.not_mem_nil
    cases p <;> cases x <;> exact k
  exact h.rewrite (stood .cabA) fun x _ _ => stood x

theorem unlatched (hf : firstEmergency s.dem.rows = none) (h : Stands [] s) : Stands [] (clearLatch s) := by
  let u := raise .emergency { s with dem := { s.dem with latch := false } }
  have k := refreshDriven_cascade u
  have e : clearLatch s = refreshDriven u := rfl
  have causes : causesOf u = causesOf s := rfl
  have rows : (refreshDriven u).dem.rows = s.dem.rows := k.rows
  rw [e]
  refine ⟨⟨?_, ?_, .inr (by rw [rows]; exact hf)⟩, fun x hx => by rw [k.causes, causes, rows]; exact h.rows x hx⟩
  · rw [refreshDriven_driven, refreshDriven_latch, rows]
    rfl
  · rw [refreshDriven_traction]
    split
    · rename_i same
      rw [same]
      exact h.demands.traction
    · rfl

/-! ### The resets, time and the drive -/

/-- The demands after a reset (R93). -/
theorem fresh (i : CarInputs) (hd : t.dem = resetDemands i) (hc : causesOf t = causesOf (freshState i)) :
    Stands [] t := by
  refine ⟨by rw [hd]; exact ⟨rfl, rfl, .inl rfl⟩, fun x _ => ?_⟩
  rw [hd, hc]
  cases x <;> first | rfl | exact ⟨rfl, rfl⟩

theorem timed (h : Stands [] s) : Stands [] (advance s) := h.unmoved ⟨rfl, rfl⟩

theorem holdEnded (h : Stands w s) : Stands w (endHold s) := by
  unfold endHold
  split
  · exact h.unmoved ⟨takeMapping_dem s, (takeMapping_cascade s).causes⟩
  · exact h

theorem stepBegun (n : Nat) (h : Stands w s) : Stands w (beginStep n s) := by
  obtain ⟨keeps, _, drive⟩ := beginStep_keeps n s
  exact h.unmoved (.of_drive keeps drive)

theorem testEnded (r : TestRecord) (h : Stands w s) : Stands w (endTest r s) := by
  obtain ⟨keeps, _, drive⟩ := endTest_keeps r s
  exact h.unmoved (.of_drive keeps drive)

theorem stepMet (n : Nat) (h : Stands w s) : Stands w (meetStep n s) := by
  unfold meetStep
  split
  · exact h.stepBegun _
  · exact h.testEnded _

theorem begun (h : Stands w s) : Stands w (beginTest s) := by
  let u : State := { writeRecord (.notRun false) s with drive := { (writeRecord (.notRun false) s).drive with
    source := .test, serviceCheck := (writeRecord (.notRun false) s).drive.serviceCheck.dropped,
    springCheck := (writeRecord (.notRun false) s).drive.springCheck.dropped } }
  have hu : Unmoved s u := ⟨by simp [u, writeRecord], by simp [causesOf, u, writeRecord]⟩
  exact (h.unmoved hu).stepBegun 1

theorem composed (c : Composition) (h : Stands w s) : Stands w (putComposition c s) := by
  let u := updRadio (radioComposed c.role s.store.params.reportInterval)
    (raise .mode { s with mode := { s.mode with composition := some c } })
  have hu : Stands w u := h.unmoved ⟨rfl, rfl⟩
  have e : putComposition c s = if s.drive.source = .test then abortTest .composition u
      else raise .brakeTest { u with drive := { u.drive with testRecord := .notRun false } } := rfl
  rw [e]
  split
  · exact hu.aside (abortTest_aside _ u)
  · exact hu.unmoved ⟨rfl, rfl⟩

theorem unpermitted (h : Stands w s) : Stands w (dropPermit s) := by
  unfold dropPermit
  split
  · exact h.unmoved ⟨rfl, rfl⟩
  · exact h

theorem turned (d : Direction) (h : Stands w s) : Stands w (changeDirection d s) := by
  unfold changeDirection
  simp only
  have turned : Stands w (raise .authority (updOdo (fun o => { o with awaited := none })
      { s with mode := { s.mode with direction := d } })) := h.unmoved ⟨rfl, rfl⟩
  split
  · exact h
  split
  · exact turned.unpermitted
  · exact turned

theorem selected (m : CarMode) (h : Stands w s) : Stands w (changeMode m s) := by
  have chosen : Stands w (raise .mode { s with mode := { s.mode with mode := m } }) := h.unmoved ⟨rfl, rfl⟩
  unfold changeMode
  split
  · exact chosen.unpermitted
  · exact chosen

theorem supervised (h : Stands w s) : Stands w (superviseOnce s) := by
  have cycled : ∀ v l r k g, Stands (.supervision :: w) { s with sup := { s.sup with
      cycleTimer := 0, vPerm := v, staticLimit := l, staticReason := r, targets := k, governing := g } } :=
    fun _ _ _ _ _ => (h.mono fun _ => List.mem_cons_of_mem _).unmoved ⟨rfl, rfl⟩
  exact (cycled _ _ _ _ _).level _

theorem rolledBack (h : Stands w s) :
    Stands w (formOdometryRow (notice .rollback (updOdo (fun o => { o with rollback := true }) s))) := by
  let u := updOdo (fun o => { o with rollback := true }) s
  have hu : Stands (.odometry :: w) u := h.moved rfl rfl rfl rfl fun x hx =>
    ⟨fun m => hx (List.mem_cons_of_mem _ m), fun k => by
      cases x <;> first | exact absurd List.mem_cons_self hx | exact k⟩
  exact (hu.aside (notice_aside _ u)).formOdometry

theorem pinionFailed (h : Stands w s) : Stands w (setPinionFault s) := by
  let u := updOdo (fun o => { o with pinionFault := true }) s
  have hu : Stands (.odometry :: w) u := h.moved rfl rfl rfl rfl fun x hx =>
    ⟨fun m => hx (List.mem_cons_of_mem _ m), fun k => by
      cases x <;> first | exact absurd List.mem_cons_self hx | exact k⟩
  exact (hu.aside (notice_aside _ u)).formOdometry

theorem loadEnded {r : LoadResult} {x : Store} (h : Stands w s) (e : LoadEnded r x s t) : Stands w t := by
  have dem : t.dem = s.dem := e.keeps .dem (by decide)
  have drive : t.drive = s.drive := e.keeps .drive (by decide)
  have causes := causesOf_keeps e.keeps (by decide) (by rw [dem]) (drive ▸ ⟨rfl, rfl, rfl⟩)
  rw [e.mode] at causes
  exact h.unmoved ⟨dem, causes⟩

theorem loads (h : Stands w s) (k : Keeps [.mode, .odo, .limits, .sup, .dem, .drive, .doors] s t) : Stands w t := by
  have mode : t.mode = s.mode := k .mode (by decide)
  have dem : t.dem = s.dem := k .dem (by decide)
  have drive : t.drive = s.drive := k .drive (by decide)
  have causes := causesOf_keeps k (by decide) (by rw [dem]) (drive ▸ ⟨rfl, rfl, rfl⟩)
  rw [mode] at causes
  exact h.unmoved ⟨dem, causes⟩

end Stands

/-! ### Every step -/

/-- The acts of every command keep the demand rows, the driven kind and the traction inhibit as they are to stand. -/
theorem stands_keeps : EventsKeep (Stands []) where
  aside a h := h.aside a
  taken hd _ hn h := h.taken _ hn hd.up
  passed up h := h.passed _ up
  turned _ h := h.turned _
  composed _ h := h.composed _
  selected _ _ _ h := h.selected _
  restarted {s} _ := .fresh (inputsNow s) rfl rfl
  begun _ h := h.begun
  permitted _ _ _ h := h.unmoved ⟨rfl, rfl⟩
  unpermitted h := h.unpermitted
  serviceAsked hh h := h.serviceAsked _ _ hh
  emergencyAsked h := h.emergencyAsked _ _
  holdEnded h := h.holdEnded
  unlatched hf h := h.unlatched hf
  doorMoved h := h.doorMoved _ _
  doorsPut h := h.doorsPut _ _ _
  doorsPlaced h := h.unmoved ⟨rfl, rfl⟩
  alarmAsked h := (h.mono (by decide)).alarm _
  stopsPut h := (h.mono (by decide)).stops _
  heard h := h.heard _
  powered {i _} _ := .fresh i rfl rfl
  timed h := h.timed
  loads _ _ k h := h.loads k
  loadEnded _ e h := h.loadEnded e
  silent h := h.silent _
  standstillBegun h := h.standstillBegun
  standstillEnded h := h.standstillEnded
  rolledBack h := h.rolledBack
  pinionFailed h := h.pinionFailed
  supervised h := h.supervised
  faulted h := h.faults _ _
  met _ h := h.stepMet _
  ended _ h := h.testEnded _
  handled h := h.moved rfl rfl rfl rfl fun _ hx => ⟨hx, id⟩

/-- Settles O55: the invariant is that all rows stand (`demandsFollow_iff`), which every act keeps (`stands_keeps`). -/
theorem everyStepKeepsTheDemands : Obligations.EveryStepKeepsTheDemands := by
  intro s t h hs
  rw [demandsFollow_iff] at h ⊢
  exact stands_keeps.step h hs

end Sys2Proof.Machine
end

section
/-!
The silence of a link, authority, the direction and the mode: what their commands answer and change, case by case of
their tables (R2 to R10, R13, R14).
-/

namespace Sys2Proof.Machine

/-! ### What a request's tests find -/

theorem moving_completeTelegram (p : Port) (s : State) : moving (completeTelegram p s) = !s.odo.standstill := by
  simp [moving]

theorem notHolderReply_eq (p : Port) :
    notHolderReply p = if p = .c then plainReply .notPermitted else plainReply .notAuthority := by
  cases p <;> rfl

theorem asHolder_refused {p : Port} {s : State} (rule : Rule) (h : isHolder p s = false) :
    asHolder p rule s = (s, notHolderReply p) := by
  simp [asHolder, h]

theorem byteAt_single (b : Byte) : byteAt [b] 0 = b.toNat := rfl

theorem directionArg_code (d : Direction) : directionArg d.code.toNat = some d := by cases d <;> rfl

theorem directionArg_none {n : Nat} (h : 3 ≤ n) : directionArg n = none := by
  unfold directionArg
  split <;> first | omega | rfl

theorem modeArg_code {m : CarMode} (h : m ≠ .loading) : modeArg m.code.toNat = some m := by
  cases m <;> first | rfl | exact absurd rfl h

theorem modeArg_none {b : Byte} (h1 : b ≠ 1) (h2 : b ≠ 2) : modeArg b.toNat = none := by
  have one : b.toNat ≠ 1 := fun h => h1 (BitVec.eq_of_toNat_eq h)
  have two : b.toNat ≠ 2 := fun h => h2 (BitVec.eq_of_toNat_eq h)
  unfold modeArg
  split <;> first | contradiction | rfl

/-! ### The silence of a link -/

theorem Link.timeUp_iff {x : Link} : x.timeUp = true ↔ ∃ n, x.timer = some n ∧ 500 ≤ n := by
  unfold Link.timeUp Config.linkSilence
  cases x.timer <;> simp

theorem linkRow_eq (lost still : Bool) :
    linkRow lost still = if lost then (if still then .hold else .full) else .none := rfl

/-- What the loss of a link does (R13, R14). -/
theorem silenceOn_lost {l : LinkPort} {s : State} (hu : (linkOf l s.mode).state = .up)
    (ht : (linkOf l s.mode).timeUp = true) :
    linkOf l (silenceOn l s).mode = ⟨.lost, none⟩ ∧
    (∀ x, x ≠ l → linkOf x (silenceOn l s).mode = linkOf x s.mode) ∧
    (silenceOn l s).mode = { s.mode with linkA := (silenceOn l s).mode.linkA, linkB := (silenceOn l s).mode.linkB } ∧
    raisedAll .link (silenceOn l s) ∧
    RowsFollow { s.dem.rows with link := linkRow (holderLinkLost (silenceOn l s).mode) s.odo.standstill } s
      (silenceOn l s) ∧
    Keeps restBlocks s (silenceOn l s) ∧ PortsKeep (.link :: rowEvents) none s (silenceOn l s) := by
  let u := putLink l ⟨.lost, none⟩ s
  have e : silenceOn l s = formLinkRow (raise .link u) := by simp [silenceOn, hu, ht, u]
  have w := formLinkRow_written (raise .link u)
  have mode : (formLinkRow (raise .link u)).mode = u.mode := w.keeps .mode (by decide)
  have other : ∀ x, x ≠ l → linkOf x u.mode = linkOf x s.mode := fun x hx => by
    cases x <;> cases l <;> first | rfl | exact absurd rfl hx
  have put : Keeps restBlocks s u := fun b hb => by
    cases l <;> cases b <;> first | rfl | exact absurd hb (by decide)
  have ports : PortsKeep (.link :: rowEvents) none s (raise .link u) :=
    .raise_of .link (putLink_ports (s := s) l ⟨.lost, none⟩) (by decide)
  have follow : RowsFollow { s.dem.rows with link := linkRow (holderLinkLost u.mode) s.odo.standstill } s
      (formLinkRow (raise .link u)) := by
    have f := w.follow.of_eq (s := s) (by simp [u]) (by simp [u]) (by simp [u]) (by simp [u])
    simpa [u] using f
  rw [e, mode]
  refine ⟨by simp [u], other, by cases l <;> rfl, (raisedAll_raise .link u).mono w.ports, follow, ?_, ?_⟩
  · exact (put.trans (.raise _ _ u (by decide))).trans (w.keeps.mono (by decide))
  · exact ports.trans (w.ports.mono (by decide) (.inl rfl))

/-- Settles O35: an UP link whose timer is up is lost (`silenceOn_lost`), and another is left. -/
theorem linkSilenceLosesTheLink : Obligations.LinkSilenceLosesTheLink := by
  intro l s
  refine ⟨silenceOn l s, rfl, fun h => ?_, fun n hu ht hn => ?_⟩
  · have idle : ¬((linkOf l s.mode).state = .up ∧ (linkOf l s.mode).timeUp = true) := by
      rintro ⟨up, time⟩
      obtain ⟨n, hn, h5⟩ := Link.timeUp_iff.mp time
      rcases h with h | h
      · exact h up
      · exact absurd (h n hn) (by omega)
    unfold silenceOn
    rw [if_neg idle]
  · have lost := silenceOn_lost hu (Link.timeUp_iff.mpr ⟨n, ht, hn⟩)
    rw [linkRow_eq] at lost
    exact lost

/-! ### The direction -/

/-- SET DIRECTION as the holder's command. -/
theorem ruleSetDirection_holder {p : Port} {s : State} (b : Byte) (h : isHolder p s = true) :
    ruleSetDirection p [b] s = match directionArg b.toNat with
      | none => (s, plainReply .badArgument)
      | some d => if moving s then (s, plainReply .notStandstill) else (changeDirection d s, okReply []) :=
  asHolder_holder _ h

/-- Settles O10: the tests of the rule in their order, and then the change of the direction
(`changeDirection_changed`). -/
theorem setDirectionAtStandstill : Obligations.SetDirectionAtStandstill := by
  intro p s ready holder
  let u := completeTelegram p s
  have asked : isHolder p u = true := by simpa [u] using holder
  have taken : ∀ b, exec (.setDirection p [b]) s = .next (holdAnswer p 0x12 (ruleSetDirection p [b] u)) := fun b =>
    request_ready 0x12 [b] 1 _ ready rfl
  have still : moving u = !s.odo.standstill := moving_completeTelegram p s
  have direction : u.mode.direction = s.mode.direction := (completeTelegram_mode p s).2.2.1
  refine ⟨fun b hb => ⟨_, taken b, .of_refuse ?_⟩, fun d => ⟨_, taken d.code, fun hm => .of_refuse ?_, ?_, ?_⟩⟩
  · rw [ruleSetDirection_holder b asked, directionArg_none hb]
  · rw [ruleSetDirection_holder _ asked, directionArg_code]
    simp [still, hm, u]
  · intro hs hd
    refine .of_refuse ?_
    rw [ruleSetDirection_holder _ asked, directionArg_code]
    simp [still, hs, changeDirection, direction, hd, u]
  · intro hs hd
    have rule : ruleSetDirection p [d.code] u = (changeDirection d u, okReply []) := by
      rw [ruleSetDirection_holder _ asked, directionArg_code]
      simp [still, hs]
    have c := changeDirection_changed d u
    have differs : d ≠ u.mode.direction := by rw [direction]; exact hd
    have odo := c.odo
    have limits := c.limits
    rw [if_neg differs, completeTelegram_odo] at odo
    rw [if_neg differs, completeTelegram_limits] at limits
    rw [rule]
    refine ⟨.of_rule (r := (changeDirection d u, okReply [])) (by decide) (c.keeps.mono (by decide))
      (c.ports.mono (by decide) (.inl rfl)), ?_, ?_, ?_,
      raisedAll.hold (r := (changeDirection d u, okReply [])) (c.event differs) p _, fun hp => ?_⟩
    · rw [holdAnswer_mode]; exact c.mode
    · rw [holdAnswer_odo]; exact odo
    · rw [holdAnswer_limits]; exact limits
    · rw [holdAnswer_limits] at hp
      have dropped : (changeDirection d u).limits.permit ≠ u.limits.permit := by
        rw [show u.limits = s.limits from completeTelegram_limits p s]
        exact hp
      exact raisedAll.hold (r := (changeDirection d u, okReply [])) (c.permitEvent dropped) p _

/-! ### Authority -/

theorem passedBlocks_noPorts : Block.ports ∉ passedBlocks := by decide

/-- A request answered with a passing of authority (R7 to R10). -/
theorem Answered.of_passed {p : Port} {code : Byte} {s : State} (heir : Holder) :
    Answered p code (okReply []) passedBlocks (.authority :: .permit :: rowEvents) s
      (holdAnswer p code (passAuthority heir (completeTelegram p s), okReply [])) ∧
    AuthorityPassed heir (completeTelegram p s)
      (holdAnswer p code (passAuthority heir (completeTelegram p s), okReply [])) := by
  obtain ⟨passed, keeps, ports⟩ := passAuthority_passed heir (completeTelegram p s)
  exact ⟨.of_rule (r := (passAuthority heir (completeTelegram p s), okReply [])) passedBlocks_noPorts keeps
    (ports.mono (fun _ => id) (.inl rfl)),
    AuthorityPassed.hold (r := (passAuthority heir (completeTelegram p s), okReply [])) passed p code⟩

theorem holderLinkLost_of_none {m : ModeUnit} (h : m.holder = .none) : holderLinkLost m = false := by
  simp [holderLinkLost, h]

/-- A request answered with authority taken while nobody had it (R6). -/
theorem Answered.of_taken {p : Port} {code : Byte} {s : State} (heir : Holder) :
    Answered p code (okReply []) (.dem :: .drive :: restBlocks) [.authority] s
      (holdAnswer p code (changeHolder heir (completeTelegram p s), okReply [])) ∧
    raisedAll .authority (holdAnswer p code (changeHolder heir (completeTelegram p s), okReply [])) ∧
    (holdAnswer p code (changeHolder heir (completeTelegram p s), okReply [])).mode =
      { (completeTelegram p s).mode with holder := heir } := by
  have keeps : ∀ u, Keeps (.dem :: .drive :: restBlocks) u (changeHolder heir u) := fun u b hb => by
    cases b <;> first | rfl | exact absurd hb (by decide)
  have ports : ∀ u, PortsKeep [.authority] (some p) u (changeHolder heir u) := fun u =>
    .raise_of .authority rfl (by decide)
  have raised : ∀ u, raisedAll .authority (changeHolder heir u) := fun u => raisedAll_raise _ _
  exact ⟨.of_rule (r := (changeHolder heir _, okReply [])) (by decide) (keeps _) (ports _),
    raisedAll.hold (r := (changeHolder heir _, okReply [])) (raised _) p _, holdAnswer_mode ..⟩

/-- Settles O9: each row of the table of TAKE AUTHORITY and of RELEASE AUTHORITY, a passing being
`Answered.of_passed`. -/
theorem authorityIsTakenAndReleased : Obligations.AuthorityIsTakenAndReleased := by
  refine ⟨fun p s ready => ⟨_, request_ready 0x10 [] 0 (ruleTakeAuthority p) ready rfl, ?_, ?_, ?_, ?_, ?_, ?_⟩,
    fun p s ready holder => ⟨_, request_ready 0x11 [] 0 (ruleReleaseAuthority p) ready rfl, ?_, ?_⟩⟩
  · rintro rfl
    exact .of_refuse rfl
  · intro hp hn
    have nobody : (completeTelegram p s).mode.holder = .none := (completeTelegram_mode p s).2.1.trans hn
    have rule : ruleTakeAuthority p (completeTelegram p s) =
        (changeHolder (holderOf p) (completeTelegram p s), okReply []) := by
      simp [ruleTakeAuthority, hp, nobody]
    rw [rule]
    exact Answered.of_taken _
  · intro holder
    have some : (completeTelegram p s).mode.holder ≠ .none := isHolder_ne_none (by simpa using holder)
    have trainline : p ≠ .c := by rintro rfl; simp [isHolder] at holder
    exact .of_refuse (by simp [ruleTakeAuthority, trainline, some, holder])
  · intro hp hn other kept
    have lost := (completeTelegram_holderLost p s other).trans kept
    have some : (completeTelegram p s).mode.holder ≠ .none := by rw [(completeTelegram_mode p s).2.1]; exact hn
    exact .of_refuse (by simp [ruleTakeAuthority, hp, some, other, lost])
  · intro hp other lost hs
    have some : (completeTelegram p s).mode.holder ≠ .none := by
      rw [(completeTelegram_mode p s).2.1]
      intro x
      simp [holderLinkLost_of_none x] at lost
    have lost' := (completeTelegram_holderLost p s other).trans lost
    exact .of_refuse (by simp [ruleTakeAuthority, hp, some, other, lost', moving, hs])
  · intro hp other lost hs
    have some : (completeTelegram p s).mode.holder ≠ .none := by
      rw [(completeTelegram_mode p s).2.1]
      intro x
      simp [holderLinkLost_of_none x] at lost
    have lost' := (completeTelegram_holderLost p s other).trans lost
    have rule : ruleTakeAuthority p (completeTelegram p s) =
        (passAuthority (holderOf p) (completeTelegram p s), okReply []) := by
      simp [ruleTakeAuthority, hp, some, other, lost', moving, hs]
    rw [rule]
    exact Answered.of_passed _
  · intro hs
    exact .of_refuse (by simp [ruleReleaseAuthority, asHolder, refuseIf, holder, moving, hs])
  · intro hs
    have rule : ruleReleaseAuthority p (completeTelegram p s) =
        (passAuthority .none (completeTelegram p s), okReply []) := by
      simp [ruleReleaseAuthority, asHolder, refuseIf, holder, moving, hs]
    rw [rule]
    exact Answered.of_passed _

/-! ### The mode -/

/-- The first condition of LINE that fails, as a list of them in their order (R3). -/
theorem lineCondition_eq (s : State) : lineCondition s = firstFailing
    [(s.store.result ≠ .profileLoaded, .profileNotLoaded), (s.odo.posState ≠ .known, .positionNotKnown),
     (s.mode.composition = none, .noComposition), (s.drive.testRecord ≠ .passed, .brakeTestNotPassed),
     (s.drive.faultState ≠ .none, .brakeFault)] := by
  simp only [lineCondition, firstFailing, decide_eq_true_eq]

theorem completeTelegram_faultState (p : Port) (s : State) :
    (completeTelegram p s).drive.faultState = s.drive.faultState := by
  have hh := completeTelegram_heard p s
  by_cases hup : ∀ l, trainlineOf p = some l → (linkOf l s.mode).state = .up
  · rw [(hh.quiet hup).2.1]
  · push Not at hup
    obtain ⟨l, hl, hn⟩ := hup
    exact (hh.follow l hl hn).drive.faultState

theorem committing_eq_false {s : State} : committing s = false ↔ s.store.commit = .idle := by
  unfold committing
  cases s.store.commit <;> simp

/-- SELECT MODE as the holder's command, of a mode that may be asked for. -/
theorem ruleSelectMode_holder {p : Port} {m : CarMode} {s : State} (h : isHolder p s = true) (hm : m ≠ .loading) :
    ruleSelectMode p [m.code] s =
      if moving s then (s, plainReply .notStandstill)
      else if committing s then (s, plainReply .busy)
      else if m = s.mode.mode then (s, okReply [])
      else if m = .line then
        match lineCondition s with
        | some c => (s, conditionReply c)
        | none => (changeMode .line s, okReply [])
      else (changeMode m s, okReply []) := by
  unfold ruleSelectMode
  rw [asHolder_holder _ h]
  simp only [byteAt_single, modeArg_code hm] <;> rfl

/-- What the change to LINE leaves (R3). -/
theorem changeMode_line (s : State) : (changeMode .line s).mode = { s.mode with mode := .line } ∧
    Keeps (.dem :: .drive :: restBlocks) s (changeMode .line s) ∧ PortsKeep [.mode] none s (changeMode .line s) ∧
    raisedAll .mode (changeMode .line s) :=
  ⟨rfl, fun b hb => by cases b <;> first | rfl | exact absurd hb (by decide), .raise_of .mode rfl (by decide),
    raisedAll_raise _ _⟩

/-- What the change to SHUNT leaves, the permit being made absent (R2, R4). -/
theorem changeMode_shunt (s : State) : (changeMode .shunt s).mode = { s.mode with mode := .shunt } ∧
    (changeMode .shunt s).limits = { s.limits with permit := none } ∧
    Keeps [.odo, .store, .sup, .dem, .drive, .doors, .radio, .memory, .pending] s (changeMode .shunt s) ∧
    PortsKeep [.mode, .permit] none s (changeMode .shunt s) ∧ raisedAll .mode (changeMode .shunt s) ∧
    (s.limits.permit ≠ none → raisedAll .permit (changeMode .shunt s)) := by
  let u := raise .mode { s with mode := { s.mode with mode := .shunt } }
  obtain ⟨keeps, ports, event⟩ := dropPermit_keeps u
  have e : changeMode .shunt s = dropPermit u := rfl
  have before : Keeps [.odo, .store, .sup, .dem, .drive, .doors, .radio, .memory, .pending] s u := fun b hb => by
    cases b <;> first | rfl | exact absurd hb (by decide)
  have raised : PortsKeep [.mode, .permit] none s u := .raise_of .mode rfl (by decide)
  rw [e]
  exact ⟨keeps .mode (by decide), dropPermit_limits u, before.trans (keeps.mono (by decide)),
    raised.trans (ports.mono (by decide) (.inl rfl)), (raisedAll_raise .mode _).mono ports, event⟩

/-- Settles O13: the tests of the rule in their order, the conditions of LINE as a list (`lineCondition_eq`), and the
changes to LINE and to SHUNT. -/
theorem selectModeByItsTable : Obligations.SelectModeByItsTable := by
  intro p s ready holder
  let u := completeTelegram p s
  have asked : isHolder p u = true := by simpa [u] using holder
  have taken : ∀ b, exec (.selectMode p [b]) s = .next (holdAnswer p 0x15 (ruleSelectMode p [b] u)) := fun b =>
    request_ready 0x15 [b] 1 _ ready rfl
  have still : moving u = !s.odo.standstill := moving_completeTelegram p s
  obtain ⟨mode, _, _, composition⟩ := completeTelegram_mode p s
  have store : u.store = s.store := completeTelegram_store p s
  have odo : u.odo = s.odo := completeTelegram_odo p s
  have fault : u.drive.faultState = s.drive.faultState := completeTelegram_faultState p s
  refine ⟨fun b h1 h2 => ⟨_, taken b, .of_refuse ?_⟩, fun m hm => ⟨_, taken m.code, ?_, ?_, ?_⟩⟩
  · unfold ruleSelectMode
    rw [asHolder_holder _ asked]
    simp only [byteAt_single, modeArg_none h1 h2] <;> rfl
  · intro hs
    exact .of_refuse (by rw [ruleSelectMode_holder asked hm]; simp [still, hs, u])
  · intro hs hc
    have busy : committing u = true := by
      rw [← Bool.not_eq_false, committing_eq_false, store]
      exact hc
    exact .of_refuse (by rw [ruleSelectMode_holder asked hm]; simp [still, hs, busy, u])
  intro hs hc
  have free : committing u = false := committing_eq_false.mpr (by rw [store]; exact hc)
  have rule := ruleSelectMode_holder asked hm
  simp only [still, hs, free, Bool.not_true, Bool.false_eq_true, if_false, show u.mode.mode = s.mode.mode from mode]
    at rule
  refine ⟨fun same => .of_refuse ?_, ?_, ?_, ?_⟩
  · rw [rule, if_pos same]
  · rintro rfl differs c failing
    have condition : lineCondition u = some c := by
      rw [lineCondition_eq, store, odo, fault, show u.mode.composition = s.mode.composition from composition]
      exact failing
    exact .of_refuse (by rw [rule, if_neg (Ne.symm differs), if_pos rfl, condition])
  · rintro rfl differs loaded known composed passed sound
    have condition : lineCondition u = none := by
      rw [lineCondition_eq, store, odo, fault, show u.mode.composition = s.mode.composition from composition]
      simp [firstFailing, loaded, known, composed, sound, show u.drive.testRecord = .passed from passed]
    obtain ⟨changed, keeps, ports, raised⟩ := changeMode_line u
    rw [rule, if_neg (Ne.symm differs), if_pos rfl, condition]
    exact ⟨.of_rule (r := (changeMode .line u, okReply [])) (by decide) keeps (ports.mono (by decide) (.inl rfl)),
      (holdAnswer_mode ..).trans changed, raisedAll.hold (r := (changeMode .line u, okReply [])) raised p _⟩
  · rintro rfl differs
    obtain ⟨changed, limits, keeps, ports, raised, dropped⟩ := changeMode_shunt u
    rw [show u.limits = s.limits from completeTelegram_limits p s] at limits dropped
    rw [rule, if_neg (Ne.symm differs), if_neg (by decide)]
    exact ⟨.of_rule (r := (changeMode .shunt u, okReply [])) (by decide) keeps (ports.mono (by decide) (.inl rfl)),
      (holdAnswer_mode ..).trans changed, (holdAnswer_limits ..).trans limits,
      raisedAll.hold (r := (changeMode .shunt u, okReply [])) raised p _,
      fun hp => raisedAll.hold (r := (changeMode .shunt u, okReply [])) (dropped hp) p _⟩

end Sys2Proof.Machine
end

section
/-!
SET COMPOSITION: the fields read back from its bytes, and what the record written brings with it (`CompositionPut`)
(R11, R125, R127, R166).
-/

namespace Sys2Proof.Machine

/-! ### The fields -/

/-- Reading past the front of a list. -/
theorem byteAt_append {l m : List Byte} {n : Nat} (h : l.length = n) (i : Nat) :
    byteAt (l ++ m) (n + i) = byteAt m i := by
  unfold byteAt
  rw [List.getD_append_right _ _ _ _ (by omega)]
  simp [h]

theorem orientationArg_none {n : Nat} (h : 2 ≤ n) : orientationArg n = none := by
  unfold orientationArg
  split <;> first | omega | rfl

theorem roleArg_none {n : Nat} (h : 2 ≤ n) : roleArg n = none := by
  unfold roleArg
  split <;> first | omega | rfl

/-- A composition whose two code bytes are no codes is none (R11). -/
theorem compositionArg_coded {train length offset : Nat} {o r : Byte} (h : 2 ≤ o.toNat ∨ 2 ≤ r.toNat) :
    compositionArg (natField 2 train ++ natField 2 length ++ natField 2 offset ++ [o, r]) = none := by
  have front : (natField 2 train ++ natField 2 length ++ natField 2 offset).length = 6 := by simp [natField_length]
  have orientation := byteAt_append (m := [o, r]) front 0
  have role := byteAt_append (m := [o, r]) front 1
  unfold compositionArg
  simp only [orientation, role]
  rcases h with h | h
  · rw [show orientationArg (byteAt [o, r] 0) = none from orientationArg_none h]
  · rw [show roleArg (byteAt [o, r] 1) = none from roleArg_none h]
    cases orientationArg (byteAt [o, r] 0) <;> rfl

/-- The code bytes of a composition (R11). -/
def compositionCodes (o : Orientation) (r : RadioRole) : List Byte :=
  [match o with | .normal => 0 | .reversed => 1, match r with | .transmit => 0 | .listen => 1]

/-- The fields of a composition in its bytes (R11). -/
theorem compositionArg_bytes {train length offset : Nat} (o : Orientation) (r : RadioRole) (ht : train < 65536)
    (hl : length < 65536) (ho : offset < 65536) :
    compositionArg (compositionBytes train length offset o r) =
      if 1 ≤ train ∧ train ≤ 4095 ∧ 50 ≤ length ∧ length ≤ 1200 ∧ offset ≤ length then
        some ⟨train, length, offset, o, r⟩ else none := by
  let codes := compositionCodes o r
  have e : compositionBytes train length offset o r =
      natField 2 train ++ (natField 2 length ++ (natField 2 offset ++ codes)) := by
    cases o <;> cases r <;> simp [compositionBytes, compositionCodes, codes]
  have first := word16_natField train (natField 2 length ++ (natField 2 offset ++ codes)) ht
  have second : word16 (natField 2 train ++ (natField 2 length ++ (natField 2 offset ++ codes))) 2 = length :=
    (word16_after_two train _ 0 ht).trans (word16_natField length _ hl)
  have third : word16 (natField 2 train ++ (natField 2 length ++ (natField 2 offset ++ codes))) 4 = offset :=
    ((word16_after_two train _ 2 ht).trans (word16_after_two length _ 0 hl)).trans (word16_natField offset _ ho)
  have code : ∀ i, byteAt (natField 2 train ++ (natField 2 length ++ (natField 2 offset ++ codes))) (i + 6) =
      byteAt codes i := fun i =>
    ((byteAt_after_two train _ (i + 4) ht).trans (byteAt_after_two length _ (i + 2) hl)).trans
      (byteAt_after_two offset _ i ho)
  have orientation : orientationArg (byteAt codes 0) = some o := by cases o <;> rfl
  have role : roleArg (byteAt codes 1) = some r := by cases o <;> cases r <;> rfl
  unfold compositionArg
  rw [e]
  simp only [first, second, third, code 0, code 1, orientation, role, within, Bool.and_eq_true, decide_eq_true_eq,
    and_assoc]

/-! ### The record written -/

/-- What a composition record written brings with it (R11, R125, R127, R166). -/
structure CompositionPut (c : Composition) (s t : State) : Prop where
  mode : t.mode = { s.mode with composition := some c }
  radio : t.radio = radioComposed c.role s.store.params.reportInterval s.radio
  modeEvent : raisedAll .mode t
  testEvent : raisedAll .brakeTest t
  drive : DriveKeeps s.drive t.drive
  untested : s.drive.source ≠ .test → t.drive = { s.drive with testRecord := .notRun false }
  tested : s.drive.source = .test → HoldTaken s.store.params (.notRun true) s.drive t.drive
  unstuck : s.drive.springStuck = true → t.drive.springStuck = false → raisedAll .brakeState t
  keeps : Keeps [.odo, .store, .limits, .sup, .dem, .doors, .memory, .pending] s t
  ports : PortsKeep [.mode, .brakeTest, .brakeState] none s t

theorem putComposition_put (c : Composition) (s : State) : CompositionPut c s (putComposition c s) := by
  let u := updRadio (radioComposed c.role s.store.params.reportInterval)
    (raise .mode { s with mode := { s.mode with composition := some c } })
  have e : putComposition c s = if s.drive.source = .test then abortTest .composition u
      else raise .brakeTest { u with drive := { u.drive with testRecord := .notRun false } } := rfl
  have put : Keeps [.odo, .store, .limits, .sup, .dem, .doors, .memory, .pending] s u := fun b hb => by
    cases b <;> first | rfl | exact absurd hb (by decide)
  have ports : PortsKeep [.mode, .brakeTest, .brakeState] none s u :=
    (PortsKeep.raise_of (s := s) .mode rfl (by decide)).trans (.of_eq rfl)
  have raised : raisedAll .mode u := raisedAll_raise _ _
  rw [e]
  by_cases test : s.drive.source = .test
  · obtain ⟨aborted, keeps, after⟩ := abortTest_aborted .composition u test
    rw [if_pos test]
    exact ⟨keeps .mode (by decide), keeps .radio (by decide), raised.mono after, aborted.event,
      (abortTest_cascade _ u).drive, fun h => absurd test h, fun _ => aborted.drive, aborted.unstuck,
      put.trans (keeps.mono (by decide)), ports.trans (after.mono (by decide) (.inl rfl))⟩
  · let v : State := { u with drive := { u.drive with testRecord := .notRun false } }
    have after : PortsKeep [.mode, .brakeTest, .brakeState] none u (raise .brakeTest v) :=
      .raise_of .brakeTest rfl (by decide)
    rw [if_neg test]
    refine ⟨rfl, rfl, raised.mono after, raisedAll_raise _ _, ⟨rfl, rfl, rfl, rfl, rfl, rfl, rfl, rfl⟩, fun _ => rfl,
      fun h => absurd h test, fun h k => ?_, fun b hb => ?_, ports.trans after⟩
    · rw [show (raise .brakeTest v).drive.springStuck = s.drive.springStuck from rfl, h] at k
      cases k
    · cases b <;> first | rfl | exact absurd hb (by decide)

/-- The radio after a composition, by its role (R166). -/
theorem radioComposed_eq (role : RadioRole) (interval : Nat) (r : Radio) : radioComposed role interval r = { r with
    reportDue := false
    reportTimer := if role = .transmit then some (0, interval) else none
    acks := if role = .transmit then r.acks else []
    transmission := if role = .transmit then r.transmission else r.transmission.map unqueued } := by
  cases role <;> rfl

/-- SET COMPOSITION as the holder's command. -/
theorem ruleSetComposition_holder {p : Port} {s : State} (args : List Byte) (h : isHolder p s = true) :
    ruleSetComposition p args s = match compositionArg args with
      | none => (s, plainReply .badArgument)
      | some c =>
        if notMode .shunt s then (s, plainReply .wrongMode)
        else if moving s then (s, plainReply .notStandstill)
        else (putComposition c s, okReply []) := asHolder_holder _ h

/-- Settles O11: the fields in their bytes, the tests in their order, and the record written (`putComposition_put`). -/
theorem setCompositionReplacesTheRecord : Obligations.SetCompositionReplacesTheRecord := by
  have taken : ∀ p args s, Ready p s → args.length = 8 → exec (.setComposition p args) s =
      .next (holdAnswer p 0x13 (ruleSetComposition p args (completeTelegram p s))) := fun p args s ready length =>
    request_ready 0x13 args 8 _ ready length
  refine ⟨fun p train length offset o r s ready holder codes => ⟨_, taken p _ s ready (by simp [natField_length]), ?_⟩,
    fun p train length offset o r s ready holder ht hl ho =>
      ⟨_, taken p _ s ready (by simp [compositionBytes, natField_length]), fun bad => ?_, fun good => ?_⟩⟩
  · have asked : isHolder p (completeTelegram p s) = true := by simpa using holder
    exact .of_refuse (by rw [ruleSetComposition_holder _ asked, compositionArg_coded codes])
  · have asked : isHolder p (completeTelegram p s) = true := by simpa using holder
    exact .of_refuse (by rw [ruleSetComposition_holder _ asked, compositionArg_bytes o r ht hl ho, if_neg bad])
  let u := completeTelegram p s
  have asked : isHolder p u = true := by simpa [u] using holder
  have rule := ruleSetComposition_holder (compositionBytes train length offset o r) asked
  have mode : u.mode.mode = s.mode.mode := (completeTelegram_mode p s).1
  simp only [compositionArg_bytes o r ht hl ho, if_pos good, moving_completeTelegram, notMode, mode, u] at rule
  refine ⟨fun hm => .of_refuse ?_, fun hm hs => .of_refuse ?_, fun hm hs => ?_⟩
  · rw [rule]; simp [hm]
  · rw [rule]; simp [hm, hs]
  simp only [hm, hs, decide_true, Bool.not_true, Bool.false_eq_true, if_false] at rule
  have put := putComposition_put ⟨train, length, offset, o, r⟩ u
  have radio := put.radio
  have tested := put.tested
  rw [radioComposed_eq, show u.radio = s.radio from completeTelegram_radio p s,
    show u.store = s.store from completeTelegram_store p s] at radio
  rw [show u.store = s.store from completeTelegram_store p s] at tested
  have idle : s.drive.source ≠ .test → u.drive.source ≠ .test := fun h k =>
    h ((completeTelegram_carried p s).running k).1
  rw [rule]
  let a : State × Reply := (putComposition ⟨train, length, offset, o, r⟩ u, okReply [])
  have drive : (holdAnswer p 0x13 a).drive = a.1.drive := holdAnswer_drive ..
  refine ⟨.of_rule (r := a) (by decide) put.keeps (put.ports.mono (fun _ => id) (.inl rfl)),
    (holdAnswer_mode ..).trans put.mode, raisedAll.hold (r := a) put.modeEvent p _,
    raisedAll.hold (r := a) put.testEvent p _, drive ▸ put.drive, fun h => drive.trans (put.untested (idle h)),
    fun h => drive ▸ tested h, fun h k => raisedAll.hold (r := a) (put.unstuck h (drive ▸ k)) p _,
    (holdAnswer_radio ..).trans radio⟩

end Sys2Proof.Machine
end

section
/-!
The loader's polling and its header: the fields read back from the header's bytes (`coveredHeader`), the tests in their
order (`headerFault`), and the header taken (R41, R44, R45).
-/

namespace Sys2Proof.Machine

/-- Bytes with the CRC that follows them are good where the two bytes are the CRC (Formats). -/
theorem crcGood_append (covered : List Byte) (c d : Byte) :
    crcGood (covered ++ [c, d]) = true ↔ [c, d] = crcField covered := by
  have cut : (covered ++ [c, d]).length - 2 = covered.length := by simp
  unfold crcGood
  rw [cut, List.drop_left, List.take_left, beq_iff_eq]

theorem byte_eq_iff {b : Byte} {n : Nat} (h : n < 256) : b.toNat = n ↔ b = BitVec.ofNat 8 n := by
  rw [BitVec.toNat_eq, BitVec.toNat_ofNat, Nat.mod_eq_of_lt h]

/-- The header's bytes before its CRC (Formats). -/
def coveredHeader (mark format line x y z : Byte) (revision count paramAddr segAddr : Nat) : List Byte :=
  [mark, format, line] ++ natField 2 revision ++ natField 2 count ++ natField 2 paramAddr ++
    natField 2 segAddr ++ [x, y, z]

section
variable {mark format line x y z : Byte} {revision count paramAddr segAddr : Nat}

theorem coveredHeader_length : (coveredHeader mark format line x y z revision count paramAddr segAddr).length = 14 := by
  simp [coveredHeader, natField_length]

variable (hr : revision < 65536) (hc : count < 65536) (hp : paramAddr < 65536) (hs : segAddr < 65536)
include hr hc hp hs

/-- The words of a header are read back. -/
theorem coveredHeader_words (rest : List Byte) :
    let b := coveredHeader mark format line x y z revision count paramAddr segAddr ++ rest
    word16 b 3 = revision ∧ word16 b 5 = count ∧ word16 b 7 = paramAddr ∧ word16 b 9 = segAddr := by
  simp only [coveredHeader, natField_two revision hr, natField_two count hc, natField_two paramAddr hp,
    natField_two segAddr hs]
  exact ⟨word16_bytes revision hr, word16_bytes count hc, word16_bytes paramAddr hp, word16_bytes segAddr hs⟩

/-- The tests of a header in their order (R41, R44). -/
theorem headerFault_bytes (c d : Byte) :
    headerFault (coveredHeader mark format line x y z revision count paramAddr segAddr ++ [c, d]) =
      if mark ≠ 0x3C then some .validMark
      else if [c, d] ≠ crcField (coveredHeader mark format line x y z revision count paramAddr segAddr) then
        some .headerCrc
      else if format ≠ 1 then some .format
      else if line = 0 then some .lineId
      else if paramAddr < 16 ∨ segAddr < 16 then some .address
      else none := by
  let b := coveredHeader mark format line x y z revision count paramAddr segAddr
  obtain ⟨_, _, param, seg⟩ := coveredHeader_words (mark := mark) (format := format) (line := line) (x := x) (y := y)
    (z := z) hr hc hp hs [c, d]
  have m : byteAt (b ++ [c, d]) 0 = 0x3C ↔ mark = 0x3C := byte_eq_iff (by decide)
  have f : byteAt (b ++ [c, d]) 1 = 1 ↔ format = 1 := byte_eq_iff (by decide)
  have l : byteAt (b ++ [c, d]) 2 = 0 ↔ line = 0 := byte_eq_iff (by decide)
  have crc : (!crcGood (b ++ [c, d])) = true ↔ [c, d] ≠ crcField b := by
    rw [Bool.not_eq_true', ← Bool.not_eq_true, crcGood_append]
  unfold headerFault
  simp only [ne_eq, m, f, l, crc, param, seg, b]

end

/-- The header taken into a store (R41). -/
def headerStore (b : List Byte) (x : Store) : Store := { x with
  lineId := byteAt b 2, revision := word16 b 3, phase := .parameters, loader := .parameterRead,
  headerCount := word16 b 5, headerParamAddr := word16 b 7, headerSegAddr := word16 b 9 }

theorem takeHeader_fault {b : List Byte} {why : LoadReason} {s : State} (h : headerFault b = some why) :
    NoProfile .header why s.store s (takeHeader b s) := by
  unfold takeHeader
  rw [h]
  exact endNoProfile_ended .header why s.store s

theorem takeHeader_overflow {b : List Byte} {s : State} (h : headerFault b = none) (hp : 65408 < word16 b 7) :
    NoProfile .parameters .overflow (headerStore b s.store) s (takeHeader b s) := by
  have e : takeHeader b s = endNoProfile .parameters .overflow { s with store := headerStore b s.store } := by
    unfold takeHeader
    rw [h]
    exact if_pos hp
  rw [e]
  exact endNoProfile_ended _ _ _ s

theorem takeHeader_taken {b : List Byte} {s : State} (h : headerFault b = none) (hp : word16 b 7 ≤ 65408) :
    StoreOnly (headerStore b s.store) s (takeHeader b s) := by
  have e : takeHeader b s = { s with store := headerStore b s.store } := by
    unfold takeHeader
    rw [h]
    exact if_neg (by omega)
  rw [e]
  exact .put _ s

theorem polling_iff {s : State} : polling s = true ↔ ∃ n, s.store.loader = .poll n := by
  unfold polling
  cases s.store.loader <;> simp

theorem LoaderOp.timeUp_iff {l : LoaderOp} : l.timeUp = true ↔ ∃ n, l = .poll n ∧ 25 ≤ n := by
  unfold LoaderOp.timeUp Config.memoryBusyLimit
  cases l <;> simp

/-- Settles O51: the poll and its time, and the header by its tests in their order (`headerFault_bytes`). -/
theorem loaderTakesTheHeader : Obligations.LoaderTakesTheHeader := by
  intro s
  refine ⟨fun status => ⟨_, rfl, fun h => if_neg ?_, fun n hn free => ?_⟩,
    ⟨_, rfl, fun h => if_neg ?_, fun n hn hl => ?_⟩, fun bytes h => ?_, ?_⟩
  · rw [Bool.and_eq_true, polling_iff, memoryBusy, Bool.not_eq_true']
    rintro ⟨⟨n, hn⟩, free⟩
    rcases h with h | h
    · exact h n hn
    · rw [h] at free
      cases free
  · rw [if_pos (by rw [polling_iff.mpr ⟨n, hn⟩, memoryBusy, free]; rfl)]
    exact .put _ s
  · rw [LoaderOp.timeUp_iff]
    rintro ⟨n, hn, h25⟩
    exact absurd (h n hn) (by omega)
  · rw [if_pos (LoaderOp.timeUp_iff.mpr ⟨n, hn, hl⟩)]
    exact endNoProfile_ended .header .memoryBusy s.store s
  · have idle : ¬(s.store.loader = .headerRead ∧ bytes.length = 16) := by
      rintro ⟨read, length⟩
      rcases h with h | h
      · exact h read
      · exact h length
    exact congrArg Host.Outcome.next (if_neg idle)
  · intro mark format line x y z c d revision count paramAddr segAddr covered hdr hr hc hp hs loader covers hdrs
    have bytes : covered = coveredHeader mark format line x y z revision count paramAddr segAddr := covers
    subst bytes
    let b := coveredHeader mark format line x y z revision count paramAddr segAddr ++ [c, d]
    obtain ⟨rev, cnt, param, seg⟩ := coveredHeader_words (mark := mark) (format := format) (line := line) (x := x)
      (y := y) (z := z) hr hc hp hs [c, d]
    have store : hdr = headerStore b s.store := by
      rw [hdrs, headerStore, rev, cnt, param, seg]
      rfl
    have taken : exec (.headerReadEnd b) s = .next (takeHeader b s) :=
      congrArg Host.Outcome.next (if_pos ⟨loader, by simp [b, coveredHeader_length]⟩)
    have tests := headerFault_bytes (mark := mark) (format := format) (line := line) (x := x) (y := y) (z := z)
      hr hc hp hs c d
    refine ⟨_, taken, fun hm => takeHeader_fault ?_, fun hm bad => takeHeader_fault ?_, fun hm good =>
      ⟨fun hf => takeHeader_fault ?_, fun hf hl => takeHeader_fault ?_, fun hf hl ha => takeHeader_fault ?_,
        fun hf hl ha hg hn => ?_, fun hf hl hg hn => ?_⟩⟩
    · rw [tests, if_pos hm]
    · rw [tests, if_neg (not_not.mpr hm), if_pos bad]
    · rw [tests, if_neg (not_not.mpr hm), if_neg (not_not.mpr good), if_pos hf]
    · rw [tests, if_neg (not_not.mpr hm), if_neg (not_not.mpr good), if_neg (not_not.mpr hf), if_pos hl]
    · rw [tests, if_neg (not_not.mpr hm), if_neg (not_not.mpr good), if_neg (not_not.mpr hf), if_neg hl, if_pos ha]
    · rw [if_neg (not_not.mpr hm), if_neg (not_not.mpr good), if_neg (not_not.mpr hf), if_neg hl, if_neg (by omega)]
        at tests
      rw [store]
      exact takeHeader_taken tests (by rw [param]; exact hn)
    · rw [if_neg (not_not.mpr hm), if_neg (not_not.mpr good), if_neg (not_not.mpr hf), if_neg hl, if_neg (by omega)]
        at tests
      rw [store]
      exact takeHeader_overflow tests (by rw [param]; exact hn)

end Sys2Proof.Machine
end

section
/-!
The two resets: what a reset finds in the inputs (`freshState_found`), what each leaves of the memory, and what a
RESTART keeps (R15, R16, R54, R93, R130, R150, R171).
-/

namespace Sys2Proof.Machine

/-! ### The doors and the demands after a reset -/

theorem Door.found_state (side : LineSide) (x : DoorInputs) : (Door.found side x).state =
    if x.isolation then .isolated else if x.closed && x.locked then .closedLocked else .fault := by
  unfold Door.found
  simp only
  split
  · rfl
  split
  · rfl
  · rfl

/-- What a door is found with at a reset besides its state and cause (R130). -/
theorem Door.found_rest (side : LineSide) (x : DoorInputs) : (Door.found side x).inputs = x ∧
    (Door.found side x).lineSide = side ∧ (Door.found side x).timer = none ∧ (Door.found side x).linePosition = none ∧
    (Door.found side x).obstacles = 0 ∧ (Door.found side x).openRequest = false ∧
    (Door.found side x).lockLost = false := by
  unfold Door.found
  simp only
  split
  · exact ⟨rfl, rfl, rfl, rfl, rfl, rfl, rfl⟩
  split
  · exact ⟨rfl, rfl, rfl, rfl, rfl, rfl, rfl⟩
  · exact ⟨rfl, rfl, rfl, rfl, rfl, rfl, rfl⟩

theorem Door.found_cause (side : LineSide) (x : DoorInputs) : (Door.found side x).cause =
    if (Door.found side x).state = .fault then some .atReset else none := by
  rw [Door.found_state]
  unfold Door.found
  simp only
  split
  · rfl
  split
  · rfl
  · rfl

/-- The line side of a door after a reset: that of the default door map (R131). -/
def resetSide : DoorId → LineSide
  | .d1 => .left
  | .d2 => .left
  | .d3 => .right
  | .d4 => .right

theorem doorOf_resetDoors (d : DoorId) (i : CarInputs) :
    doorOf d (resetDoors i).door = Door.found (resetSide d) (inputOf d i.doors) := by
  cases d <;> rfl

/-- The rows after a reset, DOORS and ALARM as the inputs have them (R93). -/
theorem resetRows_kind (secured : Bool) (a : AlarmState) (x : Row) : (resetRows secured a).kind x = match x with
    | .doors => if secured then .none else .emergency
    | .alarm => alarmRow a false
    | _ => .none := by
  cases x <;> rfl

/-- A reset finds the inputs as they stand (R93, R130). -/
theorem freshState_found (i : CarInputs) : ResetFound i (freshState i) := by
  let t := freshState i
  have door : ∀ d, doorOf d t.doors.door = Door.found (resetSide d) (inputOf d i.doors) := fun d =>
    doorOf_resetDoors d i
  have rest := fun d => Door.found_rest (resetSide d) (inputOf d i.doors)
  refine ⟨rfl, rfl, rfl, rfl, rfl, fun x => ?_, rfl, rfl, rfl, fun d => ?_, fun d => ?_, fun d => ?_, fun d => ?_,
    fun d => ?_⟩
  · refine (resetRows_kind t.doors.loopClosed t.dem.alarm x).trans ?_
    have alarm : t.dem.alarm = if alarmPulled i.handles then .active else .clear := rfl
    rw [alarm]
    cases x <;> cases alarmPulled i.handles <;> rfl
  · rw [door]
    exact (rest d).1
  · rw [door]
    exact Door.found_state _ _
  · rw [door]
    exact Door.found_cause _ _
  · obtain ⟨_, side, _⟩ := rest d
    rw [door, side]
    cases d <;> rfl
  · obtain ⟨_, _, timer, position, obstacles, request, lock⟩ := rest d
    rw [door]
    exact ⟨timer, position, obstacles, request, lock⟩

theorem ResetFound.of_eq {i : CarInputs} {s t : State} (h : ResetFound i s) (dem : t.dem = s.dem)
    (doors : t.doors = s.doors) : ResetFound i t := by
  obtain ⟨latch, driven, traction, handles, alarm, rows, loop, left, right, inputs, state, cause, side, stopped⟩ := h
  constructor <;> simp only [dem, doors] <;> assumption

/-! ### The page in progress -/

/-- A commit abandoned by power-on loses its page once its program has begun (R54). -/
theorem abandonByPowerOn_lost {s t : State} (h : t.memory = (abandonByPowerOn s).memory) : PageLost s t := by
  refine ⟨fun page n hc => ?_, fun hc => ?_⟩
  · rw [h]
    unfold abandonByPowerOn
    rcases hc with hc | hc <;> rw [hc] <;> rfl
  · rw [h]
    unfold abandonByPowerOn
    rcases hc with hc | ⟨page, hc⟩ <;> rw [hc]

/-- A commit abandoned by a restart leaves its page as far as it was sent (R54). -/
theorem abandonByRestart_left {s t : State} (h : t.memory = (abandonByRestart s).memory) : PageLeft s t := by
  refine ⟨fun page n hc => ?_, fun page n hc => ?_, fun hc => ?_⟩
  · rw [h]
    unfold abandonByRestart
    rw [hc]
    rfl
  · rw [h]
    unfold abandonByRestart
    rw [hc]
    rfl
  · rw [h]
    unfold abandonByRestart
    rcases hc with hc | ⟨page, hc⟩ <;> rw [hc]

theorem PageLeft.of_eq {s u t : State} (h : PageLeft u t) (store : u.store = s.store) (memory : u.memory = s.memory) :
    PageLeft s t := by
  obtain ⟨sent, sending, untouched⟩ := h
  rw [store, memory] at sent sending untouched
  exact ⟨sent, sending, untouched⟩

/-- Settles O7: `freshState_found`, and the page (`abandonByPowerOn_lost`). -/
theorem powerOnResetsEverything : Obligations.PowerOnResetsEverything := by
  intro i s
  refine ⟨poweredState i s, rfl, rfl, rfl, rfl, rfl, rfl, rfl, rfl, fun p => ?_, (freshState_found i).of_eq rfl rfl, rfl,
    abandonByPowerOn_lost rfl⟩
  cases p <;> rfl

/-! ### RESTART -/

/-- Hearing a telegram pulls no handle (R103). -/
theorem completeTelegram_handles (p : Port) (s : State) : (completeTelegram p s).dem.handles = s.dem.handles := by
  have hh := completeTelegram_heard p s
  by_cases hup : ∀ l, trainlineOf p = some l → (linkOf l s.mode).state = .up
  · rw [(hh.quiet hup).1]
  · push Not at hup
    obtain ⟨l, hl, hn⟩ := hup
    exact (hh.follow l hl hn).dem.handles

theorem portOf_restartedState (q : Port) (s : State) : portOf q (restartedState s) = (portOf q s).restarted := by
  cases q <;> rfl

/-- A port after an answer is held on one of them. -/
theorem portOf_holdAnswer (p q : Port) (code : Byte) (r : State × Reply) : portOf q (holdAnswer p code r) =
    if q = p then { portOf q r.1 with held := some ⟨code, r.2, 0⟩ } else portOf q r.1 := by
  unfold holdAnswer
  split
  · rename_i same
    rw [same, portOf_updPort]
  · rename_i other
    rw [portOf_updPort_other p q _ _ other]

/-- The ports after an answered restart (R15, R171). -/
theorem portOf_restarted (p q : Port) (code : Byte) (a : Reply) (u : State) :
    let r := portOf q (holdAnswer p code (restartedState u, a))
    r.raw = 0 ∧ r.mask = 0 ∧ r.notice = false ∧ r.rx = (portOf q u).rx ∧
      r.framingErrors = (portOf q u).framingErrors ∧ r.crcErrors = (portOf q u).crcErrors ∧
      r.discarded = (portOf q u).discarded := by
  simp only [portOf_holdAnswer, portOf_restartedState]
  split <;> exact ⟨rfl, rfl, rfl, rfl, rfl, rfl, rfl⟩

/-- Settles O8: RESTART by its tests; of what it keeps, the ports (`portOf_restarted`) and the page
(`abandonByRestart_left`). -/
theorem restartResetsAllButWhatItKeeps : Obligations.RestartResetsAllButWhatItKeeps := by
  intro p s ready
  let u := completeTelegram p s
  have taken : exec (.restart p []) s = .next (holdAnswer p 0x16 (ruleRestart p u)) :=
    request_ready 0x16 [] 0 (ruleRestart p) ready rfl
  have holder : u.mode.holder = s.mode.holder := (completeTelegram_mode p s).2.1
  have asked : isHolder p u = isHolder p s := isHolder_completeTelegram p p s
  have still : moving u = !s.odo.standstill := moving_completeTelegram p s
  refine ⟨fun h => ?_, fun some other => ⟨_, taken, .of_refuse ?_⟩, fun own hs => ⟨_, taken, .of_refuse ?_⟩⟩
  · have rule : ruleRestart p u = (restartedState u, okReply []) := by
      unfold ruleRestart
      rcases h with h | ⟨own, hs⟩
      · rw [if_pos (holder.trans h)]
      · simp [asked, own, still, hs]
    have heard := completeTelegram_heard p s
    let t := holdAnswer p 0x16 (restartedState u, okReply [])
    have dem : t.dem = resetDemands (inputsNow u) := holdAnswer_dem ..
    refine ⟨t, inputsNow u, by rw [taken, rule], ?_, fun q hq => ?_, holdAnswer_mode .., holdAnswer_odo ..,
      holdAnswer_store .., holdAnswer_limits .., holdAnswer_sup ..,
      holdAnswer_drive .., ?_, fun q => ?_, completeTelegram_handles p s,
      fun d => ?_, (freshState_found (inputsNow u)).of_eq dem (holdAnswer_doors ..), ?_, ?_⟩
    · rw [portOf_holdAnswer, if_pos rfl]
    · rw [portOf_holdAnswer, if_neg hq, portOf_restartedState]
      exact heard.held q
    · refine (holdAnswer_radio ..).trans ?_
      rw [← show u.radio = s.radio from completeTelegram_radio p s]
      rfl
    · obtain ⟨raw, mask, notice, rx, framing, crc, discarded⟩ := portOf_restarted p q 0x16 (okReply []) u
      obtain ⟨sameFraming, sameCrc, sameDiscarded⟩ := heard.errors q
      exact ⟨raw, mask, notice, rx, framing.trans sameFraming, crc.trans sameCrc, discarded.trans sameDiscarded⟩
    · have doors : u.doors = s.doors := completeTelegram_doors p s
      rw [← doors]
      cases d <;> rfl
    · exact (holdAnswer_pending ..).trans (completeTelegram_pending p s)
    · have left : PageLeft u t := abandonByRestart_left (holdAnswer_memory ..)
      exact left.of_eq (completeTelegram_store p s) (completeTelegram_memory p s)
  · have some' : u.mode.holder ≠ .none := by rw [holder]; exact some
    simp [ruleRestart, some', asked, other, notHolderReply_eq, u]
  · have some' : u.mode.holder ≠ .none := isHolder_ne_none (asked.trans own)
    simp [ruleRestart, some', asked, own, still, hs, u]

end Sys2Proof.Machine
end

section
/-!
What every telegram meets: it is heard, discarded while a request is held, and else judged by its code, its length, the
mode and its right (R13, R172 to R175).
-/

namespace Sys2Proof.Machine

/-! ### The code and its length -/

/-- The rule of a code has the length of the table of requests, and no other code has a rule (R174). -/
theorem ruleOf_length (code : Byte) (p : Port) (args : List Byte) :
    (ruleOf code p args).map Prod.fst = (telegramLengths.find? fun x => x.1 = code).map Prod.snd := by
  have named : ∀ k : Nat, code.toNat = k → code = BitVec.ofNat 8 k := by
    rintro _ rfl
    exact BitVec.eq_of_toNat_eq (by simp)
  unfold ruleOf
  split
  case h_35 =>
    have strange : code.toNat ∉ telegramLengths.map fun x => x.1.toNat := by
      simp only [telegramLengths, List.map_cons, List.map_nil, List.mem_cons, List.not_mem_nil, or_false, not_or]
      refine ⟨?_, ?_, ?_, ?_, ?_, ?_, ?_, ?_, ?_, ?_, ?_, ?_, ?_, ?_, ?_, ?_, ?_, ?_, ?_, ?_, ?_, ?_, ?_, ?_, ?_, ?_, ?_,
        ?_, ?_, ?_, ?_, ?_, ?_, ?_⟩ <;> assumption
    have unfound : (telegramLengths.find? fun x => x.1 = code) = none := by
      rw [List.find?_eq_none]
      intro x hx same
      rw [decide_eq_true_eq] at same
      exact strange (List.mem_map.mpr ⟨x, hx, by rw [same]⟩)
    rw [unfound]
    rfl
  all_goals
    rename_i k
    rw [named _ k]
    rfl

/-- An entry of the table of requests is the one found for its code. -/
theorem telegramLengths_find {code : Byte} {n : Nat} (h : (code, n) ∈ telegramLengths) :
    (telegramLengths.find? fun x => x.1 = code) = some (code, n) := by
  have all : ∀ x ∈ telegramLengths, (telegramLengths.find? fun y => y.1 = x.1) = some x := by decide
  exact all _ h

theorem ruleOf_of_find {code : Byte} {n : Nat} (p : Port) (args : List Byte)
    (h : (telegramLengths.find? fun x => x.1 = code) = some (code, n)) :
    ∃ rule, ruleOf code p args = some (n, rule) := by
  have length := ruleOf_length code p args
  rw [h] at length
  cases hr : ruleOf code p args with
  | none => rw [hr] at length; cases length
  | some r =>
    rw [hr] at length
    cases length
    exact ⟨r.2, rfl⟩

/-- The commands that only the holder may give are under his right (R175). -/
theorem ruleOf_holderCommand {code : Byte} (p : Port) (args : List Byte) (h : code ∈ holderCommands) :
    ∃ n rule, ruleOf code p args = some (n, asHolder p rule) := by
  simp only [holderCommands, List.mem_cons, List.not_mem_nil, or_false] at h
  rcases h with rfl | rfl | rfl | rfl | rfl | rfl | rfl | rfl | rfl | rfl | rfl | rfl | rfl | rfl | rfl | rfl | rfl |
    rfl | rfl | rfl <;> exact ⟨_, _, rfl⟩

/-- The commands that the holder or port C may give are under that right (R175). -/
theorem ruleOf_panelCommand {code : Byte} (p : Port) (args : List Byte) (h : code ∈ [(0x31 : Byte), 0x32]) :
    ∃ n rule, ruleOf code p args = some (n, asHolderOrPanel p rule) := by
  simp only [List.mem_cons, List.not_mem_nil, or_false] at h
  rcases h with rfl | rfl <;> exact ⟨_, _, rfl⟩

/-! ### A telegram taken -/

theorem takeTelegram_free {p : Port} {s : State} (code : Byte) (args : List Byte) (h : (portOf p s).held = none) :
    takeTelegram p code args s = holdAnswer p code (judgeByCode p code args (completeTelegram p s)) := by
  unfold takeTelegram takeRequest
  simp [completeTelegram_held, h]

theorem takeTelegram_discarded {p : Port} {s : State} (code : Byte) (args : List Byte)
    (h : (portOf p s).held.isSome = true) :
    takeTelegram p code args s = discardRequest p (completeTelegram p s) := by
  unfold takeTelegram takeRequest
  simp [completeTelegram_held, h]

theorem judgeByCode_of_rule {p : Port} {code : Byte} {args : List Byte} {n : Nat} {rule : Rule}
    (h : ruleOf code p args = some (n, rule)) : judgeByCode p code args = judge code args n rule := by
  funext s
  unfold judgeByCode
  rw [h]

/-- A telegram that finds nothing in its way has its rule's effect and answer. -/
theorem takeTelegram_ready {p : Port} {code : Byte} {args : List Byte} {n : Nat} {rule : Rule} {s : State}
    (ready : Ready p s) (hr : ruleOf code p args = some (n, rule)) (hn : args.length = n) :
    takeTelegram p code args s = holdAnswer p code (rule (completeTelegram p s)) := by
  obtain ⟨free, loaded⟩ := ready
  have mode : (completeTelegram p s).mode.mode ≠ .loading := by rw [(completeTelegram_mode p s).1]; exact loaded
  rw [takeTelegram_free code args free, judgeByCode_of_rule hr]
  simp [judge, hn, mode]

/-- The table's length is that of the rule. -/
theorem rule_length {p : Port} {code : Byte} {args : List Byte} {n m : Nat} {rule : Rule}
    (h : (code, n) ∈ telegramLengths) (hr : ruleOf code p args = some (m, rule)) : m = n := by
  have length := ruleOf_length code p args
  rw [hr, telegramLengths_find h] at length
  exact Option.some.inj length

/-- Settles O5: the tests before the rule by `judge`, and the right of the rule by `ruleOf_holderCommand` and
`ruleOf_panelCommand`. -/
theorem requestsAreJudgedInOrder : Obligations.RequestsAreJudgedInOrder := by
  refine ⟨fun p code args s free => ⟨fun unfound => ⟨_, rfl, ?_⟩, fun n found length => ?_,
    fun n found length loading other => ?_⟩, fun p code n args s ready other entry length =>
    ⟨fun owned => ?_, fun shared trainline => ?_, ?_⟩⟩
  · have unknown : ruleOf code p args = none := by
      have h := ruleOf_length code p args
      rw [unfound] at h
      exact Option.map_eq_none_iff.mp h
    rw [takeTelegram_free code args free]
    exact .of_refuse (by simp [judgeByCode, unknown])
  · obtain ⟨rule, hr⟩ := ruleOf_of_find p args found
    rw [takeTelegram_free code args free, judgeByCode_of_rule hr]
    exact .of_refuse (by simp [judge, length])
  · obtain ⟨rule, hr⟩ := ruleOf_of_find p args found
    have mode : (completeTelegram p s).mode.mode = .loading := (completeTelegram_mode p s).1.trans loading
    rw [takeTelegram_free code args free, judgeByCode_of_rule hr]
    refine .of_refuse ?_
    unfold judge
    rw [if_neg (not_not.mpr length), if_pos ⟨mode, other⟩]
  · obtain ⟨m, rule, hr⟩ := ruleOf_holderCommand p args owned
    rw [takeTelegram_ready ready hr (length.trans (rule_length entry hr).symm)]
    refine .of_refuse ?_
    rw [asHolder_refused rule (by simpa using other), notHolderReply_eq]
  · obtain ⟨m, rule, hr⟩ := ruleOf_panelCommand p args shared
    rw [takeTelegram_ready ready hr (length.trans (rule_length entry hr).symm)]
    exact .of_refuse (by simp [asHolderOrPanel, other, trainline])
  · rintro rfl rfl
    have hr : ruleOf 0x10 .c args = some (0, ruleTakeAuthority .c) := rfl
    rw [takeTelegram_ready ready hr (length.trans (rule_length entry hr).symm)]
    exact .of_refuse rfl

/-! ### A telegram heard -/

theorem linkOf_congr {m n : ModeUnit} (a : n.linkA = m.linkA) (b : n.linkB = m.linkB) (l : LinkPort) :
    linkOf l n = linkOf l m := by
  cases l
  · exact a
  · exact b

/-- The mode as it was but for what a rule may change of it, which is neither link. -/
theorem linkOf_of_mode {s t : State} {x : Link} {l : LinkPort} (h : linkOf l s.mode = x)
    (a : t.mode.linkA = s.mode.linkA := by rfl) (b : t.mode.linkB = s.mode.linkB := by rfl) : linkOf l t.mode = x :=
  (linkOf_congr a b l).trans h

theorem ModeKept.link {s t : State} {x : Link} {l : LinkPort} (k : ModeKept s t) (h : linkOf l s.mode = x) :
    linkOf l t.mode = x := by
  rw [k.mode]
  exact h

theorem beginTest_mode (s : State) : (beginTest s).mode = s.mode := by
  simp [beginTest, beginStep, writeRecord]

/-- No rule changes a link (R13, R15). -/
theorem link_rulesKeep (l : LinkPort) (x : Link) : RulesKeep fun s => linkOf l s.mode = x where
  aside a h := a.modeKept.link h
  taken _ _ _ h := linkOf_of_mode h
  passed {p s} _ h := by
    have mode := (passAuthority_passed (holderOf p) s).1.mode
    exact linkOf_of_mode h (by rw [mode]) (by rw [mode])
  turned {d s} _ h := by
    have mode := (changeDirection_changed d s).mode
    exact linkOf_of_mode h (by rw [mode]) (by rw [mode])
  composed {c s} _ h := by
    have mode := (putComposition_put c s).mode
    exact linkOf_of_mode h (by rw [mode]) (by rw [mode])
  selected {m s} _ hm _ h := by
    cases m with
    | loading => exact absurd rfl hm
    | line => exact linkOf_of_mode h
    | shunt =>
      have mode := (changeMode_shunt s).1
      exact linkOf_of_mode h (by rw [mode]) (by rw [mode])
  restarted h := linkOf_of_mode h
  begun {s} _ h := by
    rw [beginTest_mode]
    exact h
  permitted _ _ _ h := h
  unpermitted {s} h := by
    have mode : (dropPermit s).mode = s.mode := (dropPermit_keeps s).1 .mode (by decide)
    rw [mode]
    exact h
  serviceAsked _ h := (writeRows_modeKept _ _).link h
  emergencyAsked h := (writeRows_modeKept _ _).link h
  holdEnded h := (endHold_modeKept _).link h
  unlatched _ h := (clearLatch_modeKept _).link h
  doorMoved h := (updDoor_modeKept _ _ _).link h
  doorsPut h := (putDoors_modeKept _ _ _ _).link h
  doorsPlaced h := h
  alarmAsked h := (setAlarm_modeKept _ _).link h
  stopsPut h := (putStops_modeKept _ _).link h

/-- Settles O6: the hearing (`completeTelegram_heard`), which no rule undoes (`link_rulesKeep`), and the discarding. -/
theorem everyValidTelegramIsHeard : Obligations.EveryValidTelegramIsHeard := by
  refine ⟨⟨completeTelegram_heard, fun p l code args s hl =>
    (link_rulesKeep l _).telegram ((completeTelegram_heard p s).up l hl)⟩, fun p code args s busy => ?_⟩
  let u := completeTelegram p s
  have discarded : (portOf p u).discarded = (portOf p s).discarded := ((completeTelegram_heard p s).errors p).2.2
  refine ⟨_, rfl, rfl, ?_⟩
  rw [takeTelegram_discarded code args busy]
  have port : portOf p (discardRequest p u) = { portOf p u with discarded := satInc (portOf p u).discarded } :=
    portOf_updPort p _ u
  refine ⟨?_, ?_, ?_, fun q hq => portOf_updPort_other p q _ u hq, fun b hb => ?_⟩
  · rw [port]
    exact completeTelegram_held p p s
  · rw [port, ← discarded]
    rfl
  · rw [port]
  · cases p <;> cases b <;> first | rfl | exact absurd hb (by decide)

end Sys2Proof.Machine
end

section
/-!
The passing of a millisecond: when each timer, counted on, is up (`…tick_timeUp`), and which expiries are so due
(`mem_due`) (R13, R41, R52, R115 to R123, R133, R156, R166, R167, R172, R173).
-/

namespace Sys2Proof.Machine

/-! ### Timers counted on -/

theorem Link.tick_timeUp (x : Link) : x.tick.timeUp = true ↔ ∃ n, x.timer = some n ∧ 500 ≤ n + 1 := by
  unfold Link.timeUp Link.tick Config.linkSilence
  cases x.timer <;> simp

theorem ServiceCheck.tick_timeUp (c : ServiceCheck) :
    c.tick.timeUp = true ↔ c.outcome = .running ∧ c.limit ≤ c.timer + 1 := by
  unfold ServiceCheck.timeUp ServiceCheck.tick
  by_cases h : c.outcome = .running <;> simp [h]

theorem SpringCheck.tick_releaseUp (c : SpringCheck) :
    c.tick.releaseUp = true ↔ c.outcome = .releaseRunning ∧ c.limit ≤ c.timer + 1 := by
  unfold SpringCheck.releaseUp SpringCheck.tick SpringCheck.runs
  cases h : c.outcome <;> simp [h]

theorem SpringCheck.tick_applyUp (c : SpringCheck) :
    c.tick.applyUp = true ↔ c.outcome = .applyRunning ∧ c.limit ≤ c.timer + 1 := by
  unfold SpringCheck.applyUp SpringCheck.tick SpringCheck.runs
  cases h : c.outcome <;> simp [h]

theorem BrakeDrive.tick_stepUp (d : BrakeDrive) :
    d.tick.testStep.any TestStep.timeUp = true ↔ ∃ x, d.testStep = some x ∧ x.limit ≤ x.timer + 1 := by
  unfold BrakeDrive.tick TestStep.timeUp
  cases d.testStep <;> simp

theorem Door.tick_timeUp (d : Door) : d.tick.timeUp = true ↔ ∃ x, d.timer = some x ∧ x.2 ≤ x.1 + 1 := by
  unfold Door.timeUp Door.tick
  cases d.timer <;> simp

theorem Radio.tick_tickUp (r : Radio) :
    r.tick.tickUp = true ↔ r.silenceRunning = true ∧ 1000 ≤ r.silenceTick + 1 := by
  unfold Radio.tickUp Radio.tick
  cases r.silenceRunning <;> simp

theorem Radio.tick_reportUp (r : Radio) :
    r.tick.reportUp = true ↔ ∃ x, r.reportTimer = some x ∧ 1000 * x.2 ≤ x.1 + 1 := by
  unfold Radio.reportUp Radio.tick
  cases r.reportTimer <;> simp

theorem Radio.tick_windowUp (r : Radio) :
    r.tick.windowUp = true ↔ ∃ w, r.window = some w ∧ 500 ≤ w.timer + 1 := by
  unfold Radio.windowUp Radio.tick Config.uplinkWindow
  cases r.window <;> simp

theorem LoaderOp.tick_timeUp (l : LoaderOp) : l.tick.timeUp = true ↔ ∃ n, l = .poll n ∧ 25 ≤ n + 1 := by
  rw [LoaderOp.timeUp_iff]
  cases l <;> simp [LoaderOp.tick]

theorem CommitState.tick_timeUp (c : CommitState) : c.tick.timeUp = true ↔
    ∃ page n, (c = .writing page (.program n) ∨ c = .writing page (.poll n)) ∧ 25 ≤ n + 1 := by
  unfold CommitState.timeUp Config.memoryBusyLimit
  cases c with
  | idle => simp [CommitState.tick]
  | writing page op => cases op <;> simp [CommitState.tick]

theorem RxState.tick_timeUp (r : RxState) : r.tick.timeUp = true ↔ ∃ b n, r = .receiving b n ∧ 2 ≤ n + 1 := by
  unfold RxState.timeUp Config.gapLimit
  cases r <;> simp [RxState.tick]

theorem PortRec.tick_answerDone (r : PortRec) : answerDone r.tick = true ↔
    ∃ h, r.held = some h ∧ 100 * (telegramBytes h.body).length ≤ 2304 * (h.sending + 1) := by
  unfold answerDone PortRec.tick
  cases r.held with
  | none => simp
  | some h =>
    have body : ({ h with sending := h.sending + 1 } : Held).body = h.body := rfl
    simp [body]

/-! ### What is due -/

theorem mem_due {i k : Instr} {c : Bool} : i ∈ due c k ↔ c = true ∧ i = k := by
  cases c <;> simp [due]

/-- The expiries of the drive and the doors that are due. -/
theorem mem_brakesDue {i : Instr} {s : State} : i ∈ brakesDue s ↔
    (Config.pwmPeriod ≤ s.drive.periodTimer ∧ i = .periodStart) ∨
    (s.drive.serviceCheck.timeUp = true ∧ i = .serviceCheckTimerExpiry) ∨
    (s.drive.springCheck.releaseUp = true ∧ i = .releaseCheckTimerExpiry) ∨
    (s.drive.springCheck.applyUp = true ∧ i = .applyCheckTimerExpiry) ∨
    (s.drive.testStep.any TestStep.timeUp = true ∧ i = .brakeTestStepTimerExpiry) ∨
    ∃ d, (doorOf d s.doors.door).timeUp = true ∧ i = .doorTimerExpiry d := by
  have doors : (∃ d, (doorOf d s.doors.door).timeUp = true ∧ i = .doorTimerExpiry d) ↔
      (s.doors.door.d1.timeUp = true ∧ i = .doorTimerExpiry .d1) ∨
      (s.doors.door.d2.timeUp = true ∧ i = .doorTimerExpiry .d2) ∨
      (s.doors.door.d3.timeUp = true ∧ i = .doorTimerExpiry .d3) ∨
      (s.doors.door.d4.timeUp = true ∧ i = .doorTimerExpiry .d4) := by
    constructor
    · rintro ⟨d, up, rfl⟩
      cases d with
      | d1 => exact .inl ⟨up, rfl⟩
      | d2 => exact .inr (.inl ⟨up, rfl⟩)
      | d3 => exact .inr (.inr (.inl ⟨up, rfl⟩))
      | d4 => exact .inr (.inr (.inr ⟨up, rfl⟩))
    · rintro (⟨up, rfl⟩ | ⟨up, rfl⟩ | ⟨up, rfl⟩ | ⟨up, rfl⟩)
      · exact ⟨.d1, up, rfl⟩
      · exact ⟨.d2, up, rfl⟩
      · exact ⟨.d3, up, rfl⟩
      · exact ⟨.d4, up, rfl⟩
  rw [doors]
  simp only [brakesDue, List.mem_append, mem_due, decide_eq_true_eq, or_assoc]

/-- The expiries of the radio, the loader and the commit that are due. -/
theorem mem_radioDue {i : Instr} {s : State} : i ∈ radioDue s ↔
    (s.radio.tickUp = true ∧ i = .silenceTimerTick) ∨ (s.radio.reportUp = true ∧ i = .reportTimerExpiry) ∨
    (s.radio.windowUp = true ∧ i = .windowTimerExpiry) ∨ (s.store.loader.timeUp = true ∧ i = .loaderBusyTimeout) ∨
    (s.store.commit.timeUp = true ∧ i = .pageTimerExpiry) := by
  simp only [radioDue, List.mem_append, mem_due, or_assoc]

/-- The expiries of the links and the ports that are due. -/
theorem mem_portsDue {i : Instr} {s : State} : i ∈ portsDue s ↔
    (∃ l, (linkOf l s.mode).timeUp = true ∧ i = .linkSilenceExpiry l) ∨
    (∃ p, (portOf p s).rx.timeUp = true ∧ i = .gapTimeExpiry p) ∨
    (∃ p, answerDone (portOf p s) = true ∧ i = .answerSent p) := by
  have links : ∀ f : LinkPort → Prop, (∃ l, f l) ↔ f .a ∨ f .b := fun f =>
    ⟨fun ⟨l, h⟩ => by
      cases l
      · exact .inl h
      · exact .inr h, fun h => h.elim (⟨_, ·⟩) (⟨_, ·⟩)⟩
  have ports : ∀ f : Port → Prop, (∃ p, f p) ↔ f .a ∨ f .b ∨ f .c := fun f =>
    ⟨fun ⟨p, h⟩ => by
      cases p
      · exact .inl h
      · exact .inr (.inl h)
      · exact .inr (.inr h), fun h => h.elim (⟨_, ·⟩) fun h => h.elim (⟨_, ·⟩) (⟨_, ·⟩)⟩
  rw [links, ports, ports]
  simp only [portsDue, List.mem_append, mem_due, or_assoc]
  rfl

theorem mem_expiries {i : Instr} {s : State} : i ∈ expiries s ↔
    (Config.samplingPeriod ≤ s.odo.samplingTimer ∧ i = .samplingExpiry) ∨
    (Config.cyclePeriod ≤ s.sup.cycleTimer ∧ i = .supervisionCycle) ∨
    i ∈ brakesDue s ∨ i ∈ radioDue s ∨ i ∈ portsDue s := by
  simp only [expiries, List.mem_append, mem_due, decide_eq_true_eq, or_assoc]

/-! ### The millisecond -/

theorem advance_link (l : LinkPort) (s : State) : linkOf l (advance s).mode = (linkOf l s.mode).tick := by
  cases l <;> rfl

theorem advance_door (d : DoorId) (s : State) : doorOf d (advance s).doors.door = (doorOf d s.doors.door).tick := by
  cases d <;> rfl

theorem advance_port (p : Port) (s : State) : portOf p (advance s) = (portOf p s).tick := by
  cases p <;> rfl

/-- A millisecond counts in every timer that runs. -/
theorem advance_timers (s : State) (q : List Instr) : TimersAdvanced s { advance s with pending := q } where
  sampling := rfl
  cycle := rfl
  mode := rfl
  link l := advance_link l s
  drive := rfl
  serviceCheck := rfl
  springCheck := by
    show s.drive.springCheck.tick = _
    unfold SpringCheck.tick SpringCheck.runs
    simp only [Bool.or_eq_true, decide_eq_true_eq]
  doors := rfl
  door d := advance_door d s
  radio := rfl
  store := rfl
  poll := by
    show s.store.loader.tick = _
    cases s.store.loader <;> rfl
  page := by
    show s.store.commit.tick = _
    cases s.store.commit with
    | idle => rfl
    | writing page op => cases op <;> rfl
  port p := by
    refine (advance_port p s).trans ?_
    unfold PortRec.tick
    cases (portOf p s).rx <;> rfl

theorem advance_rx (p : Port) (s : State) : (portOf p (advance s)).rx = (portOf p s).rx.tick := by
  rw [advance_port]
  rfl

/-- The expiries of the drive and the doors that a millisecond brings (R115, R116, R119, R120, R123, R133). -/
theorem mem_brakesDue_advance {i : Instr} {s : State} : i ∈ brakesDue (advance s) ↔
    (20 ≤ s.drive.periodTimer + 1 ∧ i = .periodStart) ∨
    ((s.drive.serviceCheck.outcome = .running ∧ s.drive.serviceCheck.limit ≤ s.drive.serviceCheck.timer + 1) ∧
      i = .serviceCheckTimerExpiry) ∨
    ((s.drive.springCheck.outcome = .releaseRunning ∧ s.drive.springCheck.limit ≤ s.drive.springCheck.timer + 1) ∧
      i = .releaseCheckTimerExpiry) ∨
    ((s.drive.springCheck.outcome = .applyRunning ∧ s.drive.springCheck.limit ≤ s.drive.springCheck.timer + 1) ∧
      i = .applyCheckTimerExpiry) ∨
    ((∃ x, s.drive.testStep = some x ∧ x.limit ≤ x.timer + 1) ∧ i = .brakeTestStepTimerExpiry) ∨
    ∃ d, (∃ x, (doorOf d s.doors.door).timer = some x ∧ x.2 ≤ x.1 + 1) ∧ i = .doorTimerExpiry d := by
  simp only [← ServiceCheck.tick_timeUp, ← SpringCheck.tick_releaseUp, ← SpringCheck.tick_applyUp,
    ← BrakeDrive.tick_stepUp, ← Door.tick_timeUp, ← advance_door]
  exact mem_brakesDue

/-- The expiries of the radio, the loader and the commit that a millisecond brings (R41, R52, R156, R166, R167). -/
theorem mem_radioDue_advance {i : Instr} {s : State} : i ∈ radioDue (advance s) ↔
    ((s.radio.silenceRunning = true ∧ 1000 ≤ s.radio.silenceTick + 1) ∧ i = .silenceTimerTick) ∨
    ((∃ x, s.radio.reportTimer = some x ∧ 1000 * x.2 ≤ x.1 + 1) ∧ i = .reportTimerExpiry) ∨
    ((∃ w, s.radio.window = some w ∧ 500 ≤ w.timer + 1) ∧ i = .windowTimerExpiry) ∨
    ((∃ n, s.store.loader = .poll n ∧ 25 ≤ n + 1) ∧ i = .loaderBusyTimeout) ∨
    ((∃ page n, (s.store.commit = .writing page (.program n) ∨ s.store.commit = .writing page (.poll n)) ∧
      25 ≤ n + 1) ∧ i = .pageTimerExpiry) := by
  rw [← Radio.tick_tickUp, ← Radio.tick_reportUp, ← Radio.tick_windowUp, ← LoaderOp.tick_timeUp,
    ← CommitState.tick_timeUp]
  exact mem_radioDue

/-- The expiries of the links and the ports that a millisecond brings (R13, R171 to R173). -/
theorem mem_portsDue_advance {i : Instr} {s : State} : i ∈ portsDue (advance s) ↔
    (∃ l, (∃ n, (linkOf l s.mode).timer = some n ∧ 500 ≤ n + 1) ∧ i = .linkSilenceExpiry l) ∨
    (∃ p, (∃ b n, (portOf p s).rx = .receiving b n ∧ 2 ≤ n + 1) ∧ i = .gapTimeExpiry p) ∨
    (∃ p, (∃ h, (portOf p s).held = some h ∧ 100 * (telegramBytes h.body).length ≤ 2304 * (h.sending + 1)) ∧
      i = .answerSent p) := by
  simp only [← Link.tick_timeUp, ← RxState.tick_timeUp, ← PortRec.tick_answerDone, ← advance_link, ← advance_rx,
    ← advance_port]
  exact mem_portsDue

/-- A millisecond brings the expiries of the timers that it brings to their limits, and no other. -/
theorem advance_expiries {s t : State} (h : t.pending = expiries (advance s)) : ExpiriesQueued s t := by
  have due : ∀ i, i ∈ t.pending ↔ (50 ≤ s.odo.samplingTimer + 1 ∧ i = .samplingExpiry) ∨
      (50 ≤ s.sup.cycleTimer + 1 ∧ i = .supervisionCycle) ∨
      i ∈ brakesDue (advance s) ∨ i ∈ radioDue (advance s) ∨ i ∈ portsDue (advance s) := fun i => by
    rw [h]
    exact mem_expiries
  simp only [mem_brakesDue_advance, mem_radioDue_advance, mem_portsDue_advance] at due
  exact
    { sampling := by simp [due]
      cycle := by simp [due]
      period := by simp [due]
      link := by simp [due]
      service := by simp [due]
      release := by simp [due]
      apply := by simp [due]
      step := by simp [due]
      door := by simp [due]
      silence := by simp [due]
      report := by simp [due]
      window := by simp [due]
      loader := by simp [due]
      page := by simp [due]
      gap := by simp [due]
      answer := by simp [due] }

/-- Settles O2: with nothing waiting the timers are advanced (`advance_timers`), and the expiries due are the queue
(`advance_expiries`). -/
theorem emptyQueueLetsAMillisecondPass : Obligations.EmptyQueueLetsAMillisecondPass := by
  intro s empty
  have queue : (passTime s).pending = expiries (advance s) := by
    show s.pending ++ expiries (advance s) = _
    rw [empty, List.nil_append]
  refine ⟨passTime s, by rw [step, empty], advance_timers s _, advance_expiries queue, fun b hb => ?_⟩
  cases b <;> first | rfl | exact absurd hb (by decide)

end Sys2Proof.Machine
end

section
/-!
What every step leaves of the position record (R17): `PositionRecord` is what `PositionFollows` speaks of, and an act
that leaves it leaves the invariant (`PositionFollows.of_record`).
-/

namespace Sys2Proof.Machine

/-! ### What the invariant speaks of -/

/-- The ranged items of the position record (R17), with the table that holds the marks. -/
structure PositionRecord where
  position : Nat
  remainder : Nat
  posState : PosState
  uncertainty : Nat
  accumulator : Nat
  since : Nat
  speed : Nat
  axleSpeed : Nat
  reverse : Nat
  carry : Nat
  unexpected : Nat
  quiet : Nat
  pinion : Nat
  table : List Segment

/-- The record as a state has it. -/
def recordOf (s : State) : PositionRecord where
  position := s.odo.position
  remainder := s.odo.remainder
  posState := s.odo.posState
  uncertainty := s.odo.uncertainty
  accumulator := s.odo.accumulator
  since := s.odo.sinceCorrection
  speed := s.odo.speed
  axleSpeed := s.odo.axleSpeed
  reverse := s.odo.reverse
  carry := s.odo.reverseCarry
  unexpected := s.odo.unexpectedMarks
  quiet := s.odo.quietTime
  pinion := s.odo.pinionFaultTime
  table := s.store.segments

theorem PositionFollows.of_record {s t : State} (h : PositionFollows s) (k : recordOf t = recordOf s) :
    PositionFollows t := by
  simp only [recordOf, PositionRecord.mk.injEq] at k
  obtain ⟨position, remainder, posState, uncertainty, accumulator, since, speed, axleSpeed, reverse, carry, unexpected,
    quiet, pinion, table⟩ := k
  refine ⟨?_, ?_, ?_, ?_, ?_, ?_, ?_, ?_, ?_, ?_, ?_, ?_, ?_, ?_⟩
  · rw [position]; exact h.onLine
  · rw [table]; exact h.marks
  · rw [posState, position, remainder, uncertainty]; exact h.unknown
  · rw [posState, uncertainty, accumulator]; exact h.known
  · rw [posState, uncertainty]; exact h.lost
  · rw [accumulator]; exact h.accumulator
  · rw [since]; exact h.since
  · rw [speed]; exact h.speed
  · rw [axleSpeed]; exact h.axleSpeed
  · rw [reverse]; exact h.reverse
  · rw [carry]; exact h.carry
  · rw [unexpected]; exact h.unexpected
  · rw [quiet]; exact h.quiet
  · rw [pinion]; exact h.pinion

/-- The record is of two blocks, and of the store its table. -/
theorem recordOf_congr {s t : State} (odo : t.odo = s.odo) (table : t.store.segments = s.store.segments) :
    recordOf t = recordOf s := by
  simp only [recordOf, odo, table]

theorem Keeps.record {l : List Block} {s t : State} (k : Keeps l s t) (odo : .odo ∈ l := by decide)
    (store : .store ∈ l := by decide) : recordOf t = recordOf s :=
  recordOf_congr (k .odo odo) (congrArg Store.segments (k .store store))

/-! ### The acts that leave the record -/

theorem writeRows_record (new : Rows) (s : State) : recordOf (writeRows new s) = recordOf s :=
  (writeRows_written new s).keeps.record

theorem raise_record (e : Event) (s : State) : recordOf (raise e s) = recordOf s := rfl

theorem raiseIf_record (c : Bool) (e : Event) (s : State) : recordOf (raiseIf c e s) = recordOf s := by
  cases c <;> rfl

theorem updPort_record (p : Port) (f : PortRec → PortRec) (s : State) : recordOf (updPort p f s) = recordOf s := by
  cases p <;> rfl

theorem noticeIf_record (c : Bool) (n : Notice) (s : State) : recordOf (noticeIf c n s) = recordOf s := by
  cases c <;> rfl

theorem abortTest_record (c : AbortCause) (s : State) : recordOf (abortTest c s) = recordOf s :=
  (abortTest_cascade c s).keeps.record

theorem endHold_record (s : State) : recordOf (endHold s) = recordOf s := by
  unfold endHold
  split
  · exact (takeMapping_cascade s).keeps.record
  · rfl

theorem clearLatch_record (s : State) : recordOf (clearLatch s) = recordOf s :=
  (refreshDriven_cascade _).keeps.record

theorem meetStep_record (n : Nat) (s : State) : recordOf (meetStep n s) = recordOf s := by
  unfold meetStep
  split
  · exact (beginStep_keeps _ s).1.record
  · exact (endTest_keeps _ s).1.record

theorem beginTest_record (s : State) : recordOf (beginTest s) = recordOf s :=
  (beginStep_keeps 1 _).1.record.trans (raiseIf_record _ _ _)

theorem setFaults_record (slow fail : Bool) (s : State) : recordOf (setFaults slow fail s) = recordOf s := by
  unfold setFaults
  split
  · rfl
  · exact (writeRows_record _ _).trans (raise_record _ _)

theorem setAlarm_record (a : AlarmState) (s : State) : recordOf (setAlarm a s) = recordOf s :=
  (setAlarm_set a s).2.2.2.1.record

theorem putStops_record (l : List StopKind) (s : State) : recordOf (putStops l s) = recordOf s :=
  (writeRows_record _ _).trans (raiseIf_record _ _ _)

theorem superviseOnce_record (s : State) : recordOf (superviseOnce s) = recordOf s :=
  (writeRows_record _ _).trans (raiseIf_record _ _ _)

theorem updDoor_record (d : DoorId) (f : Door → Door) (s : State) : recordOf (updDoor d f s) = recordOf s :=
  (updDoor_acted d f s).keeps.record

theorem putDoors_record (q : Quad Door) (left right : Bool) (s : State) :
    recordOf (putDoors q left right s) = recordOf s :=
  (putDoors_formed q left right s).2.2.2.2.1.record

theorem putRestrictions_record (l : List Restriction) (s : State) : recordOf (putRestrictions l s) = recordOf s :=
  raiseIf_record _ _ _

theorem dropPermit_record (s : State) : recordOf (dropPermit s) = recordOf s := (dropPermit_keeps s).1.record

theorem changeDirection_record (d : Direction) (s : State) : recordOf (changeDirection d s) = recordOf s := by
  have c := changeDirection_changed d s
  have store : (changeDirection d s).store = s.store := c.keeps .store (by decide)
  simp only [recordOf, c.odo, store]
  split <;> rfl

theorem passAuthority_record (heir : Holder) (s : State) : recordOf (passAuthority heir s) = recordOf s := by
  obtain ⟨a, keeps, _⟩ := passAuthority_passed heir s
  have store : (passAuthority heir s).store = s.store := keeps .store (by decide)
  simp only [recordOf, a.odo, store]
  split <;> rfl

theorem putComposition_record (c : Composition) (s : State) : recordOf (putComposition c s) = recordOf s :=
  (putComposition_put c s).keeps.record

theorem changeMode_record (m : CarMode) (s : State) : recordOf (changeMode m s) = recordOf s := by
  unfold changeMode
  split
  · exact dropPermit_record _
  · rfl

theorem completeTelegram_record (p : Port) (s : State) : recordOf (completeTelegram p s) = recordOf s :=
  (completeTelegram_heard p s).keeps.record

theorem silenceOn_record (l : LinkPort) (s : State) : recordOf (silenceOn l s) = recordOf s := by
  unfold silenceOn
  split
  · refine (writeRows_record _ _).trans ?_
    cases l <;> rfl
  · rfl

/-! ### The radio -/

theorem count_record (k : Counter) (s : State) : recordOf (count k s) = recordOf s := (count_counted k s).keeps.record

theorem formCoverage_record (s : State) : recordOf (formCoverage s) = recordOf s :=
  (formCoverage_formed s).2.2.1.record

theorem formZone_record (s : State) : recordOf (formZone s) = recordOf s := (formZone_formed s).2.1.record

theorem beginTransmission_record (s : State) : recordOf (beginTransmission s) = recordOf s := by
  unfold beginTransmission
  split
  · split
    · split <;> rfl
    · rfl
  · rfl

theorem offerAck_record (e : BulletinEntry) (s : State) : recordOf (offerAck e s) = recordOf s := by
  unfold offerAck
  split
  · split
    · exact beginTransmission_record _
    · exact count_record _ s
  · rfl

theorem openWindow_record (s : State) : recordOf (openWindow s) = recordOf s := by
  unfold openWindow
  split
  · exact beginTransmission_record _
  · rfl

theorem storeMessage_record (m : Message) (s : State) : recordOf (storeMessage m s) = recordOf s :=
  (storeMessage_stored m s).keeps.record

theorem handleBeacon_record (h : FrameHeader) (b : List Byte) (s : State) :
    recordOf (handleBeacon h b s) = recordOf s := by
  have covered : ∀ f, recordOf (formCoverage (updRadio f (count .beacons s))) = recordOf s := fun f =>
    (formCoverage_record _).trans (count_record .beacons s)
  unfold handleBeacon
  split
  · simp only
    split
    · split
      · exact (openWindow_record _).trans (covered _)
      · exact covered _
    · exact count_record _ s
  · rfl

theorem setRestriction_record (k : Key) (start stop limit : Nat) (s : State) :
    recordOf (setRestriction k start stop limit s).1 = recordOf s := by
  unfold setRestriction
  split
  · rfl
  · exact putRestrictions_record _ s

theorem applyBulletin_record (k : BulletinKind) (f : FrameHeader) (b : List Byte) (s : State) :
    recordOf (applyBulletin k f b s).1 = recordOf s := by
  cases k with
  | restrictionSet =>
    simp only [applyBulletin, applyRestrictionSet]
    split
    · split
      · exact setRestriction_record _ _ _ _ s
      · rfl
    · rfl
  | restrictionLift =>
    simp only [applyBulletin, applyRestrictionLift]
    split
    · exact putRestrictions_record _ s
    · rfl
  | permitGrant =>
    simp only [applyBulletin, applyPermitGrant]
    split
    · split
      · rfl
      · rfl
      · split_ifs <;> rfl
    · rfl
  | permitRevoke =>
    simp only [applyBulletin, applyPermitRevoke]
    split
    · exact dropPermit_record s
    · rfl
  | stopOrder =>
    simp only [applyBulletin, applyStopOrder]
    split
    · exact putStops_record _ s
    split
    · exact putStops_record _ s
    · rfl
  | stopRelease =>
    simp only [applyBulletin, applyStopRelease]
    split
    · exact putStops_record _ s
    · rfl
  | text =>
    simp only [applyBulletin, applyText]
    split
    · rfl
    split
    · split
      · exact storeMessage_record _ s
      · exact count_record _ s
    · rfl

theorem handleBulletin_record (k : BulletinKind) (f : FrameHeader) (b : List Byte) (s : State) :
    recordOf (handleBulletin k f b s) = recordOf s := by
  unfold handleBulletin
  simp only
  split
  · exact (offerAck_record _ _).trans (count_record _ s)
  · exact (offerAck_record _ _).trans ((applyBulletin_record k f b _).trans (count_record _ s))

/-- No frame moves the position record (R151, R152). -/
theorem receiveFrame_record (f : Frame) (s : State) : recordOf (receiveFrame f s) = recordOf s := by
  have good : recordOf (handleGood f (count .goodFrames s)) = recordOf s := by
    unfold handleGood
    split
    · exact (handleBeacon_record _ _ _).trans (count_record _ s)
    split
    · exact (handleBulletin_record _ _ _ _).trans (count_record _ s)
    · exact count_record _ s
  unfold receiveFrame
  split
  · rfl
  split
  · exact count_record _ s
  split
  · exact count_record _ s
  · exact count_record _ s
  · exact good

theorem receiveBytes_record (b : List Byte) (s : State) : recordOf (receiveBytes b s) = recordOf s := by
  unfold receiveBytes
  split
  · rfl
  split
  · exact count_record _ s
  split
  · exact receiveFrame_record _ s
  split
  · exact count_record _ s
  · exact count_record _ s

/-! ### The store -/

theorem endPage_record (page : Nat) (s : State) : recordOf (endPage page s) = recordOf s := by
  unfold endPage
  simp only
  split <;> rfl

theorem failPage_record (page : Nat) (s : State) : recordOf (failPage page s) = recordOf s := rfl

end Sys2Proof.Machine
end

section
/-!
Every step keeps the position record in its ranges, and the uncertainty as the accumulator and the position state have
it (R17, R20, R24, R25): the acts that move the record or the table, then the rules, the events and the steps.
-/

namespace Sys2Proof.Machine

/-! ### The marks of the table -/

theorem mem_marksOf {table : List Segment} {x : Nat} :
    x ∈ marksOf table ↔ ∃ g ∈ table, ∃ m, g.mark = some m ∧ g.start + m = x := by
  simp [marksOf]

theorem marksOnLine_iff (table : List Segment) :
    marksOnLine table ↔ ∀ g ∈ table, ∀ m, g.mark = some m → g.start + m ≤ Config.lineEnd := by
  simp only [marksOnLine, mem_marksOf]
  exact ⟨fun h g hg m hm => h _ ⟨g, hg, m, hm, rfl⟩, fun h _ ⟨g, hg, m, hm, e⟩ => e ▸ h g hg m hm⟩

/-- A record that passes its checks has its mark on the line (R36, R43). -/
theorem recordFault_none_mark {prev : Option Nat} {r : RawSegment} (h : recordFault prev r = none) {m : Nat}
    (hm : r.toSegment.mark = some m) : r.toSegment.start + m ≤ Config.lineEnd := by
  unfold recordFault at h
  split_ifs at h with _ _ extent _ _ offset
  have within : m < r.length := by
    rw [show r.markOffset = some m from hm] at offset
    simpa using offset
  show r.start + m ≤ Config.lineEnd
  omega

/-- A block whose records all pass has its marks on the line (R43). -/
theorem firstBadRecord_none_marks {i : Nat} {prev : Option Nat} {l : List RawSegment}
    (h : firstBadRecord i prev l = none) : marksOnLine (l.map RawSegment.toSegment) := by
  rw [marksOnLine_iff]
  induction l generalizing i prev with
  | nil => simp
  | cons r rest ih =>
    unfold firstBadRecord at h
    split at h
    · cases h
    · rename_i good
      simp only [List.map_cons, List.forall_mem_cons]
      exact ⟨fun m hm => recordFault_none_mark good hm, ih h⟩

/-! ### The position moved, in its parts -/

/-- Whether a net count would take the position beyond an end of the line (R20). -/
def leavesLine (net : Int) (s : State) : Bool := decide (movedTo net s < 0) || decide (200000 < movedTo net s)

/-- The position moved by a net count and held within the line, before the uncertainty follows (R20). -/
def placedBy (net : Int) (s : State) : State :=
  updOdo (fun o => { o with
    position := (max 0 (min 200000 (movedTo net s))).toNat
    remainder := if leavesLine net s then 0
      else (movedSum net s % (unitsPerDm s.store.params s.odo.source : Nat)).toNat
    sinceCorrection := min 1000000 (o.sinceCorrection +
      gapBetween (max 0 (min 200000 (movedTo net s))).toNat s.odo.position) }) s

/-- The same with the uncertainty grown by what the position has moved (R25). -/
def grownBy (net : Int) (s : State) : State :=
  growUncertainty (errorFactor s) (gapBetween (placedBy net s).odo.position s.odo.position) (placedBy net s)

theorem movePosition_unknown (net : Int) {s : State} (h : s.odo.posState = .unknown) : movePosition net s = s := by
  rw [movePosition, if_pos h]

theorem movePosition_known (net : Int) {s : State} (h : s.odo.posState ≠ .unknown) : movePosition net s =
    if leavesLine net s = true ∧ (grownBy net s).odo.posState = .known then loseBy .lostAtLineEnd (grownBy net s)
    else grownBy net s := by
  rw [movePosition, if_neg h]
  rfl

/-! ### The pinion fault time, in its parts -/

/-- The pinion fault time at a sampling expiry (R31). -/
def pinionTimeNow (s : State) : Nat :=
  if pinionSilent s then min Config.pinionFaultTime (s.odo.pinionFaultTime + Config.samplingPeriod) else 0

theorem samplePinion_eq (s : State) : samplePinion s =
    if s.odo.pinionFault then s
    else if pinionTimeNow s = Config.pinionFaultTime then
      setPinionFault (updOdo (fun o => { o with pinionFaultTime := pinionTimeNow s }) s)
    else updOdo (fun o => { o with pinionFaultTime := pinionTimeNow s }) s := rfl

/-! ### The reverse distance, in its parts -/

/-- The counter of reverse distance and its carry at a sampling expiry that counts it (R30). -/
def reverseCounted (s : State) : State :=
  let carry := s.odo.reverseCarry + (s.odo.windowOf s.odo.source).d4.natAbs
  updOdo (fun o => { o with reverse := min 65535 (o.reverse + carry / 100), reverseCarry := carry % 100 }) s

/-- ROLLBACK set, with its notice and its row (R30, R32). -/
def rollBack (s : State) : State :=
  formOdometryRow (notice .rollback (updOdo (fun o => { o with rollback := true }) s))

theorem sampleReverse_eq (s : State) : sampleReverse s =
    if countsReverse s.mode.direction (s.odo.windowOf s.odo.source).d4 then
      if 5 < (reverseCounted s).odo.reverse ∧ (reverseCounted s).odo.rollback = false then rollBack (reverseCounted s)
      else reverseCounted s
    else s := rfl

theorem rollBack_record (s : State) : recordOf (rollBack s) = recordOf s := writeRows_record _ _

namespace PositionFollows

variable {s t : State}

/-! ### The acts that move the record -/

/-- The position state LOST, from KNOWN or LOST (R24). -/
theorem lose (h : PositionFollows s) (n : Notice) : PositionFollows (loseBy n s) :=
  { h with
    unknown := fun x => by cases x
    known := fun x => by cases x
    lost := fun _ => rfl }

/-- The uncertainty grown, as far as it stays within 600 (R24, R25). -/
theorem grow (h : PositionFollows s) (factor moved : Nat) : PositionFollows (growUncertainty factor moved s) := by
  unfold growUncertainty
  split
  · exact h
  rename_i moving
  push Not at moving
  obtain ⟨known, _⟩ := moving
  split
  · rename_i room
    exact { h with
      unknown := fun x => absurd (known.symm.trans x) (by decide)
      known := fun _ => rfl
      lost := fun x => absurd (known.symm.trans x) (by decide)
      accumulator := room }
  · let a := s.odo.accumulator + factor * ((Config.greatestAccumulator - s.odo.accumulator) / factor)
    have fits : a ≤ Config.greatestAccumulator := by
      have := Nat.mul_div_le (Config.greatestAccumulator - s.odo.accumulator) factor
      have := h.accumulator
      omega
    exact { h with
      unknown := fun x => by cases x
      known := fun x => by cases x
      lost := fun _ => rfl
      accumulator := fits }

/-- A net count applied to the car position (R20, R24, R25). -/
theorem moved (h : PositionFollows s) (net : Int) : PositionFollows (movePosition net s) := by
  by_cases unknown : s.odo.posState = .unknown
  · rwa [movePosition_unknown net unknown]
  have placed : PositionFollows (placedBy net s) :=
    { h with
      onLine := by show Int.toNat _ ≤ 200000; omega
      unknown := fun x => absurd x unknown
      since := Nat.min_le_left _ _ }
  rw [movePosition_known net unknown]
  split
  · exact (placed.grow _ _).lose _
  · exact placed.grow _ _

/-- A remainder dropped (R21, R50). -/
theorem dropped (h : PositionFollows s) (f : Odometry → Odometry)
    (hf : recordOf (updOdo f s) = { recordOf s with remainder := 0 }) : PositionFollows (updOdo f s) := by
  have cut : PositionFollows (updOdo (fun o => { o with remainder := 0 }) s) :=
    { h with unknown := fun x => ⟨(h.unknown x).1, rfl, (h.unknown x).2.2⟩ }
  exact cut.of_record hf

/-- The current zone of a position set on the line, the accumulator giving the uncertainty (R26, R28). -/
theorem placed (h : PositionFollows s) {x u a : Nat} (n : Notice) (line : x ≤ Config.lineEnd)
    (hu : u = uncertaintyOf a) (ha : a ≤ Config.greatestAccumulator) :
    PositionFollows (formZone (notice n (updOdo (fun o => { o with
      position := x, remainder := 0, posState := .known, uncertainty := u, accumulator := a
      unexpectedMarks := 0, sinceCorrection := 0, awaited := none }) s))) := by
  have put : PositionFollows (updOdo (fun o => { o with
      position := x, remainder := 0, posState := .known, uncertainty := u, accumulator := a
      unexpectedMarks := 0, sinceCorrection := 0, awaited := none }) s) :=
    { h with
      onLine := line
      unknown := fun x => by cases x
      known := fun _ => hu
      lost := fun x => by cases x
      accumulator := ha
      since := Nat.zero_le _
      unexpected := Nat.zero_le _ }
  exact put.of_record (formZone_record _)

/-- A reset leaves the position UNKNOWN and the table empty (R17, R35). -/
theorem fresh (odo : t.odo = Odometry.reset) (table : t.store.segments = []) : PositionFollows t := by
  have reset : PositionFollows State.reset :=
    { onLine := by decide
      marks := by rw [marksOnLine_iff]; exact fun g hg => absurd hg List.not_mem_nil
      unknown := fun _ => ⟨rfl, rfl, rfl⟩
      known := fun x => by cases x
      lost := fun x => by cases x
      accumulator := by decide
      since := by decide
      speed := by decide
      axleSpeed := by decide
      reverse := by decide
      carry := by decide
      unexpected := by decide
      quiet := by decide
      pinion := by decide }
  exact reset.of_record (recordOf_congr odo table)

/-- A table whose marks lie on the line (R43, R47). -/
theorem tabled (h : PositionFollows s) (odo : t.odo = s.odo) (marks : marksOnLine t.store.segments) :
    PositionFollows t := by
  have same : PositionFollows { t with store := { t.store with segments := s.store.segments } } :=
    h.of_record (recordOf_congr odo rfl)
  exact { same with marks := marks }

/-! ### Standstill and the sampling expiry -/

theorem formStandstillRows_record (begins : Bool) (s : State) :
    recordOf (formStandstillRows begins s) = recordOf s := by
  unfold formStandstillRows
  refine ((remapHold_remapped _).2.2.record).trans ((writeRows_record _ _).trans ((setAlarm_record _ _).trans
    ((writeRows_record _ _).trans ((writeRows_record _ _).trans ?_))))
  exact (formDoorsRow_formed s).keeps.record

theorem standstillBegun (h : PositionFollows s) : PositionFollows (beginStandstill s) := by
  have cleared : PositionFollows (updOdo (fun o => { o with
      standstill := true, quietTime := 0, quietRunning := false, reverse := 0, reverseCarry := 0,
      rollback := false, motion := .none }) s) :=
    { h with reverse := Nat.zero_le _, carry := Nat.zero_le _, quiet := Nat.zero_le _ }
  exact cleared.of_record (formStandstillRows_record true _)

theorem endStandstill_record (s : State) : recordOf (endStandstill s) = recordOf s := by
  unfold endStandstill closeForMoving
  simp only
  refine (formStandstillRows_record false _).trans ((putDoors_record _ _ _ _).trans ?_)
  exact (formDoorsRow_formed _).keeps.record.trans ((abortTest_record _ _).trans rfl)

theorem setPinionFault_record (s : State) : recordOf (setPinionFault s) = recordOf s := writeRows_record _ _

theorem countPulse_record (t : Tacho) (forward : Bool) (s : State) :
    recordOf (countPulse t forward s) = recordOf s := by
  cases t <;> rfl

theorem sampledSpeeds (h : PositionFollows s) : PositionFollows (sampleSpeeds s) :=
  { h with speed := Nat.min_le_left _ _, axleSpeed := Nat.min_le_left _ _ }

theorem sampleCross_record (s : State) : recordOf (sampleCross s) = recordOf s := by
  unfold sampleCross
  split
  · rfl
  · simp only
    split
    · rfl
    · exact noticeIf_record _ _ _

theorem sampledReverse (h : PositionFollows s) : PositionFollows (sampleReverse s) := by
  have counted : PositionFollows (reverseCounted s) :=
    { h with reverse := Nat.min_le_left _ _, carry := Nat.le_of_lt_succ (Nat.mod_lt _ (by decide)) }
  rw [sampleReverse_eq]
  split
  · split
    · exact counted.of_record (rollBack_record _)
    · exact counted
  · exact h

theorem sourceSelected (h : PositionFollows s) : PositionFollows (selectSource s) := by
  unfold selectSource
  simp only
  split
  · exact h
  · exact h.dropped _ rfl

theorem sampledPinion (h : PositionFollows s) : PositionFollows (samplePinion s) := by
  have bound : pinionTimeNow s ≤ Config.pinionFaultTime := by
    unfold pinionTimeNow
    split
    · exact Nat.min_le_left _ _
    · exact Nat.zero_le _
  have timed : PositionFollows (updOdo (fun o => { o with pinionFaultTime := pinionTimeNow s }) s) :=
    { h with pinion := bound }
  rw [samplePinion_eq]
  split
  · exact h
  split
  · exact timed.of_record (setPinionFault_record _)
  · exact timed

theorem sampleAwaited_record (s : State) : recordOf (sampleAwaited s) = recordOf s := by
  unfold sampleAwaited
  simp only
  split
  · rfl
  split
  · rfl
  split
  · rfl
  · rfl

theorem sampledQuiet (h : PositionFollows s) : PositionFollows (sampleQuiet s) := by
  have timed : ∀ (t : Odometry → Nat) (r : Odometry → Bool), t s.odo ≤ Config.standstillTime →
      PositionFollows (updOdo (fun o => { o with quietTime := t o, quietRunning := r o }) s) :=
    fun _ _ ht => { h with quiet := ht }
  have more : PositionFollows (updOdo (fun o => { o with
      quietTime := min Config.standstillTime (o.quietTime + Config.samplingPeriod) }) s) :=
    timed (fun o => min Config.standstillTime (o.quietTime + Config.samplingPeriod)) (fun o => o.quietRunning)
      (Nat.min_le_left _ _)
  unfold sampleQuiet
  simp only
  split
  · split
    · split
      · exact more.standstillBegun
      · exact more
    · split
      · exact h
      · exact timed (fun _ => 0) (fun _ => true) (Nat.zero_le _)
  · exact timed (fun _ => 0) (fun _ => false) (Nat.zero_le _)

theorem sampleClear_record (s : State) : recordOf (sampleClear s) = recordOf s := rfl

/-- A sampling expiry keeps the record in its ranges (R19 to R33). -/
theorem sampled (h : PositionFollows s) : PositionFollows (sample s) := by
  have distances : PositionFollows (sampleDistances s) := h.of_record rfl
  have moved := distances.moved (unappliedCount (sampleDistances s).odo)
  have cross := moved.sampledSpeeds.of_record (sampleCross_record _)
  have awaited := cross.sampledReverse.sourceSelected.sampledPinion.of_record (sampleAwaited_record _)
  have cleared := awaited.sampledQuiet.of_record (sampleClear_record _)
  exact cleared.of_record ((setAlarm_record _ _).trans ((formZone_record _).trans (putRestrictions_record _ _)))

/-! ### A detection -/

theorem findMark_mem {marks : List Nat} {pos reach m : Nat} (h : findMark marks pos reach = .nearest m) :
    m ∈ marks := by
  unfold findMark at h
  simp only at h
  split at h
  · cases h
  rename_i near
  split at h
  · rename_i only
    cases h
    have nearest := List.mem_singleton_self m
    rw [← only] at nearest
    have within := (List.mem_filter.mp nearest).1
    rw [← near] at within
    exact (List.mem_filter.mp within).1
  · cases h

/-- A detection keeps the record in its ranges (R26). -/
theorem detected (h : PositionFollows s) : PositionFollows (detectMark s) := by
  unfold detectMark
  split
  · exact h.of_record rfl
  simp only
  have applied : PositionFollows (updOdo (fun o => { o with applied := o.countOf o.source })
      (movePosition (unappliedCount s.odo) s)) := (h.moved _).of_record rfl
  generalize updOdo _ (movePosition (unappliedCount s.odo) s) = u at applied
  split
  · rename_i m found
    exact applied.placed (u := Config.leastUncertainty) (a := 0) .markMatched (applied.marks m (findMark_mem found)) rfl
      (Nat.zero_le _)
  · unfold unexpectedMark
    simp only
    have counted : PositionFollows
        (updOdo (fun o => { o with unexpectedMarks := min 255 (u.odo.unexpectedMarks + 1) }) u) :=
      { applied with unexpected := Nat.min_le_left _ _ }
    split
    · exact counted.lose _
    · exact counted.of_record rfl
  · exact applied.of_record rfl

end PositionFollows

end Sys2Proof.Machine
end

section
/-!
Every rule, every event and so every step keeps the position record in its ranges (R17, R20, R24, R25). The rules and
events that leave the record are taken by what they leave; SET POSITION, RESTART, the two field edits, the loads, the
pulses, the expiries and a detection are taken one by one.
-/

namespace Sys2Proof.Machine

namespace PositionFollows

variable {p : Port} {args : List Byte} {s : State}

/-! ### The rules that leave the record -/

theorem withEventSet (f : EventSet → PortRec → PortRec) (h : PositionFollows s) :
    PositionFollows (withEventSet p args f s).1 := by
  unfold Machine.withEventSet
  split
  · exact h
  · exact h.of_record (updPort_record _ _ _)

theorem takeAuthority (h : PositionFollows s) : PositionFollows (ruleTakeAuthority p s).1 := by
  unfold ruleTakeAuthority
  split
  · exact h
  split
  · exact h.of_record rfl
  split
  · exact h
  split
  · exact h
  split
  · exact h
  · exact h.of_record (passAuthority_record _ _)

theorem releaseAuthority (h : PositionFollows s) : PositionFollows (ruleReleaseAuthority p s).1 :=
  asHolder_keeps h fun _ => refuseIf_keeps h fun _ => h.of_record (passAuthority_record _ _)

theorem setDirection (h : PositionFollows s) : PositionFollows (ruleSetDirection p args s).1 := by
  refine asHolder_keeps h fun _ => ?_
  split
  · exact h
  split
  · exact h
  · exact h.of_record (changeDirection_record _ _)

theorem setComposition (h : PositionFollows s) : PositionFollows (ruleSetComposition p args s).1 := by
  refine asHolder_keeps h fun _ => ?_
  split
  · exact h
  split
  · exact h
  split
  · exact h
  · exact h.of_record (putComposition_record _ _)

theorem selectMode (h : PositionFollows s) : PositionFollows (ruleSelectMode p args s).1 := by
  refine asHolder_keeps h fun _ => ?_
  split
  · exact h
  split
  · exact h
  split
  · exact h
  split
  · exact h
  split
  · split
    · exact h
    · exact h.of_record (changeMode_record _ _)
  · exact h.of_record (changeMode_record _ _)

theorem brakeDemand (h : PositionFollows s) : PositionFollows (ruleBrakeDemand p args s).1 :=
  asHolder_keeps h fun _ => h.of_record ((endHold_record _).trans (writeRows_record _ _))

theorem putEmergency (e : Bool) (h : PositionFollows s) : PositionFollows (putEmergency p e s).1 := by
  unfold Machine.putEmergency
  split
  · exact h
  · exact h.of_record (writeRows_record _ _)

theorem emergencyReset (h : PositionFollows s) : PositionFollows (ruleEmergencyReset p s).1 := by
  refine asHolder_keeps h fun _ => ?_
  split
  · exact h
  split
  · exact h
  split
  · exact h
  split
  · exact h
  · exact h.of_record (clearLatch_record _)

theorem brakeTestStart (h : PositionFollows s) : PositionFollows (ruleBrakeTestStart p s).1 :=
  asHolder_keeps h fun _ => refuseIf_keeps h fun _ => refuseIf_keeps h fun _ => refuseIf_keeps h fun _ =>
    refuseIf_keeps h fun _ => refuseIf_keeps h fun _ => h.of_record (beginTest_record _)

theorem brakeTestAbort (h : PositionFollows s) : PositionFollows (ruleBrakeTestAbort p s).1 :=
  asHolder_keeps h fun _ => refuseIf_keeps h fun _ => h.of_record (abortTest_record _ _)

theorem doorRelease (h : PositionFollows s) : PositionFollows (ruleDoorRelease p args s).1 := by
  refine asHolder_keeps h fun _ => ?_
  split
  · split
    · exact h
    split
    · exact h
    · unfold tryRelease
      simp only
      split
      · exact h.of_record (putDoors_record _ _ _ _)
      · exact h.of_record rfl
  · exact h

theorem doorClose (h : PositionFollows s) : PositionFollows (ruleDoorClose p args s).1 := by
  refine asHolderOrPanel_keeps h ?_
  split
  · exact h
  · exact h.of_record (putDoors_record _ _ _ _)

theorem doorRetry (h : PositionFollows s) : PositionFollows (ruleDoorRetry p args s).1 := by
  refine asHolderOrPanel_keeps h ?_
  split
  · exact h
  split
  · exact h.of_record (updDoor_record _ _ _)
  · exact h

theorem askAlarm (a : AlarmState) (h : PositionFollows s) : PositionFollows (askAlarm a p s).1 :=
  asHolder_keeps h fun _ => refuseIf_keeps h fun _ => h.of_record (setAlarm_record _ _)

theorem restrictionAdd (h : PositionFollows s) : PositionFollows (ruleRestrictionAdd p args s).1 := by
  refine asHolder_keeps h fun _ => ?_
  simp only
  split
  · exact h.of_record (setRestriction_record _ _ _ _ _)
  · exact h

theorem restrictionLift (h : PositionFollows s) : PositionFollows (ruleRestrictionLift p args s).1 := by
  refine asHolder_keeps h fun _ => ?_
  split
  · exact h
  · exact h.of_record (putRestrictions_record _ _)

theorem permitEnter (h : PositionFollows s) : PositionFollows (rulePermitEnter p args s).1 :=
  asHolder_keeps h fun _ => refuseIf_keeps h fun _ => refuseIf_keeps h fun _ => refuseIf_keeps h fun _ =>
    refuseIf_keeps h fun _ => refuseIf_keeps h fun _ => h.of_record rfl

theorem permitClear (h : PositionFollows s) : PositionFollows (rulePermitClear p s).1 :=
  asHolder_keeps h fun _ => refuseIf_keeps h fun _ => h.of_record (dropPermit_record _)

theorem radioStopOverride (h : PositionFollows s) : PositionFollows (ruleRadioStopOverride p s).1 :=
  asHolder_keeps h fun _ => refuseIf_keeps h fun _ => refuseIf_keeps h fun _ => h.of_record (putStops_record _ _)

theorem readTable (h : PositionFollows s) : PositionFollows (ruleReadTable p args s).1 := by
  unfold ruleReadTable
  split
  · exact h
  split
  · exact h
  · exact h

theorem inboxTake (h : PositionFollows s) : PositionFollows (ruleInboxTake s).1 := by
  unfold ruleInboxTake
  split
  · exact h
  · exact h.of_record rfl

theorem counterDecrement (h : PositionFollows s) : PositionFollows (ruleCounterDecrement args s).1 := by
  unfold ruleCounterDecrement
  split
  · exact h
  · exact h.of_record rfl

theorem profileCommit (h : PositionFollows s) : PositionFollows (ruleProfileCommit p s).1 :=
  asHolder_keeps h fun _ => refuseIf_keeps h fun _ => refuseIf_keeps h fun _ => refuseIf_keeps h fun _ =>
    refuseIf_keeps h fun _ => h.of_record rfl

/-! ### The rules that write it -/

theorem setPosition (h : PositionFollows s) : PositionFollows (ruleSetPosition p args s).1 := by
  refine asHolder_keeps h fun _ => ?_
  simp only
  split
  · exact h
  rename_i fit
  split
  · exact h
  · have range : word24 args 0 ≤ Config.lineEnd ∧ 50 ≤ word16 args 3 ∧ word16 args 3 ≤ Config.greatestUncertainty := by
      simpa only [within, Bool.not_eq_true', Bool.not_eq_false, Bool.and_eq_true, decide_eq_true_eq] using fit
    obtain ⟨line, least, greatest⟩ := range
    rw [Config.greatestUncertainty] at greatest
    refine h.placed .knownByCommand line ?_ ?_
    · simp only [uncertaintyOf, Config.leastUncertainty]
      omega
    · simp only [Config.leastUncertainty, Config.greatestAccumulator]
      omega

theorem restart (h : PositionFollows s) : PositionFollows (ruleRestart p s).1 := by
  have restarted : PositionFollows (restartedState s) := .fresh rfl rfl
  unfold ruleRestart
  split
  · exact restarted
  split
  · exact h
  split
  · exact h
  · exact restarted

/-- A segment entry whose fields are in range keeps the marks on the line (R43, R47). -/
theorem segmentPut (h : PositionFollows s) (i : Nat) {r : RawSegment} (good : recordFault none r = none) :
    PositionFollows (edit (fun x => { x with segments := x.segments.set i r.toSegment }) s) := by
  refine h.tabled rfl ((marksOnLine_iff _).mpr fun g hg m hm => ?_)
  rcases List.mem_or_eq_of_mem_set hg with old | rfl
  · exact (marksOnLine_iff _).mp h.marks g old m hm
  · exact recordFault_none_mark good hm

theorem profileWrite (h : PositionFollows s) : PositionFollows (ruleProfileWrite p args s).1 := by
  refine asHolder_keeps h fun _ => ?_
  simp only
  split
  · exact h
  split
  · exact h
  · rename_i good
    exact editing_keeps h (h.segmentPut _ (by simpa using good))

theorem parameterWrite (h : PositionFollows s) : PositionFollows (ruleParameterWrite p args s).1 := by
  refine asHolder_keeps h fun _ => ?_
  have cut : ∀ id q, PositionFollows (updOdo (fun o => if isGeometry id then { o with remainder := 0 } else o)
      (edit (fun x => { x with params := q }) s)) := by
    intro id q
    have edited : PositionFollows (edit (fun x => { x with params := q }) s) := h.of_record rfl
    cases isGeometry id
    · exact edited.of_record rfl
    · exact edited.dropped _ rfl
  simp only
  split
  · exact h
  split
  · exact h
  · exact editing_keeps h (cut _ _)

/-- Every rule keeps the record in its ranges (R174). -/
theorem rule {code : Byte} {n : Nat} {r : Rule} (hr : ruleOf code p args = some (n, r)) (h : PositionFollows s) :
    PositionFollows (r s).1 := by
  unfold ruleOf at hr
  split at hr <;> cases hr
  · exact h
  · exact h.readTable
  · exact h
  · exact h.withEventSet _
  · exact h.withEventSet _
  · exact h.withEventSet _
  · exact h.takeAuthority
  · exact h.releaseAuthority
  · exact h.setDirection
  · exact h.setComposition
  · exact h.setPosition
  · exact h.selectMode
  · exact h.restart
  · exact h.brakeDemand
  · exact h.putEmergency true
  · exact h.putEmergency false
  · exact h.emergencyReset
  · exact h.brakeTestStart
  · exact h.brakeTestAbort
  · exact h.doorRelease
  · exact h.doorClose
  · exact h.doorRetry
  · exact h.askAlarm .confirmed
  · exact h.askAlarm .overridden
  · exact h.restrictionAdd
  · exact h.restrictionLift
  · exact h.permitEnter
  · exact h.permitClear
  · exact h.radioStopOverride
  · exact h.inboxTake
  · exact h.counterDecrement
  · exact h.profileWrite
  · exact h.parameterWrite
  · exact h.profileCommit

theorem telegram (p : Port) (code : Byte) (args : List Byte) (h : PositionFollows s) :
    PositionFollows (takeTelegram p code args s) :=
  takeTelegram_keeps (h.of_record (completeTelegram_record _ _)) (fun _ k => k.of_record (updPort_record _ _ _))
    (fun _ k => k.of_record (updPort_record _ _ _)) fun _ _ _ hr _ k => k.rule hr

theorem byte (p : Port) (b : Byte) (h : PositionFollows s) : PositionFollows (receiveByte p b s) := by
  have put : ∀ f, PositionFollows (updPort p f s) := fun f => h.of_record (updPort_record _ f _)
  unfold receiveByte
  split
  · split
    · exact put _
    · exact h
  · split
    · exact put _
    · exact put _
  · simp only
    split
    · exact put _
    · unfold endTelegram
      split
      · split
        · exact h.telegram _ _ _
        · exact put _
      · exact put _

/-! ### The loads -/

theorem loadEnded {r : LoadResult} {x : Store} {t : State} (h : PositionFollows s) (ended : LoadEnded r x s t)
    (marks : marksOnLine x.segments) : PositionFollows t :=
  h.tabled (ended.keeps .odo (by decide)) (by rw [ended.store]; exact marks)

theorem marksOnLine_nil : marksOnLine [] := (marksOnLine_iff _).mpr fun _ hg => absurd hg List.not_mem_nil

theorem headerTaken (b : List Byte) (h : PositionFollows s) : PositionFollows (takeHeader b s) := by
  unfold takeHeader
  split
  · exact h.loadEnded (endNoProfile_ended _ _ s.store s) marksOnLine_nil
  · simp only
    split
    · exact h.loadEnded (endNoProfile_ended _ _ _ s) marksOnLine_nil
    · exact h.of_record rfl

theorem segmentsBegun (h : PositionFollows s) : PositionFollows (beginSegments s) := by
  unfold beginSegments
  simp only
  split
  · exact h.loadEnded (endNoSegments_ended _ _ _ s) h.marks
  split
  · exact h.loadEnded (endNoSegments_ended _ _ _ s) h.marks
  · exact h.of_record rfl

theorem paramsTaken (b : List Byte) (h : PositionFollows s) : PositionFollows (takeParams b s) := by
  unfold takeParams
  split
  · exact segmentsBegun (h.of_record rfl)
  · exact segmentsBegun (h.of_record rfl)

theorem segmentsTaken (b : List Byte) (h : PositionFollows s) : PositionFollows (takeSegments b s) := by
  unfold takeSegments
  simp only
  split
  · exact h.loadEnded (endNoSegments_ended _ _ s.store s) h.marks
  split
  · exact h.loadEnded (endNoSegments_ended _ _ s.store s) h.marks
  split
  · exact h.loadEnded (endNoSegments_ended _ _ s.store s) h.marks
  · rename_i good
    exact h.loadEnded (endLoad_ended _ _ s) (firstBadRecord_none_marks good)

/-! ### The readings of the brakes -/

theorem serviceRead (v : Nat) (h : PositionFollows s) : PositionFollows (useServiceReading v s) := by
  unfold useServiceReading
  simp only
  split
  · split
    · exact h.of_record (meetStep_record _ _)
    · exact h.of_record rfl
  · exact h.of_record rfl

theorem useReleaseReading_record (v : Nat) (s : State) : recordOf (useReleaseReading v s) = recordOf s := by
  have formed : ∀ t, recordOf (formSpringStatus v (clearStuck v t)) = recordOf t := by
    intro t
    refine (raiseIf_record _ _ _).trans ?_
    unfold clearStuck
    split
    · exact raiseIf_record _ _ _
    · rfl
  unfold useReleaseReading
  refine (formed _).trans ?_
  split
  · split
    · exact meetStep_record _ _
    · rfl
  · rfl

/-! ### The commands and the steps -/

/-- The commands that are no telegram and no frame keep the record in its ranges. -/
theorem event {i : Instr} (ht : telegramOf i = none) (hf : frameOf i = none) (h : PositionFollows s) :
    ∃ t, exec i s = .next t ∧ PositionFollows t := by
  cases i <;> first | (cases ht; done) | (cases hf; done) | refine ⟨_, rfl, ?_⟩
  case powerOn => exact .fresh rfl rfl
  case telegramCrcError => exact h.of_record (updPort_record _ _ _)
  case framingError => exact h.of_record (updPort_record _ _ _)
  case gapTimeExpiry => exact h.of_record (updPort_record _ _ _)
  case answerSent => exact h.of_record (updPort_record _ _ _)
  case linkSilenceExpiry => exact h.of_record (silenceOn_record _ _)
  case tachometerPulse =>
    simp only
    split
    · exact h.of_record ((endStandstill_record _).trans (countPulse_record _ _ _))
    · exact h.of_record (countPulse_record _ _ _)
  case samplingExpiry => exact h.sampled
  case standstillBegin =>
    split
    · exact h.standstillBegun
    · exact h
  case pinionFault =>
    have timed : PositionFollows (updOdo (fun o => { o with pinionFaultTime := Config.pinionFaultTime }) s) :=
      { h with pinion := Nat.le_refl _ }
    split
    · exact timed.of_record (setPinionFault_record _)
    · exact h
  case trackMarkDetection => exact h.detected
  case supervisionCycle => exact h.of_record (superviseOnce_record _)
  case periodStart => exact h.of_record rfl
  case servicePressureReading => exact h.serviceRead _
  case releasePressureReading => exact h.of_record (useReleaseReading_record _ _)
  case serviceCheckTimerExpiry =>
    split
    · exact h.of_record (setFaults_record _ _ _)
    · exact h
  case releaseCheckTimerExpiry =>
    split
    · exact h.of_record (raiseIf_record _ _ _)
    · exact h
  case applyCheckTimerExpiry =>
    split
    · exact h.of_record (setFaults_record _ _ _)
    · exact h
  case brakeTestStepTimerExpiry =>
    split
    · split
      · exact h.of_record (endTest_keeps _ s).1.record
      · exact h
    · exact h
  case doorTimerExpiry => exact h.of_record (updDoor_record _ _ _)
  case doorLockedInput => exact h.of_record ((updDoor_record _ _ _).trans (raiseIf_record _ _ _))
  case doorClosedInput => exact h.of_record ((updDoor_record _ _ _).trans (raiseIf_record _ _ _))
  case doorOpenLimitInput => exact h.of_record (updDoor_record _ _ _)
  case doorObstacleInput => exact h.of_record (updDoor_record _ _ _)
  case passengerButton => exact h.of_record (updDoor_record _ _ _)
  case isolationSwitch => exact h.of_record (updDoor_record _ _ _)
  case handleChange =>
    split
    · exact h
    · exact h.of_record (setAlarm_record _ _)
  case discardedFrame =>
    split
    · exact h
    · exact h.of_record (receiveBytes_record _ _)
  case transmissionEnd =>
    split
    · exact h.of_record (beginTransmission_record _)
    · exact h
  case windowTimerExpiry =>
    split
    · exact h.of_record rfl
    · exact h
  case silenceTimerTick =>
    split
    · exact h.of_record (formCoverage_record _)
    · exact h
  case reportTimerExpiry =>
    split
    · exact h.of_record (beginTransmission_record _)
    · exact h
  case loaderStatusAnswer =>
    split
    · exact h.of_record rfl
    · exact h
  case loaderBusyTimeout =>
    split
    · exact h.loadEnded (endNoProfile_ended _ _ s.store s) marksOnLine_nil
    · exact h
  case headerReadEnd =>
    split
    · exact h.headerTaken _
    · exact h
  case parameterBlockReadEnd =>
    split
    · exact h.paramsTaken _
    · exact h
  case segmentBlockReadEnd =>
    split
    · exact h.segmentsTaken _
    · exact h
  case commitStatusAnswer =>
    split
    · split
      · exact h
      · exact h.of_record (endPage_record _ _)
    · exact h
  case pageTimerExpiry =>
    split
    · split
      · exact h.of_record (failPage_record _ _)
      · exact h
    · exact h
  case telegramByteArrival => exact h.byte _ _
  case commitTransferEnd =>
    split
    · exact h.of_record rfl
    · exact h.of_record rfl
    · exact h

theorem step {t : State} (h : PositionFollows s) (hs : step s = .next t) : PositionFollows t :=
  step_keeps (fun _ k => k.of_record rfl) (fun _ _ k => k.of_record rfl)
    (fun _ _ _ k he => exec_keeps (fun p code args _ l => l.telegram p code args)
      (fun f _ l => l.of_record (receiveFrame_record f _))
      (fun _ _ _ ht hf l hx => by
        obtain ⟨w, e, hw⟩ := l.event ht hf
        rw [e] at hx
        cases hx
        exact hw) k he) h hs

end PositionFollows

/-- Settles O58: the telegrams, the frames, the events and the passing of time each keep the record in its ranges. -/
theorem everyStepKeepsThePosition : Obligations.EveryStepKeepsThePosition := by
  unfold Obligations.EveryStepKeepsThePosition
  intro s t h hs
  exact h.step hs

end Sys2Proof.Machine
end

section
/-!
What holds of every state holds after a reset, with the input levels at rest.
-/

namespace Sys2Proof.Machine

/-- No port has an event pending, so none has one pending and enabled (R183). -/
theorem notices_reset : NoticesFollow State.reset := by
  intro p
  refine ⟨fun h => absurd h (by cases p <;> decide), fun ⟨e, h, _⟩ => absurd h ?_⟩
  cases p <;> cases e <;> decide

theorem demands_reset : DemandsFollow State.reset := (demandsFollow_iff _).mpr (.fresh inputsAtRest rfl rfl)

/-- The latch is set, the driven kind EMERGENCY, and the mapping gives the outputs (R93, R110). -/
theorem brakes_reset : BrakesFollow State.reset where
  latch _ := ⟨by decide, by decide⟩
  mapping _ := by decide
  hold h := by cases h
  test h := by cases h
  step h := by cases h

/-- The tables, the lists and the queues are empty, and the memory has its canonical form (R35, R55, R74, R150). -/
theorem tables_reset : TablesFollow State.reset where
  segments := Nat.zero_le _
  long _ hg := absurd hg List.not_mem_nil
  joined := by simp [contiguous, State.reset, Store.reset]
  count h := by cases h
  glc := by decide
  restrictions := Nat.zero_le _
  ordered := .nil
  active := .nil
  stops := by decide
  inbox := Nat.zero_le _
  texts _ hm := absurd hm List.not_mem_nil
  free := by decide
  acks := Nat.zero_le _
  recent := Nat.zero_le _
  distinct := .nil
  window _ h := by cases h
  silence := by decide
  held _ := rfl
  memory := reset_memory_wf

/-- Settles O60. -/
theorem invariantsHoldAtReset : Obligations.InvariantsHoldAtReset :=
  ⟨notices_reset, demands_reset, brakes_reset, freshState_mode inputsAtRest, .fresh rfl rfl, tables_reset⟩

end Sys2Proof.Machine
end

section
/-!
The position set by command (R28): what is set with a notice and a zone formed after it, said once for SET POSITION and
for a matched mark.
-/

namespace Sys2Proof.Machine

/-- What a change of the position record with its notice leaves, with the zone formed after it (R26, R28, R155). -/
structure ZoneSet (n : Notice) (f : Odometry → Odometry) (s t : State) : Prop where
  odo : t.odo = { f s.odo with notice := n }
  event : raisedAll .position t
  zone : ZoneFormed s t
  keeps : Keeps [.mode, .store, .limits, .sup, .dem, .drive, .doors, .memory, .pending] s t
  ports : PortsKeep [.position, .radio] none s t

theorem formZone_set (n : Notice) (f : Odometry → Odometry) (s : State) :
    ZoneSet n f s (formZone (notice n (updOdo f s))) := by
  obtain ⟨zone, keeps, ports⟩ := formZone_formed (notice n (updOdo f s))
  refine ⟨keeps .odo (by decide), (raisedAll_raise .position _).mono ports,
    zone.within rfl rfl rfl rfl rfl (.refl [] none _), ?_, ?_⟩
  · refine Keeps.trans (t := notice n (updOdo f s)) ?_ (keeps.mono (by decide))
    intro b hb
    cases b <;> first | rfl | exact absurd hb (by decide)
  · have noticed : PortsKeep [.position, .radio] none s (notice n (updOdo f s)) := .raise_of .position rfl (by decide)
    exact noticed.trans (ports.mono (by decide) (.inl rfl))

/-- SET POSITION as the holder's command. -/
theorem ruleSetPosition_holder {p : Port} {x u : Nat} {s : State} (h : isHolder p s = true) (hx : x < 16777216)
    (hu : u < 65536) : ruleSetPosition p (natField 3 x ++ natField 2 u) s =
      if x ≤ 200000 ∧ 50 ≤ u ∧ u ≤ 600 then
        if moving s then (s, plainReply .notStandstill) else (putPosition x u s, okReply [])
      else (s, plainReply .badArgument) := by
  have second : word16 (natField 3 x ++ natField 2 u) 3 = u := by
    rw [word16_after_three x _ 0 hx, ← List.append_nil (natField 2 u)]
    exact word16_natField u [] hu
  have range : (!(decide (x ≤ Config.lineEnd) && within 50 Config.greatestUncertainty u)) = true ↔
      ¬(x ≤ 200000 ∧ 50 ≤ u ∧ u ≤ 600) := by
    simp only [within, Bool.not_eq_true', ← Bool.not_eq_true, Bool.and_eq_true, decide_eq_true_eq]
    exact Iff.rfl
  rw [ruleSetPosition, asHolder_holder _ h]
  simp only [word24_natField x _ hx, second, range, ite_not]

/-- Settles O12: the tests of the rule in their order, and then the position set, its notice and the zone
(`formZone_set`). -/
theorem setPositionMakesItKnown : Obligations.SetPositionMakesItKnown := by
  intro p x u s ready holder hx hu
  let v := completeTelegram p s
  have rule := ruleSetPosition_holder (s := v) (by simpa [v] using holder) hx hu
  have still : moving v = !s.odo.standstill := moving_completeTelegram p s
  have taken : exec (.setPosition p (natField 3 x ++ natField 2 u)) s = .next (holdAnswer p 0x14
      (ruleSetPosition p (natField 3 x ++ natField 2 u) v)) :=
    request_ready 0x14 _ 5 _ ready (by simp [natField_length])
  refine ⟨_, taken, fun bad => .of_refuse ?_, fun good moves => .of_refuse ?_, fun good stands => ?_⟩
  · rw [rule, if_neg bad]
  · rw [rule, if_pos good, still, moves]
    rfl
  · have put : ZoneSet .knownByCommand _ v (putPosition x u v) := formZone_set _ _ v
    have done : ruleSetPosition p (natField 3 x ++ natField 2 u) v = (putPosition x u v, okReply []) := by
      rw [rule, if_pos good, still, stands]
      rfl
    rw [done]
    refine ⟨.of_rule (r := (putPosition x u v, okReply [])) (by decide) put.keeps
      (put.ports.mono (by decide) (.inl rfl)), ?_, put.event.hold (r := (putPosition x u v, okReply [])) p _, ?_⟩
    · rw [holdAnswer_odo]
      have odo := put.odo
      rw [show v.odo = s.odo from completeTelegram_odo p s] at odo
      exact odo
    · have held := PortsKeep.holdAnswer (may := []) p 0x14 (putPosition x u v, okReply [])
      exact put.zone.within (completeTelegram_radio p s) (holdAnswer_radio _ _ _)
        (by rw [holdAnswer_odo]) (by rw [holdAnswer_odo]) (holdAnswer_store _ _ _) held

end Sys2Proof.Machine
end

section
/-!
What a net count of the source does to the position record (R20, R24, R25), and which mark a detection finds (R26).
-/

namespace Sys2Proof.Machine

/-! ### The position moved -/

/-- The blocks but the odometry and the ports. -/
def besidesOdo : List Block := [.mode, .store, .limits, .sup, .dem, .drive, .doors, .radio, .memory, .pending]

/-- What a growth of the uncertainty and a loss of the position may change (R24, R25). -/
structure CertaintyMoved (s t : State) : Prop where
  odo : t.odo = { s.odo with
    posState := t.odo.posState, accumulator := t.odo.accumulator, uncertainty := t.odo.uncertainty
    notice := t.odo.notice }
  keeps : Keeps besidesOdo s t
  ports : PortsKeep [.position] none s t

theorem CertaintyMoved.refl (s : State) : CertaintyMoved s s := ⟨rfl, .refl _ s, .refl _ _ s⟩

theorem CertaintyMoved.trans {s t u : State} (h : CertaintyMoved s t) (k : CertaintyMoved t u) :
    CertaintyMoved s u := by
  refine ⟨?_, h.keeps.trans k.keeps, h.ports.trans k.ports⟩
  have odo := k.odo
  rw [h.odo] at odo
  exact odo

/-- All but the ports stand, with the odometry put back. -/
theorem Keeps.besides {s t : State} (k : Keeps besidesOdo s t) : Keeps allButPorts s { t with odo := s.odo } := by
  intro b hb
  have kept := k b
  cases b <;> first | rfl | exact absurd hb (by decide) | exact kept (by decide)

theorem updOdo_keeps (f : Odometry → Odometry) (s : State) : Keeps besidesOdo s (updOdo f s) := fun b hb => by
  cases b <;> first | rfl | exact absurd hb (by decide)

theorem notice_keeps (n : Notice) (s : State) : Keeps besidesOdo s (notice n s) := fun b hb => by
  cases b <;> first | rfl | exact absurd hb (by decide)

theorem notice_ports (n : Notice) (s : State) : PortsKeep [.position] none s (notice n s) :=
  .raise_of .position rfl (by decide)

theorem notice_raised (n : Notice) (s : State) : raisedAll .position (notice n s) := raisedAll_raise _ _

theorem loseBy_moved (n : Notice) (s : State) : CertaintyMoved s (loseBy n s) :=
  ⟨rfl, (updOdo_keeps _ s).trans (notice_keeps n _), .raise_of .position rfl (by decide)⟩

/-- Without a movement, or in a position that is not KNOWN, nothing grows (R24, R25). -/
theorem growUncertainty_stays {factor moved : Nat} {s : State} (h : s.odo.posState ≠ .known ∨ moved = 0) :
    growUncertainty factor moved s = s := by
  rw [growUncertainty, if_pos h]

/-- A growth that keeps u within 600 (R25). -/
theorem growUncertainty_fits {factor moved : Nat} {s : State} (known : s.odo.posState = .known) (hm : moved ≠ 0)
    (fits : s.odo.accumulator + factor * moved ≤ Config.greatestAccumulator) : growUncertainty factor moved s =
      updOdo (fun o => { o with
        accumulator := s.odo.accumulator + factor * moved
        uncertainty := uncertaintyOf (s.odo.accumulator + factor * moved) }) s := by
  rw [growUncertainty, if_neg (by simp [known, hm]), if_pos fits]
  rfl

/-- A growth that would not (R24, R25). -/
theorem growUncertainty_exceeds {factor moved : Nat} {s : State} (known : s.odo.posState = .known) (hm : moved ≠ 0)
    (exceeds : Config.greatestAccumulator < s.odo.accumulator + factor * moved) : growUncertainty factor moved s =
      loseBy .lostByUncertainty (updOdo (fun o => { o with
        accumulator :=
          s.odo.accumulator + factor * ((Config.greatestAccumulator - s.odo.accumulator) / factor) }) s) := by
  rw [growUncertainty, if_neg (by simp [known, hm]), if_neg (Nat.not_le.mpr exceeds)]
  rfl

theorem growUncertainty_moved (factor moved : Nat) (s : State) : CertaintyMoved s (growUncertainty factor moved s) := by
  have put : ∀ a u, CertaintyMoved s (updOdo (fun o => { o with accumulator := a, uncertainty := u }) s) := fun a u =>
    ⟨rfl, updOdo_keeps _ s, .of_eq rfl⟩
  unfold growUncertainty
  split
  · exact .refl s
  split
  · exact put _ _
  · exact (put _ _).trans (loseBy_moved _ _)

/-- After the position is placed, only its certainty moves. -/
theorem movePosition_certainty (net : Int) {s : State} (h : s.odo.posState ≠ .unknown) :
    CertaintyMoved (placedBy net s) (movePosition net s) := by
  have grown : CertaintyMoved (placedBy net s) (grownBy net s) := growUncertainty_moved _ _ _
  rw [movePosition_known net h]
  split
  · exact grown.trans (loseBy_moved _ _)
  · exact grown

theorem leavesLine_iff (net : Int) (s : State) :
    leavesLine net s = true ↔ movedTo net s < 0 ∨ 200000 < movedTo net s := by
  simp [leavesLine]

/-- A position that is not KNOWN once it has grown is moved no further (R24). -/
theorem movePosition_uncertain {net : Int} {s : State} (h : s.odo.posState ≠ .unknown)
    (lost : (grownBy net s).odo.posState ≠ .known) : movePosition net s = grownBy net s := by
  rw [movePosition_known net h, if_neg fun x => lost x.2]

/-- A LOST position moves, and its certainty stays (R24). -/
theorem movePosition_lost {net : Int} {s : State} (h : s.odo.posState = .lost) :
    movePosition net s = placedBy net s := by
  have stays : grownBy net s = placedBy net s :=
    growUncertainty_stays (.inl fun x => absurd (h.symm.trans x) (by decide))
  rw [movePosition_uncertain (by rw [h]; decide) (by rw [stays]; exact fun x => absurd (h.symm.trans x) (by decide)),
    stays]

/-- A KNOWN position moved while u stays within 600: it is LOST only at an end of the line (R24, R25). -/
theorem movePosition_fits {net : Int} {s : State} (known : s.odo.posState = .known)
    (fits : s.odo.accumulator + errorFactor s * gapBetween (placedBy net s).odo.position s.odo.position ≤
      Config.greatestAccumulator) :
    (movePosition net s).odo.accumulator =
      s.odo.accumulator + errorFactor s * gapBetween (placedBy net s).odo.position s.odo.position ∧
    (leavesLine net s = false → (movePosition net s).odo.posState = .known ∧
      ((placedBy net s).odo.position ≠ s.odo.position →
        (movePosition net s).odo.uncertainty = uncertaintyOf (movePosition net s).odo.accumulator)) ∧
    (leavesLine net s = true → (movePosition net s).odo.posState = .lost ∧ (movePosition net s).odo.uncertainty = 600 ∧
      (movePosition net s).odo.notice = .lostAtLineEnd ∧ raisedAll .position (movePosition net s)) := by
  have place : (placedBy net s).odo.posState = .known := known
  have grown : (grownBy net s).odo.posState = .known ∧ (grownBy net s).odo.accumulator =
        s.odo.accumulator + errorFactor s * gapBetween (placedBy net s).odo.position s.odo.position ∧
      ((placedBy net s).odo.position ≠ s.odo.position →
        (grownBy net s).odo.uncertainty = uncertaintyOf (grownBy net s).odo.accumulator) := by
    by_cases still : gapBetween (placedBy net s).odo.position s.odo.position = 0
    · have stays : grownBy net s = placedBy net s := growUncertainty_stays (.inr still)
      rw [stays, still]
      refine ⟨place, rfl, fun x => absurd ?_ x⟩
      simp only [gapBetween] at still
      omega
    · have grows := growUncertainty_fits place still fits
      exact ⟨(congrArg (·.odo.posState) grows).trans known, congrArg (·.odo.accumulator) grows,
        fun _ => (congrArg (·.odo.uncertainty) grows).trans (congrArg (uncertaintyOf ·.odo.accumulator) grows).symm⟩
  obtain ⟨state, accumulator, uncertainty⟩ := grown
  rw [movePosition_known net (by rw [known]; decide)]
  cases leavesLine net s with
  | false =>
    rw [if_neg (by simp)]
    exact ⟨accumulator, fun _ => ⟨state, uncertainty⟩, fun x => by cases x⟩
  | true =>
    rw [if_pos ⟨rfl, state⟩]
    exact ⟨accumulator, (by intro x; cases x), fun _ => ⟨rfl, rfl, rfl, notice_raised _ _⟩⟩

/-- A KNOWN position moved by more than keeps u within 600 (R24, R25). -/
theorem movePosition_exceeds {net : Int} {s : State} (known : s.odo.posState = .known)
    (within : s.odo.accumulator ≤ Config.greatestAccumulator)
    (exceeds : Config.greatestAccumulator <
      s.odo.accumulator + errorFactor s * gapBetween (placedBy net s).odo.position s.odo.position) :
    movePosition net s = loseBy .lostByUncertainty (updOdo (fun o => { o with
      accumulator := s.odo.accumulator +
        errorFactor s * ((Config.greatestAccumulator - s.odo.accumulator) / errorFactor s) }) (placedBy net s)) := by
  have moves : gapBetween (placedBy net s).odo.position s.odo.position ≠ 0 := by
    intro x
    rw [x, Nat.mul_zero] at exceeds
    omega
  have grows : grownBy net s = _ := growUncertainty_exceeds (s := placedBy net s) known moves exceeds
  rw [movePosition_uncertain (by rw [known]; decide) (by rw [grows]; exact fun x => by cases x), grows]
  rfl

/-- A net count applied moves the position as R20, R24 and R25 say. -/
theorem movePosition_moved (net : Int) (s : State) : PositionMoved net s (movePosition net s) := by
  by_cases unknown : s.odo.posState = .unknown
  · rw [movePosition_unknown net unknown]
    exact ⟨fun _ => rfl, fun x => absurd unknown x, fun x => absurd unknown x, fun x => absurd unknown x,
      fun x => absurd (unknown.symm.trans x) (by decide), fun x => absurd (unknown.symm.trans x) (by decide),
      fun x => absurd (unknown.symm.trans x) (by decide), rfl, .refl _ s, .refl _ _ s⟩
  have moved := movePosition_certainty net unknown
  have placed : (movePosition net s).odo.position = (placedBy net s).odo.position ∧
      (movePosition net s).odo.remainder = (placedBy net s).odo.remainder ∧
      (movePosition net s).odo.sinceCorrection = (placedBy net s).odo.sinceCorrection := by
    rw [moved.odo]
    exact ⟨rfl, rfl, rfl⟩
  obtain ⟨position, remainder, since⟩ := placed
  constructor
  case unknown => exact fun x => absurd x unknown
  case position => exact fun _ => position
  case remainder =>
    intro _
    rw [remainder]
    show (if leavesLine net s = true then 0 else _) = _
    have on : 0 ≤ movedTo net s ∧ movedTo net s ≤ 200000 ↔ ¬leavesLine net s = true := by
      rw [leavesLine_iff]
      omega
    simp only [on, ite_not]
  case since => intro _; rw [since, position]; rfl
  case lost =>
    intro lost
    rw [movePosition_lost lost]
    exact ⟨lost, rfl, rfl⟩
  case grows =>
    intro known fits
    rw [position] at fits ⊢
    obtain ⟨accumulator, stays, leaves⟩ := movePosition_fits known fits
    exact ⟨accumulator, fun on => stays (by rw [← Bool.not_eq_true, leavesLine_iff]; omega),
      fun off => leaves ((leavesLine_iff net s).mpr off)⟩
  case outgrows =>
    intro known within exceeds
    rw [position] at exceeds
    rw [movePosition_exceeds known within exceeds]
    have factor : 0 < errorFactor s := by
      refine Nat.pos_of_ne_zero fun x => ?_
      rw [x, Nat.zero_mul] at exceeds
      omega
    have room := Nat.mul_div_le (580000 - s.odo.accumulator) (errorFactor s)
    have next := Nat.lt_mul_div_succ (580000 - s.odo.accumulator) factor
    rw [Nat.mul_add_one] at next
    refine ⟨rfl, rfl, rfl, notice_raised _ _, ?_, ?_, _, rfl⟩
    · show s.odo.accumulator + errorFactor s * ((580000 - s.odo.accumulator) / errorFactor s) ≤ 580000
      omega
    · show 580000 < s.odo.accumulator + errorFactor s * ((580000 - s.odo.accumulator) / errorFactor s) + errorFactor s
      omega
  case others =>
    rw [position, remainder, since]
    exact moved.odo
  case keeps => exact Keeps.besides (Keeps.trans (t := placedBy net s) (updOdo_keeps _ s) moved.keeps)
  case ports => exact PortsKeep.trans (t := placedBy net s) (.of_eq rfl) moved.ports

end Sys2Proof.Machine
end

section
/-!
Which mark a detection finds, and what it does then (R26).
-/

namespace Sys2Proof.Machine

/-! ### The mark found -/

theorem leastOf_eq {z v : Nat} {l : List Nat} (mem : v ∈ l) (least : ∀ x ∈ l, v ≤ x) : leastOf z l = v := by
  cases l with
  | nil => cases mem
  | cons x rest =>
    have min : (x :: rest).min? = some v := List.min?_eq_some_iff.mpr ⟨mem, least⟩
    rw [List.min?_cons'] at min
    exact Option.some.inj min

/-- The marks that stand as near as another, of a list. -/
def tiedWith (marks : List Nat) (pos m : Nat) : List Nat := marks.filter fun n => gapBetween n pos = gapBetween m pos

theorem findMark_nothing {marks : List Nat} {pos reach : Nat} (far : ∀ m ∈ marks, reach < gapBetween m pos) :
    findMark marks pos reach = .nothing := by
  have none : (marks.filter fun m => gapBetween m pos ≤ reach) = [] := by
    rw [List.filter_eq_nil_iff]
    intro m hm
    simpa using far m hm
  unfold findMark
  rw [none]

variable {marks : List Nat} {pos reach m : Nat}

/-- A mark in reach that no mark is nearer than decides what is found: it alone, or a tie (R26). -/
theorem findMark_of_least (mem : m ∈ marks) (near : gapBetween m pos ≤ reach)
    (least : ∀ n ∈ marks, gapBetween m pos ≤ gapBetween n pos) :
    (tiedWith marks pos m = [m] → findMark marks pos reach = .nearest m) ∧
    ((∀ n, tiedWith marks pos m ≠ [n]) → findMark marks pos reach = .ambiguous) := by
  have found : m ∈ marks.filter fun n => gapBetween n pos ≤ reach := List.mem_filter.mpr ⟨mem, by simpa using near⟩
  have tied : (marks.filter fun n => gapBetween n pos ≤ reach).filter (fun n => gapBetween n pos = gapBetween m pos) =
      tiedWith marks pos m := by
    rw [List.filter_filter, tiedWith]
    refine List.filter_congr fun n _ => ?_
    by_cases same : gapBetween n pos = gapBetween m pos
    · simp [same, near]
    · simp [same]
  unfold findMark
  simp only
  split
  · rename_i none
    rw [none] at found
    cases found
  · rename_i x rest some
    have all : ∀ d ∈ (x :: rest).map (gapBetween · pos), gapBetween m pos ≤ d := by
      rintro d hd
      obtain ⟨n, hn, rfl⟩ := List.mem_map.mp hd
      rw [← some] at hn
      exact least n (List.mem_filter.mp hn).1
    rw [leastOf_eq (List.mem_map_of_mem (f := (gapBetween · pos)) (some ▸ found)) all, ← some, tied]
    constructor
    · intro only
      rw [only]
    · intro several
      split
      · rename_i n one
        exact absurd one (several n)
      · rfl

/-- A mark is tied with itself, and else with those of the others that stand as near. -/
theorem tiedWith_perm (pos : Nat) (mem : m ∈ marks) :
    (tiedWith marks pos m).Perm (m :: tiedWith (marks.erase m) pos m) := by
  have perm : (tiedWith marks pos m).Perm (tiedWith (m :: marks.erase m) pos m) := (List.perm_cons_erase mem).filter _
  have front : tiedWith (m :: marks.erase m) pos m = m :: tiedWith (marks.erase m) pos m :=
    List.filter_cons_of_pos (by simp)
  rwa [front] at perm

/-- A mark in reach that is nearer than any other is found (R26). -/
theorem findMark_nearest (mem : m ∈ marks) (near : gapBetween m pos ≤ reach)
    (nearest : ∀ n ∈ marks.erase m, gapBetween m pos < gapBetween n pos) : findMark marks pos reach = .nearest m := by
  have split := List.perm_cons_erase mem
  refine (findMark_of_least mem near fun n hn => ?_).1 ?_
  · rcases List.mem_cons.mp (split.mem_iff.mp hn) with rfl | other
    · exact Nat.le_refl _
    · exact Nat.le_of_lt (nearest n other)
  · have others : tiedWith (marks.erase m) pos m = [] := by
      rw [tiedWith, List.filter_eq_nil_iff]
      intro n hn
      have := nearest n hn
      simp only [decide_eq_true_eq]
      omega
    have perm := tiedWith_perm pos mem
    rw [others] at perm
    exact List.perm_singleton.mp perm

/-- Two marks in reach, equally near and none nearer, leave it open which was met (R26). -/
theorem findMark_tie (mem : m ∈ marks) (near : gapBetween m pos ≤ reach)
    (tie : ∃ n ∈ marks.erase m, gapBetween n pos = gapBetween m pos)
    (least : ∀ n ∈ marks, gapBetween m pos ≤ gapBetween n pos) : findMark marks pos reach = .ambiguous := by
  refine (findMark_of_least mem near least).2 fun x one => ?_
  obtain ⟨n, hn, same⟩ := tie
  have other : n ∈ tiedWith (marks.erase m) pos m := List.mem_filter.mpr ⟨hn, by simpa using same⟩
  have length := (tiedWith_perm pos mem).length_eq
  rw [one, List.length_singleton, List.length_cons] at length
  have := List.length_pos_of_mem other
  omega

/-! ### What a detection does -/

/-- What every detection does: a notice, and else the odometry and the zone alone (R26, R155). -/
structure MarkNoted (s t : State) : Prop where
  event : raisedAll .position t
  keeps : Keeps [.mode, .store, .limits, .sup, .dem, .drive, .doors, .memory, .pending] s t
  ports : PortsKeep [.position, .radio] none s t

theorem MarkNoted.after {s u t : State} (h : MarkNoted u t)
    (k : Keeps [.mode, .store, .limits, .sup, .dem, .drive, .doors, .memory, .pending] s u)
    (p : PortsKeep [.position] none s u) : MarkNoted s t :=
  ⟨h.event, k.trans h.keeps, (p.mono (by decide) (.inl rfl)).trans h.ports⟩

theorem notice_noted (n : Notice) (s : State) : MarkNoted s (notice n s) :=
  ⟨notice_raised n s, (notice_keeps n s).mono (by decide), (notice_ports n s).mono (by decide) (.inl rfl)⟩

theorem loseBy_noted (n : Notice) (s : State) : MarkNoted s (loseBy n s) :=
  ⟨notice_raised n _, (loseBy_moved n s).keeps.mono (by decide), (loseBy_moved n s).ports.mono (by decide) (.inl rfl)⟩

/-- The current zone of a mark matched (R26, R155). -/
theorem matchMark_set (m : Nat) (s : State) : ZoneSet .markMatched (fun o => { o with
    position := m, remainder := 0, accumulator := 0, uncertainty := 20, posState := .known
    unexpectedMarks := 0, sinceCorrection := 0, awaited := none }) s (matchMark m s) := formZone_set _ _ s

/-- A detection with no mark in reach: the second in a row loses a KNOWN position (R24, R26). -/
theorem unexpectedMark_noted (s : State) : MarkNoted s (unexpectedMark s) ∧ (unexpectedMark s).radio = s.radio ∧
    (unexpectedMark s).odo = if s.odo.posState = .known ∧ 1 ≤ s.odo.unexpectedMarks then
        { s.odo with unexpectedMarks := min 255 (s.odo.unexpectedMarks + 1), posState := .lost, uncertainty := 600
                     notice := .lostByMarks }
      else { s.odo with unexpectedMarks := min 255 (s.odo.unexpectedMarks + 1), notice := .markUnexpected } := by
  let u := updOdo (fun o => { o with unexpectedMarks := min 255 (s.odo.unexpectedMarks + 1) }) s
  have counted : Keeps besidesOdo s u := updOdo_keeps _ s
  have second : 2 ≤ min 255 (s.odo.unexpectedMarks + 1) ↔ 1 ≤ s.odo.unexpectedMarks := by omega
  have e : unexpectedMark s = if s.odo.posState = .known ∧ 2 ≤ min 255 (s.odo.unexpectedMarks + 1) then
      loseBy .lostByMarks u else notice .markUnexpected u := rfl
  rw [e]
  simp only [second]
  split
  · exact ⟨(loseBy_noted _ u).after (counted.mono (by decide)) (.of_eq rfl), rfl, rfl⟩
  · exact ⟨(notice_noted _ u).after (counted.mono (by decide)) (.of_eq rfl), rfl, rfl⟩

/-- The state at a detection with the source's pulses applied (R20, R26). -/
def pulsesApplied (s : State) : State :=
  updOdo (fun o => { o with applied := s.odo.countOf s.odo.source }) (movePosition (unappliedCount s.odo) s)

/-- What a detection does by what it finds (R26). -/
def answerMark (found : MarkFind) (s : State) : State :=
  match found with
  | .nearest m => matchMark m s
  | .nothing => unexpectedMark s
  | .ambiguous => notice .markAmbiguous s

theorem answerMark_noted (found : MarkFind) (s : State) : MarkNoted s (answerMark found s) := by
  cases found with
  | nearest m => exact ⟨(matchMark_set m s).event, (matchMark_set m s).keeps, (matchMark_set m s).ports⟩
  | nothing => exact (unexpectedMark_noted s).1
  | ambiguous => exact notice_noted _ s

/-- What the position record has taken before the mark is looked for: the pulses not yet applied (R20, R26). -/
theorem pulsesApplied_moved (s : State) : Keeps besidesOdo s (pulsesApplied s) ∧
    PortsKeep [.position] none s (pulsesApplied s) := by
  have moved := movePosition_moved (unappliedCount s.odo) s
  refine ⟨Keeps.trans (t := movePosition (unappliedCount s.odo) s) ?_ (updOdo_keeps _ _),
    PortsKeep.trans (t := movePosition (unappliedCount s.odo) s) moved.ports (.of_eq rfl)⟩
  intro b hb
  have kept := moved.keeps b
  cases b <;> first | exact absurd hb (by decide) | exact kept (by decide)

/-- A detection in a position that is not UNKNOWN (R26). -/
theorem detectMark_known {s : State} (h : s.odo.posState ≠ .unknown) : detectMark s =
    answerMark (findMark (marksOf s.store.segments) (pulsesApplied s).odo.position
      ((pulsesApplied s).odo.uncertainty + 10)) (pulsesApplied s) := by
  have moved := movePosition_moved (unappliedCount s.odo) s
  have store : (movePosition (unappliedCount s.odo) s).store = s.store := moved.keeps .store (by decide)
  have count : (movePosition (unappliedCount s.odo) s).odo.countOf (movePosition (unappliedCount s.odo) s).odo.source =
      s.odo.countOf s.odo.source := by
    rw [moved.others]
    rfl
  have applied : updOdo (fun o => { o with applied := o.countOf o.source }) (movePosition (unappliedCount s.odo) s) =
      pulsesApplied s := by
    rw [pulsesApplied, ← count]
    rfl
  have segments : (pulsesApplied s).store.segments = s.store.segments := congrArg Store.segments store
  unfold detectMark
  rw [if_neg h]
  simp only [applied, segments]
  rfl

/-- Settles O40: the pulses are applied (`movePosition_moved`), and what is found of the marks in reach decides. -/
theorem marksCorrectThePosition : Obligations.MarksCorrectThePosition := by
  intro s
  by_cases unknown : s.odo.posState = .unknown
  · have ignored : detectMark s = notice .markIgnored s := by rw [detectMark, if_pos unknown]
    have noted := notice_noted .markIgnored s
    exact ⟨notice .markIgnored s, congrArg Host.Outcome.next ignored, noted.event, noted.keeps, noted.ports,
      fun _ => ⟨rfl, rfl⟩, fun x => absurd unknown x⟩
  · obtain ⟨kept, ports⟩ := pulsesApplied_moved s
    have noted := fun found => (answerMark_noted found (pulsesApplied s)).after (kept.mono (by decide)) ports
    have radio : (pulsesApplied s).radio = s.radio := kept .radio (by decide)
    refine ⟨_, congrArg Host.Outcome.next (detectMark_known unknown), (noted _).event, (noted _).keeps, (noted _).ports,
      fun x => absurd x unknown, fun _ => ⟨movePosition (unappliedCount s.odo) s, (pulsesApplied s).odo, _,
        movePosition_moved _ s, rfl, rfl, fun m mem near nearest => ?_, fun far => ?_, fun m mem near tie least => ?_⟩⟩
    · rw [findMark_nearest mem near nearest]
      have set := matchMark_set m (pulsesApplied s)
      exact ⟨set.odo, set.zone.within radio rfl rfl rfl rfl (.refl [] none _)⟩
    · rw [findMark_nothing far]
      obtain ⟨_, stands, odo⟩ := unexpectedMark_noted (pulsesApplied s)
      exact ⟨stands.trans radio, odo⟩
    · rw [findMark_tie mem near tie least]
      exact ⟨rfl, radio⟩

end Sys2Proof.Machine
end

section
/-!
What the acts that follow a change of standstill leave, and the rows, the latch and the alarm that they come to (R14,
R32, R72, R96, R97, R103 to R107, R148).
-/

namespace Sys2Proof.Machine

/-! ### What the acts leave -/

/-- The blocks that the rows, the doors and the brakes are apart from. -/
def standingBlocks : List Block := [.mode, .odo, .store, .limits, .sup, .radio, .memory, .pending]

/-- The same but for the odometry: what the stages of a sampling expiry leave of the rest. -/
def motionBlocks : List Block := [.mode, .store, .limits, .sup, .radio, .memory, .pending]

/-- What an act on the odometry, the rows, the doors or the outputs leaves of the brakes and of the blocks `kept`. -/
structure RowsActed (kept : List Block) (s t : State) : Prop where
  drive : DriveKeeps s.drive t.drive
  unstuck : s.drive.springStuck = true → t.drive.springStuck = false → raisedAll .brakeState t
  handles : t.dem.handles = s.dem.handles
  test : TestCarried s.drive t.drive
  keeps : Keeps kept s t
  ports : PortsKeep standstillEvents none s t

variable {kept : List Block} {s t u : State}

theorem RowsActed.refl (s : State) : RowsActed kept s s :=
  ⟨.refl _, fun h k => absurd (h.symm.trans k) (by decide), rfl, .refl _, .refl _ s, .refl _ _ s⟩

theorem RowsActed.trans (h : RowsActed kept s t) (k : RowsActed kept t u) : RowsActed kept s u where
  drive := h.drive.trans k.drive
  unstuck was is := by
    cases stuck : t.drive.springStuck with
    | true => exact k.unstuck stuck is
    | false => exact (h.unstuck was stuck).mono k.ports
  handles := k.handles.trans h.handles
  test := h.test.trans k.test
  keeps := h.keeps.trans k.keeps
  ports := h.ports.trans k.ports

theorem RowsActed.moving (h : RowsActed standingBlocks s t) : RowsActed motionBlocks s t :=
  { h with keeps := h.keeps.mono (by decide) }

/-- What changes the odometry alone, with no event but POSITION, acts on nothing else. -/
theorem RowsActed.of_besides (k : Keeps besidesOdo s t) (p : PortsKeep [.position] none s t) :
    RowsActed motionBlocks s t := by
  have dem : t.dem = s.dem := k .dem (by decide)
  have drive : t.drive = s.drive := k .drive (by decide)
  refine ⟨drive ▸ .refl _, fun h x => absurd (h.symm.trans (drive ▸ x)) (by decide), by rw [dem], drive ▸ .refl _,
    k.mono (by decide), p.mono (by decide) (.inl rfl)⟩

theorem writeRows_acted (new : Rows) (s : State) : RowsActed standingBlocks s (writeRows new s) := by
  have w := writeRows_written new s
  exact ⟨w.follow.drive, w.follow.unstuck, w.follow.dem.handles, w.follow.outputs.carried, w.keeps.mono (by decide),
    w.ports.mono (by decide) (.inl rfl)⟩

theorem formDoorsRow_acted (s : State) : RowsActed standingBlocks s (formDoorsRow s) := by
  have w := formDoorsRow_formed s
  exact ⟨w.row.drive, w.row.unstuck, w.row.dem.handles, w.row.outputs.carried, w.keeps.mono (by decide),
    w.ports.mono (by decide) (.inl rfl)⟩

theorem putDoors_acted (new : Quad Door) (left right : Bool) (s : State) :
    RowsActed standingBlocks s (putDoors new left right s) := by
  obtain ⟨formed, _, _, _, keeps, ports⟩ := putDoors_formed new left right s
  exact ⟨formed.row.drive, formed.row.unstuck, formed.row.dem.handles, formed.row.outputs.carried,
    keeps.mono (by decide), ports.mono (by decide) (.inl rfl)⟩

theorem setAlarm_acted (a : AlarmState) (s : State) : RowsActed standingBlocks s (setAlarm a s) := by
  obtain ⟨_, _, follow, keeps, ports⟩ := setAlarm_set a s
  exact ⟨follow.drive, follow.unstuck, follow.dem.handles, follow.outputs.carried, keeps.mono (by decide),
    ports.mono (by decide) (.inl rfl)⟩

theorem remapHold_acted (s : State) : RowsActed standingBlocks s (remapHold s) := by
  unfold remapHold
  split
  · have c := applyMapping_cascade s
    exact ⟨c.drive, applyMapping_unstuck s, c.handles, (applyMapping_modeKept s).test, c.keeps.mono (by decide),
      c.ports.mono (by decide) (.inl rfl)⟩
  · exact .refl s

theorem formStandstillRows_acted (begins : Bool) (s : State) :
    RowsActed standingBlocks s (formStandstillRows begins s) :=
  ((((((formDoorsRow_acted s).trans (writeRows_acted _ _)).trans (writeRows_acted _ _)).trans
    (setAlarm_acted _ _)).trans (writeRows_acted _ _)).trans (remapHold_acted _))

theorem abortTest_acted (c : AbortCause) (s : State) : RowsActed standingBlocks s (abortTest c s) := by
  have k := abortTest_cascade c s
  exact ⟨k.drive, abortTest_unstuck c s, k.handles, (abortTest_aside c s).test,
    k.keeps.mono (by decide), k.ports.mono (by decide) (.inl rfl)⟩

/-! ### The rows and the latch -/

/-- The rows with those that follow standstill put anew. -/
def Rows.following (r : Rows) (doors radio link alarm odometry : Kind) : Rows :=
  { r with doors := doors, radio := radio, link := link, alarm := alarm, odometry := odometry }

/-- Whether one row becomes EMERGENCY (R97). -/
def flares (old new : Kind) : Bool := new = .emergency && !(old = .emergency)

theorem flares_self (k : Kind) : flares k k = false := by simp [flares]

theorem becomesEmergency_following (r : Rows) (doors radio link alarm odometry : Kind) :
    becomesEmergency r (r.following doors radio link alarm odometry) =
      (flares r.doors doors || flares r.radio radio || flares r.link link || flares r.alarm alarm ||
        flares r.odometry odometry) := by
  have each : ∀ new : Rows, becomesEmergency r new = allRows.any fun x => flares (r.kind x) (new.kind x) := fun _ => rfl
  simp [each, allRows, Rows.kind, Rows.following, flares_self, Bool.or_assoc]

/-- The writings of R95 in turn: the rows that they come to, and the latch and the driven kind of those. -/
theorem RowsInTurn.standstill {p : Params} {begins : Bool} {t : State} {a x : BrakeSide}
    (h : RowsInTurn p begins (standstillWrites begins t) a x) :
    x.rows = a.rows.following (doorsRow t.doors.loopClosed begins) (radioRow (strongestStop t.limits.stops) begins)
      (linkRow (holderLinkLost t.mode) begins) (alarmRow t.dem.alarm begins)
      (odometryRow t.odo.rollback t.odo.pinionFault) ∧
    x.latch = (a.latch || becomesEmergency a.rows x.rows) ∧ x.driven = drivenOf x.latch x.rows := by
  obtain ⟨b, hb, c, hc, d, hd, e, he, f, hf, rfl⟩ := h
  have rows : x.rows = a.rows.following (doorsRow t.doors.loopClosed begins)
      (radioRow (strongestStop t.limits.stops) begins) (linkRow (holderLinkLost t.mode) begins)
      (alarmRow t.dem.alarm begins) (odometryRow t.odo.rollback t.odo.pinionFault) := by
    rw [hf.rows, he.rows, hd.rows, hc.rows, hb.rows]
    rfl
  have one : ∀ (r : Rows) (k : Kind),
      becomesEmergency r { r with doors := k } = flares r.doors k ∧
      becomesEmergency r { r with radio := k } = flares r.radio k ∧
      becomesEmergency r { r with link := k } = flares r.link k ∧
      becomesEmergency r { r with alarm := k } = flares r.alarm k ∧
      becomesEmergency r { r with odometry := k } = flares r.odometry k := by
    intro r k
    have each := becomesEmergency_following r
    refine ⟨(each k _ _ _ _).trans ?_, (each _ k _ _ _).trans ?_, (each _ _ k _ _).trans ?_, (each _ _ _ k _).trans ?_,
      (each _ _ _ _ k).trans ?_⟩ <;> simp [flares_self]
  refine ⟨rows, ?_, by rw [hf.driven, hf.rows]⟩
  rw [rows, becomesEmergency_following, hf.latch, he.latch, hd.latch, hc.latch, hb.latch, (one _ _).1, (one _ _).2.1,
    (one _ _).2.2.1, (one _ _).2.2.2.1, (one _ _).2.2.2.2, he.rows, hd.rows, hc.rows, hb.rows]
  simp [Bool.or_assoc]

end Sys2Proof.Machine
end

section
/-!
Standstill begun and ended, and the pinion found silent (R23, R31, R146).
-/

namespace Sys2Proof.Machine

/-! ### The demands at a change of standstill -/

/-- The rows, the latch and the driven kind that a change of standstill comes to. -/
theorem StandstillBrakes.come {begins : Bool} {p : Params} {a : BrakeSide} {t : State}
    (h : StandstillBrakes begins (standstillWrites begins t) p a t) :
    t.dem.rows = a.rows.following (doorsRow t.doors.loopClosed begins) (radioRow (strongestStop t.limits.stops) begins)
      (linkRow (holderLinkLost t.mode) begins) (alarmRow t.dem.alarm begins)
      (odometryRow t.odo.rollback t.odo.pinionFault) ∧
    t.dem.latch = (a.latch || becomesEmergency a.rows t.dem.rows) ∧ t.dem.driven = drivenOf t.dem.latch t.dem.rows := by
  obtain ⟨x, turn, remapped⟩ := h
  obtain ⟨latch, rows, driven⟩ := remapped.demands
  change t.dem.latch = x.latch at latch
  change t.dem.rows = x.rows at rows
  change t.dem.driven = x.driven at driven
  rw [rows, latch, driven]
  exact turn.standstill

/-- The same after a writing of the DOORS row that is EMERGENCY where the later one is: the latch is that of the first
(R148). -/
theorem StandstillBrakes.come_after {begins : Bool} {p : Params} {a : BrakeSide} {t : State} {k : Kind}
    (h : StandstillBrakes begins ((fun r => { r with doors := k }) :: standstillWrites begins t) p a t)
    (first : doorsRow t.doors.loopClosed begins = .emergency → k = .emergency) :
    t.dem.rows = a.rows.following (doorsRow t.doors.loopClosed begins) (radioRow (strongestStop t.limits.stops) begins)
      (linkRow (holderLinkLost t.mode) begins) (alarmRow t.dem.alarm begins)
      (odometryRow t.odo.rollback t.odo.pinionFault) ∧
    t.dem.latch = (a.latch || becomesEmergency a.rows { t.dem.rows with doors := k }) ∧
    t.dem.driven = drivenOf t.dem.latch t.dem.rows := by
  obtain ⟨x, ⟨b, hb, turn⟩, remapped⟩ := h
  obtain ⟨rows, latch, driven⟩ := StandstillBrakes.come ⟨x, turn, remapped⟩
  have brought : b.rows = a.rows.following k a.rows.radio a.rows.link a.rows.alarm a.rows.odometry := hb.rows
  have again : flares k (doorsRow t.doors.loopClosed begins) = false := by
    by_cases e : doorsRow t.doors.loopClosed begins = .emergency
    · simp [flares, first e]
    · simp [flares, e]
  refine ⟨rows.trans (by rw [brought]; rfl), ?_, driven⟩
  have later : { t.dem.rows with doors := k } = a.rows.following k (radioRow (strongestStop t.limits.stops) begins)
      (linkRow (holderLinkLost t.mode) begins) (alarmRow t.dem.alarm begins)
      (odometryRow t.odo.rollback t.odo.pinionFault) := by
    rw [rows, brought]
    rfl
  have step : becomesEmergency a.rows b.rows = flares a.rows.doors k := by
    rw [brought, becomesEmergency_following]
    simp [flares_self]
  have latched : b.latch = (a.latch || becomesEmergency a.rows b.rows) := by
    rw [hb.rows]
    exact hb.latch
  rw [latch, later, latched, step, rows, becomesEmergency_following, becomesEmergency_following, brought]
  simp [Rows.following, again, Bool.or_assoc]

theorem envelopeSpan_congr {s t : State} (mode : t.mode = s.mode) (odo : t.odo = s.odo) :
    envelopeSpan t = envelopeSpan s := by
  simp only [envelopeSpan, envelope, mode, odo]

theorem noStopOverlap_congr {s t : State} (mode : t.mode = s.mode) (odo : t.odo = s.odo) (store : t.store = s.store) :
    noStopOverlap t = noStopOverlap s := by
  simp only [noStopOverlap, envelopeSpan_congr mode odo, store]

/-- The alarm evaluated at a change of standstill (R103, R104). -/
theorem formStandstillRows_alarm (begins : Bool) (s : State) :
    (formStandstillRows begins s).dem.alarm =
      alarmNext s.dem.alarm (alarmPulled s.dem.handles) (noStopOverlap s) begins ∧
    ((formStandstillRows begins s).dem.alarm ≠ s.dem.alarm → raisedAll .alarm (formStandstillRows begins s)) := by
  let c := formLinkRow (formRadioRow (formDoorsRow s))
  let d := evaluateAlarm begins c
  have before : RowsActed standingBlocks s c :=
    ((formDoorsRow_acted s).trans (writeRows_acted _ _)).trans (writeRows_acted _ _)
  have stood : c.dem.alarm = s.dem.alarm :=
    ((writeRows_written _ _).follow.dem.alarm.trans (writeRows_written _ _).follow.dem.alarm).trans
      (formDoorsRow_formed s).row.dem.alarm
  have after : RowsActed standingBlocks d (formStandstillRows begins s) :=
    (writeRows_acted _ _).trans (remapHold_acted _)
  have stands : (formStandstillRows begins s).dem.alarm = d.dem.alarm :=
    (congrArg Demands.alarm (remapHold_remapped _).2.1).trans (writeRows_written _ _).follow.dem.alarm
  have span : noStopOverlap c = noStopOverlap s :=
    noStopOverlap_congr (before.keeps .mode (by decide)) (before.keeps .odo (by decide))
      (before.keeps .store (by decide))
  obtain ⟨value, event, _⟩ :=
    setAlarm_set (alarmNext c.dem.alarm (alarmPulled c.dem.handles) (noStopOverlap c) begins) c
  rw [stands, ← stood, ← before.handles, ← span]
  exact ⟨value, fun changed => (event (value ▸ changed)).mono after.ports⟩

/-! ### Standstill begun -/

/-- The odometry at the beginning of standstill (R23, R30). -/
def standstillOdo (o : Odometry) : Odometry :=
  { o with
    standstill := true, quietTime := 0, quietRunning := false, reverse := 0, reverseCarry := 0
    rollback := false, motion := .none, notice := .standstillBegin }

/-- The state in which the rows that follow standstill are formed. -/
def standstillMarked (s : State) : State := raise .position (updOdo standstillOdo s)

/-- What a beginning of standstill leaves, and where it takes the demands (R23, R32, R112). -/
structure StandstillBegun (s t : State) : Prop where
  odo : t.odo = standstillOdo s.odo
  acted : RowsActed standingBlocks (standstillMarked s) t
  event : raisedAll .position t
  doors : t.doors = { s.doors with loopClosed := allSecured s.doors.door }
  alarm : t.dem.alarm = alarmNext s.dem.alarm (alarmPulled s.dem.handles) (noStopOverlap s) true
  alarmEvent : t.dem.alarm ≠ s.dem.alarm → raisedAll .alarm t
  brakes : StandstillBrakes true (standstillWrites true t) s.store.params (brakeSide s) t

theorem beginStandstill_begun (s : State) : StandstillBegun s (beginStandstill s) := by
  have acted : RowsActed standingBlocks (standstillMarked s) (beginStandstill s) :=
    formStandstillRows_acted true (standstillMarked s)
  obtain ⟨alarm, event⟩ := formStandstillRows_alarm true (standstillMarked s)
  exact ⟨acted.keeps .odo (by decide), acted, (raisedAll_raise .position _).mono acted.ports,
    (formStandstillRows_brakes true (standstillMarked s) rfl).2, alarm, event, beginStandstill_brakes s⟩

theorem StandstillBegun.keeps {s t : State} (h : StandstillBegun s t) :
    Keeps [.mode, .store, .limits, .sup, .radio, .memory, .pending] s t := by
  refine Keeps.trans (t := standstillMarked s) (fun b hb => ?_) (h.acted.keeps.mono (by decide))
  cases b <;> first | rfl | exact absurd hb (by decide)

theorem StandstillBegun.ports {s t : State} (h : StandstillBegun s t) : PortsKeep standstillEvents none s t :=
  PortsKeep.trans (t := standstillMarked s) (.raise_of .position rfl (by decide)) h.acted.ports

theorem StandstillBegun.rows {s t : State} (h : StandstillBegun s t) : StandstillRows true s t := by
  obtain ⟨rows, latch, driven⟩ := h.brakes.come
  have loop : t.doors.loopClosed = allSecured s.doors.door := congrArg Doors.loopClosed h.doors
  have door : t.doors.door = s.doors.door := by rw [h.doors]
  have limits : t.limits = s.limits := h.keeps .limits (by decide)
  have mode : t.mode = s.mode := h.keeps .mode (by decide)
  have same : { t.dem.rows with doors := doorsRow (allSecured s.doors.door) true } = t.dem.rows := by
    rw [← loop, rows]
    rfl
  refine ⟨?_, by rw [loop, door], h.alarm, h.acted.handles, by rw [same]; exact latch, driven, h.acted.drive,
    fun _ => h.brakes, fun x => (by cases x), h.acted.unstuck, h.event, h.alarmEvent⟩
  rw [← limits, ← mode]
  exact rows

/-! ### The pinion -/

theorem setPinionFault_written (s : State) : RowsWritten { s.dem.rows with odometry := .emergency }
    (raise .position (updOdo (fun o => { o with pinionFault := true, notice := .pinionFault }) s))
    (setPinionFault s) := by
  have written := writeRows_written { s.dem.rows with odometry :=
    if s.odo.rollback || true then .emergency else .none }
    (raise .position (updOdo (fun o => { o with pinionFault := true, notice := .pinionFault }) s))
  rw [Bool.or_true, if_pos rfl] at written
  have e : setPinionFault s = writeRows { s.dem.rows with odometry := .emergency }
      (raise .position (updOdo (fun o => { o with pinionFault := true, notice := .pinionFault }) s)) := by
    show writeRows { s.dem.rows with odometry := if s.odo.rollback || true then .emergency else .none } _ = _
    rw [Bool.or_true, if_pos rfl]
    rfl
  rw [e]
  exact written

/-- Settles O37: standstill begun (`beginStandstill_begun`), and the ODOMETRY row of PINION_FAULT
(`setPinionFault_written`). -/
theorem standstillBeginsAndThePinionFails : Obligations.StandstillBeginsAndThePinionFails := by
  intro s
  refine ⟨⟨_, rfl, fun idle => ?_, fun runs moves => ?_⟩, ⟨_, rfl, fun idle => ?_, fun runs whole => ?_⟩⟩
  · rcases idle with h | h <;> simp [h]
  · simp only [runs, moves, Bool.not_false, Bool.and_self, if_true]
    have begun := beginStandstill_begun s
    exact ⟨begun.odo, begun.rows, by rw [begun.doors], begun.keeps, begun.ports⟩
  · rw [if_neg (by rintro ⟨time, fault⟩; rcases idle with h | h <;> simp_all)]
  · rw [if_pos ⟨runs, whole⟩]
    let u := updOdo (fun o => { o with pinionFaultTime := Config.pinionFaultTime }) s
    have w := setPinionFault_written u
    have noticed : PortsKeep (.position :: rowEvents) none s (raise .position (updOdo (fun o => { o with
        pinionFault := true, notice := .pinionFault }) u)) := .raise_of .position rfl (by decide)
    refine ⟨w.keeps .odo (by decide), w.follow.of_eq rfl rfl rfl rfl, (raisedAll_raise .position _).mono w.ports, ?_,
      noticed.trans (w.ports.mono (by decide) (.inl rfl))⟩
    refine Keeps.trans (fun b hb => ?_) (w.keeps.mono (by decide))
    cases b <;> first | rfl | exact absurd hb (by decide)

end Sys2Proof.Machine
end

section
/-!
Standstill ended by a pulse (R18, R23, R125, R146).
-/

namespace Sys2Proof.Machine

/-! ### The doors -/

/-- A door that is secured stays secured as standstill ends (R146, R148). -/
theorem Door.secured_onMoving {d : Door} (c : DoorCtx) (h : d.secured = true) : (d.onMoving c).secured = true := by
  have state : d.state = .isolated ∨ d.state = .closedLocked := by
    unfold Door.secured at h
    split at h
    · exact .inl ‹_›
    · exact .inr ‹_›
    · cases h
  have stays : d.onMoving c = { d with openRequest := false } := by
    rcases state with s | s <;> simp [Door.onMoving, Door.onClose, s]
  rw [stays]
  exact h

theorem allSecured_onMoving {q : Quad Door} (c : DoorCtx) (h : allSecured q = true) :
    allSecured (q.map (·.onMoving c)) = true := by
  simp only [allSecured, Bool.and_eq_true] at h ⊢
  obtain ⟨⟨⟨d1, d2⟩, d3⟩, d4⟩ := h
  exact ⟨⟨⟨Door.secured_onMoving c d1, Door.secured_onMoving c d2⟩, Door.secured_onMoving c d3⟩,
    Door.secured_onMoving c d4⟩

theorem Door.enterLocking_state (d : Door) : d.enterLocking.state ≠ .obstructed := by
  unfold Door.enterLocking
  simp only
  split <;> exact fun h => by cases h

/-- A door as standstill ends: as for a DOOR CLOSE, or OBSTRUCTED still and no longer held open (R146). -/
theorem Door.onMoving_closed (c : DoorCtx) (d : Door) :
    (d.state ≠ .obstructed → DoorClosed c.warningTime d (d.onMoving c)) ∧
    (d.state = .obstructed → d.onMoving c = { d with openRequest := false, heldOpen := false }) := by
  constructor
  · intro h
    have closed : (d.onClose c).state ≠ .obstructed := by
      cases state : d.state <;>
        simp_all [Door.onClose, Door.enterLocking_state, Door.enterWarning, Door.go]
    have same : d.onMoving c = d.onClose c := by simp [Door.onMoving, closed]
    rw [same]
    exact d.onClose_closed c
  · intro h
    simp [Door.onMoving, Door.onClose, h]

/-! ### The pulse -/

/-- A pulse counted changes the odometry alone (R18). -/
theorem countPulse_counted (tacho : Tacho) (forward : Bool) (s : State) : countPulse tacho forward s = { s with
    odo := pulseCounted tacho (if forward = true ↔ orientationOf s.mode = .normal then 1 else -1) s.odo } := by
  have sign : pulseSign s.mode forward = if forward = true ↔ orientationOf s.mode = .normal then 1 else -1 := by
    unfold pulseSign
    cases orientationOf s.mode <;> cases forward <;> rfl
  rw [← sign]
  cases tacho <;> rfl

/-! ### Standstill ended -/

/-- The odometry at the end of standstill (R23). -/
def movingOdo (o : Odometry) : Odometry := { o with standstill := false, notice := .standstillEnd }

/-- The state in which a running test is ended and the rows are formed. -/
def movingMarked (s : State) : State := raise .position (updOdo movingOdo s)

/-- The state with the doors closed for the movement, before the rows are formed. -/
def movingClosed (s : State) : State := closeForMoving (formDoorsRow (abortTest .standstillLost (movingMarked s)))

theorem endStandstill_eq (s : State) : endStandstill s = formStandstillRows false (movingClosed s) := rfl

/-- What an end of standstill leaves, and where it takes the doors, the test and the demands (R23, R112, R125, R146). -/
structure StandstillEnded (s t : State) : Prop where
  odo : t.odo = movingOdo s.odo
  acted : RowsActed standingBlocks (movingMarked s) t
  event : raisedAll .position t
  test : s.drive.source = .test → t.drive.testRecord = .aborted .standstillLost ∧ t.drive.testStep = none ∧
    t.drive.source ≠ .test ∧ raisedAll .brakeTest t
  doors : ∃ c, c.warningTime = s.store.params.doorWarningTime ∧ t.doors.door = s.doors.door.map (·.onMoving c) ∧
    t.doors.leftReleased = false ∧ t.doors.rightReleased = false ∧ t.doors.loopClosed = allSecured t.doors.door
  alarm : t.dem.alarm = alarmNext s.dem.alarm (alarmPulled s.dem.handles) (noStopOverlap (movingMarked s)) false
  alarmEvent : t.dem.alarm ≠ s.dem.alarm → raisedAll .alarm t
  brakes : ∃ h, (s.drive.source = .test → HoldTaken s.store.params (.aborted .standstillLost) s.drive h) ∧
    (s.drive.source ≠ .test → h = s.drive) ∧
    StandstillBrakes false ((fun r => { r with doors := doorsRow (allSecured s.doors.door) false }) ::
      standstillWrites false t) s.store.params { brakeSide s with drive := h } t

theorem endStandstill_ended (s : State) : StandstillEnded s (endStandstill s) := by
  let u := abortTest .standstillLost (movingMarked s)
  let v := formDoorsRow u
  let w := movingClosed s
  have au : RowsActed standingBlocks (movingMarked s) u := abortTest_acted _ _
  have av : RowsActed standingBlocks u v := formDoorsRow_acted u
  have aw : RowsActed standingBlocks v w := putDoors_acted _ _ _ v
  have rowed : RowsActed standingBlocks w (endStandstill s) := formStandstillRows_acted false w
  have before : RowsActed standingBlocks (movingMarked s) w := (au.trans av).trans aw
  have whole : RowsActed standingBlocks (movingMarked s) (endStandstill s) := before.trans rowed
  have doors : (endStandstill s).doors = { w.doors with loopClosed := allSecured w.doors.door } :=
    (formStandstillRows_brakes false w (congrArg Odometry.standstill (before.keeps .odo (by decide)))).2
  obtain ⟨put, closed, left, right, _⟩ := putDoors_formed (v.doors.door.map (·.onMoving (doorCtx v))) false false v
  have stood : v.doors.door = s.doors.door := by
    have du : u.doors = s.doors := (abortTest_cascade _ _).keeps .doors (by decide)
    have dv : v.doors.door = u.doors.door := by rw [(formDoorsRow_formed u).doors]
    rw [dv, du]
  have store : v.store = s.store := (au.trans av).keeps .store (by decide)
  have alarmed : w.dem.alarm = s.dem.alarm := by
    have wv : w.dem.alarm = v.dem.alarm := put.row.dem.alarm
    have vu : v.dem.alarm = u.dem.alarm := (formDoorsRow_formed u).row.dem.alarm
    have us : u.dem.alarm = s.dem.alarm := congrArg Demands.alarm (abortTest_dem _ _)
    exact wv.trans (vu.trans us)
  obtain ⟨alarm, event⟩ := formStandstillRows_alarm false w
  rw [← show endStandstill s = formStandstillRows false w from endStandstill_eq s, alarmed] at alarm event
  have span : noStopOverlap w = noStopOverlap (movingMarked s) :=
    noStopOverlap_congr (before.keeps .mode (by decide)) (before.keeps .odo (by decide))
      (before.keeps .store (by decide))
  refine ⟨whole.keeps .odo (by decide), whole, (raisedAll_raise .position _).mono whole.ports, fun ht => ?_,
    ⟨doorCtx v, by rw [← store]; rfl, ?_⟩, ?_, event,
    endStandstill_brakes s⟩
  · obtain ⟨step, source, record⟩ := abortTest_test .standstillLost (movingMarked s) ht
    have later : RowsActed standingBlocks u (endStandstill s) := (av.trans aw).trans rowed
    have free : u.drive.source ≠ .test := by rw [source]; decide
    have ended : (endStandstill s).drive.source ≠ .test := fun x => free (later.test.running x).1
    refine ⟨(later.test.record free).trans record, ?_, ended,
      (abortTest_raises .standstillLost (movingMarked s) ht).mono later.ports⟩
    have none : u.drive.testStep.isSome = true → u.drive.source = .test := by rw [step]; exact fun x => by cases x
    by_contra held
    exact ended (later.test.stepped none (Option.isSome_iff_ne_none.mpr held))
  · rw [doors, ← stood]
    exact ⟨closed, left, right, congrArg allSecured closed ▸ rfl⟩
  · have handles : w.dem.handles = s.dem.handles := before.handles
    rw [handles, span] at alarm
    exact alarm

theorem StandstillEnded.keeps {s t : State} (h : StandstillEnded s t) :
    Keeps [.mode, .store, .limits, .sup, .radio, .memory, .pending] s t := by
  refine Keeps.trans (t := movingMarked s) (fun b hb => ?_) (h.acted.keeps.mono (by decide))
  cases b <;> first | rfl | exact absurd hb (by decide)

theorem StandstillEnded.ports {s t : State} (h : StandstillEnded s t) : PortsKeep standstillEvents none s t :=
  PortsKeep.trans (t := movingMarked s) (.raise_of .position rfl (by decide)) h.acted.ports

theorem StandstillEnded.rows {s t : State} (h : StandstillEnded s t) : StandstillRows false s t := by
  obtain ⟨c, _, door, _, _, loop⟩ := h.doors
  obtain ⟨d, held, free, brakes⟩ := h.brakes
  have first : doorsRow t.doors.loopClosed false = .emergency →
      doorsRow (allSecured s.doors.door) false = .emergency := by
    intro e
    cases secured : allSecured s.doors.door with
    | false => rfl
    | true =>
      rw [loop, door, allSecured_onMoving c secured] at e
      cases e
  obtain ⟨rows, latch, driven⟩ := brakes.come_after first
  have limits : t.limits = s.limits := h.keeps .limits (by decide)
  have mode : t.mode = s.mode := h.keeps .mode (by decide)
  refine ⟨?_, loop, h.alarm, h.acted.handles, latch, driven, h.acted.drive, fun x => (by cases x),
    fun _ => ⟨d, held, free, brakes⟩, h.acted.unstuck, h.event, h.alarmEvent⟩
  rw [← limits, ← mode]
  exact rows

/-- Settles O36: the pulse counted (`countPulse_counted`), and standstill ended (`endStandstill_ended`). -/
theorem pulsesAreCountedAndEndStandstill : Obligations.PulsesAreCountedAndEndStandstill := by
  intro tacho forward o s ho
  have counted : countPulse tacho forward s = { s with odo := o } := by rw [countPulse_counted, ho]
  have still : o.standstill = s.odo.standstill := by rw [ho]; cases tacho <;> rfl
  refine ⟨_, rfl, fun moves => ?_, fun stands => ?_⟩
  · simp only [counted, still, moves]
    rfl
  · simp only [counted, still, stands, if_true]
    have ended := endStandstill_ended { s with odo := o }
    generalize endStandstill { s with odo := o } = t at ended
    have rows := ended.rows
    obtain ⟨c, time, door, left, right, _⟩ := ended.doors
    have span : noStopOverlap { s with odo := o } = noStopOverlap s := by rw [ho]; cases tacho <;> rfl
    refine ⟨ended.odo, ⟨rows.rows, rows.loop, span ▸ rows.alarm, rows.handles, rows.latch, rows.driven, rows.drive,
      rows.begun, rows.ended, rows.unstuck, rows.event, rows.alarmEvent⟩, ended.test, left, right, fun d => ?_, ?_, ?_⟩
    · rw [door, doorOf_map, ← time]
      exact (doorOf d s.doors.door).onMoving_closed c
    · refine Keeps.trans (fun b hb => ?_) ended.keeps
      cases b <;> first | rfl | exact absurd hb (by decide)
    · exact PortsKeep.trans (t := { s with odo := o }) (.of_eq rfl) ended.ports

end Sys2Proof.Machine
end

section
/-!
A sampling expiry in its stages (R19 to R33): the state after each, what of the position record each has written, and
what it has left.
-/

namespace Sys2Proof.Machine

/-! ### The stages -/

/-- The odometry with the interval distances of a state in its windows (R19). -/
def windowsAt (s : State) (o : Odometry) : Odometry :=
  { o with
    pinionWindow := pushWindow (intervalDistance s.store.params .pinion s.odo.pinionCount) s.odo.pinionWindow
    axleWindow := pushWindow (intervalDistance s.store.params .axle s.odo.axleCount) s.odo.axleWindow }

/-- The position moved by what of the source's count is not yet applied (R20). -/
def positionFormed (s : State) : State := movePosition (unappliedCount s.odo) s

/-- The speeds formed from the windows (R22). -/
def speedsFormed (s : State) : State := sampleSpeeds (updOdo (windowsAt s) (positionFormed s))

/-- The tachometers compared (R33). -/
def crossFormed (s : State) : State := sampleCross (speedsFormed s)

/-- The reverse distance judged (R30). -/
def reverseFormed (s : State) : State := sampleReverse (crossFormed s)

/-- The source selected (R21). -/
def sourceFormed (s : State) : State := selectSource (reverseFormed s)

/-- The pinion judged (R31). -/
def pinionFormed (s : State) : State := samplePinion (sourceFormed s)

/-- The awaited mark judged (R27). -/
def awaitedFormed (s : State) : State := sampleAwaited (pinionFormed s)

/-- The quiet time judged (R23). -/
def quietFormed (s : State) : State := sampleQuiet (awaitedFormed s)

/-- The position record of the expiry whole. -/
def recordFormed (s : State) : State := sampleClear (quietFormed s)

/-- What the other blocks do at an expiry, from the record that it has formed (R60, R103, R155). -/
def othersFormed (s : State) : State := evaluateAlarm false (formZone (removeLifted s))

theorem growUncertainty_windows (factor moved : Nat) (s u : State) :
    growUncertainty factor moved (updOdo (windowsAt s) u) = updOdo (windowsAt s) (growUncertainty factor moved u) := by
  unfold growUncertainty
  rw [apply_ite (updOdo (windowsAt s)), apply_ite (updOdo (windowsAt s))]
  rfl

/-- The windows and the position are formed apart (R19, R20). -/
theorem movePosition_windows (net : Int) (s u : State) :
    movePosition net (updOdo (windowsAt s) u) = updOdo (windowsAt s) (movePosition net u) := by
  by_cases unknown : u.odo.posState = .unknown
  · rw [movePosition_unknown net unknown, movePosition_unknown net (s := updOdo (windowsAt s) u) unknown]
  have grown : grownBy net (updOdo (windowsAt s) u) = updOdo (windowsAt s) (grownBy net u) :=
    growUncertainty_windows _ _ s (placedBy net u)
  have leaves : leavesLine net (updOdo (windowsAt s) u) = leavesLine net u := rfl
  rw [movePosition_known net unknown, movePosition_known net (s := updOdo (windowsAt s) u) unknown, grown, leaves]
  have state : (updOdo (windowsAt s) (grownBy net u)).odo.posState = (grownBy net u).odo.posState := rfl
  rw [state]
  split <;> rfl

/-- A sampling expiry is its stages, and then what the other blocks do. -/
theorem sample_eq (s : State) : sample s = othersFormed (recordFormed s) := by
  have start : movePosition (unappliedCount (sampleDistances s).odo) (sampleDistances s) =
      updOdo (windowsAt s) (positionFormed s) := movePosition_windows (unappliedCount s.odo) s s
  unfold sample
  simp only [start]
  rfl

/-! ### What each stage writes of the record -/

theorem speedsFormed_odo (s : State) : (speedsFormed s).odo = { windowsAt s (positionFormed s).odo with
    speed := (speedsFormed s).odo.speed, axleSpeed := (speedsFormed s).odo.axleSpeed
    motion := (speedsFormed s).odo.motion } := rfl

theorem sampleCross_odo (s : State) : (sampleCross s).odo = { s.odo with
    crossPinion := (sampleCross s).odo.crossPinion, crossAxle := (sampleCross s).odo.crossAxle
    notice := (sampleCross s).odo.notice } := by
  have noticed : ∀ c n u, (noticeIf c n u).odo = { u.odo with notice := (noticeIf c n u).odo.notice } := by
    intro c n u
    cases c <;> rfl
  unfold sampleCross
  split
  · rfl
  · simp only
    split
    · rfl
    · rw [noticed]
      rfl

theorem rollBack_odo (s : State) : (rollBack s).odo = { s.odo with rollback := true, notice := .rollback } :=
  (writeRows_written _ _).keeps .odo (by decide)

theorem setPinionFault_odo (s : State) :
    (setPinionFault s).odo = { s.odo with pinionFault := true, notice := .pinionFault } :=
  (setPinionFault_written s).keeps .odo (by decide)

theorem sampleReverse_odo (s : State) : (sampleReverse s).odo = { s.odo with
    reverse := (sampleReverse s).odo.reverse, reverseCarry := (sampleReverse s).odo.reverseCarry
    rollback := (sampleReverse s).odo.rollback, notice := (sampleReverse s).odo.notice } := by
  rw [sampleReverse_eq]
  split
  · split
    · rw [rollBack_odo]
      rfl
    · rfl
  · rfl

theorem selectSource_odo (s : State) : (selectSource s).odo = { s.odo with
    source := (selectSource s).odo.source, remainder := (selectSource s).odo.remainder
    crossPinion := (selectSource s).odo.crossPinion, crossAxle := (selectSource s).odo.crossAxle } := by
  unfold selectSource
  simp only
  split <;> rfl

theorem samplePinion_odo (s : State) : (samplePinion s).odo = { s.odo with
    pinionFault := (samplePinion s).odo.pinionFault, pinionFaultTime := (samplePinion s).odo.pinionFaultTime
    notice := (samplePinion s).odo.notice } := by
  rw [samplePinion_eq]
  split
  · rfl
  split
  · rw [setPinionFault_odo]
    rfl
  · rfl

theorem sampleAwaited_odo (s : State) : (sampleAwaited s).odo = { s.odo with
    awaited := (sampleAwaited s).odo.awaited, notice := (sampleAwaited s).odo.notice } := by
  unfold sampleAwaited
  simp only
  split
  · rfl
  split
  · rfl
  split <;> rfl

/-- The state in which the quiet time has run on, and standstill may begin (R23). -/
def quietRunOn (s : State) : State :=
  updOdo (fun o => { o with quietTime := min 1000 (o.quietTime + 50) }) s

theorem sampleQuiet_eq (s : State) : sampleQuiet s =
    if s.odo.speed = 0 ∧ s.odo.axleSpeed = 0 ∧ s.odo.pinionSeen = false ∧ s.odo.axleSeen = false then
      if s.odo.quietRunning then
        if (quietRunOn s).odo.quietTime = 1000 then beginStandstill (quietRunOn s) else quietRunOn s
      else if s.odo.standstill then s
      else updOdo (fun o => { o with quietTime := 0, quietRunning := true }) s
    else updOdo (fun o => { o with quietTime := 0, quietRunning := false }) s := rfl

theorem sampleQuiet_odo (s : State) : (sampleQuiet s).odo = { s.odo with
    standstill := (sampleQuiet s).odo.standstill, quietTime := (sampleQuiet s).odo.quietTime
    quietRunning := (sampleQuiet s).odo.quietRunning, reverse := (sampleQuiet s).odo.reverse
    reverseCarry := (sampleQuiet s).odo.reverseCarry, rollback := (sampleQuiet s).odo.rollback
    motion := (sampleQuiet s).odo.motion, notice := (sampleQuiet s).odo.notice } := by
  rw [sampleQuiet_eq]
  split
  · split
    · split
      · rw [(beginStandstill_begun _).odo]
        rfl
      · rfl
    · split <;> rfl
  · rfl

/-! ### What the record is after each stage -/

theorem reverseFormed_odo (s : State) : (reverseFormed s).odo = { (speedsFormed s).odo with
    crossPinion := (crossFormed s).odo.crossPinion, crossAxle := (crossFormed s).odo.crossAxle
    reverse := (reverseFormed s).odo.reverse, reverseCarry := (reverseFormed s).odo.reverseCarry
    rollback := (reverseFormed s).odo.rollback, notice := (reverseFormed s).odo.notice } := by
  have e := sampleReverse_odo (crossFormed s)
  rw [show (crossFormed s).odo = _ from sampleCross_odo (speedsFormed s)] at e
  exact e

theorem sourceFormed_odo (s : State) : (sourceFormed s).odo = { (speedsFormed s).odo with
    source := (sourceFormed s).odo.source, remainder := (sourceFormed s).odo.remainder
    crossPinion := (sourceFormed s).odo.crossPinion, crossAxle := (sourceFormed s).odo.crossAxle
    reverse := (reverseFormed s).odo.reverse, reverseCarry := (reverseFormed s).odo.reverseCarry
    rollback := (reverseFormed s).odo.rollback, notice := (reverseFormed s).odo.notice } := by
  have e := selectSource_odo (reverseFormed s)
  rw [reverseFormed_odo] at e
  exact e

theorem pinionFormed_odo (s : State) : (pinionFormed s).odo = { (speedsFormed s).odo with
    source := (sourceFormed s).odo.source, remainder := (sourceFormed s).odo.remainder
    crossPinion := (sourceFormed s).odo.crossPinion, crossAxle := (sourceFormed s).odo.crossAxle
    reverse := (reverseFormed s).odo.reverse, reverseCarry := (reverseFormed s).odo.reverseCarry
    rollback := (reverseFormed s).odo.rollback, pinionFault := (pinionFormed s).odo.pinionFault
    pinionFaultTime := (pinionFormed s).odo.pinionFaultTime, notice := (pinionFormed s).odo.notice } := by
  have e := samplePinion_odo (sourceFormed s)
  rw [sourceFormed_odo] at e
  exact e

theorem awaitedFormed_odo (s : State) : (awaitedFormed s).odo = { (speedsFormed s).odo with
    source := (sourceFormed s).odo.source, remainder := (sourceFormed s).odo.remainder
    crossPinion := (sourceFormed s).odo.crossPinion, crossAxle := (sourceFormed s).odo.crossAxle
    reverse := (reverseFormed s).odo.reverse, reverseCarry := (reverseFormed s).odo.reverseCarry
    rollback := (reverseFormed s).odo.rollback, pinionFault := (pinionFormed s).odo.pinionFault
    pinionFaultTime := (pinionFormed s).odo.pinionFaultTime, awaited := (awaitedFormed s).odo.awaited
    notice := (awaitedFormed s).odo.notice } := by
  have e := sampleAwaited_odo (pinionFormed s)
  rw [pinionFormed_odo] at e
  exact e

theorem recordFormed_odo (s : State) : (recordFormed s).odo = { (speedsFormed s).odo with
    source := (sourceFormed s).odo.source, remainder := (sourceFormed s).odo.remainder
    crossPinion := (sourceFormed s).odo.crossPinion, crossAxle := (sourceFormed s).odo.crossAxle
    pinionFault := (pinionFormed s).odo.pinionFault, pinionFaultTime := (pinionFormed s).odo.pinionFaultTime
    awaited := (awaitedFormed s).odo.awaited
    standstill := (quietFormed s).odo.standstill, quietTime := (quietFormed s).odo.quietTime
    quietRunning := (quietFormed s).odo.quietRunning, reverse := (quietFormed s).odo.reverse
    reverseCarry := (quietFormed s).odo.reverseCarry, rollback := (quietFormed s).odo.rollback
    motion := (quietFormed s).odo.motion, notice := (quietFormed s).odo.notice
    pinionCount := 0, axleCount := 0, pinionSeen := false, axleSeen := false, applied := 0, samplingTimer := 0 } := by
  have e := sampleQuiet_odo (awaitedFormed s)
  rw [awaitedFormed_odo] at e
  exact congrArg (fun o : Odometry => { o with
    pinionCount := 0, axleCount := 0, pinionSeen := false, axleSeen := false, applied := 0, samplingTimer := 0 }) e

/-! ### What the stages leave -/

theorem updOdo_acted (f : Odometry → Odometry) (s : State) : RowsActed motionBlocks s (updOdo f s) :=
  .of_besides (updOdo_keeps f s) (.of_eq rfl)

theorem notice_acted (n : Notice) (s : State) : RowsActed motionBlocks s (notice n s) :=
  .of_besides (notice_keeps n s) (notice_ports n s)

/-- The demands, the drive and the doors stand until ROLLBACK is judged. -/
theorem crossFormed_stands (s : State) :
    Keeps besidesOdo s (crossFormed s) ∧ PortsKeep [.position] none s (crossFormed s) := by
  have moved := movePosition_moved (unappliedCount s.odo) s
  have start : Keeps besidesOdo s (speedsFormed s) := fun b hb => by
    have kept := moved.keeps b
    cases b <;> first | exact absurd hb (by decide) | exact kept (by decide)
  have cross : ∀ u, Keeps besidesOdo u (sampleCross u) ∧ PortsKeep [.position] none u (sampleCross u) := by
    intro u
    have put : ∀ f, Keeps besidesOdo u (updOdo f u) ∧ PortsKeep [.position] none u (updOdo f u) := fun f =>
      ⟨updOdo_keeps f u, .of_eq rfl⟩
    unfold sampleCross
    split
    · exact ⟨.refl _ u, .refl _ _ u⟩
    · simp only
      split
      · exact put _
      · unfold noticeIf
        split
        · exact ⟨(put _).1.trans (notice_keeps _ _), (put _).2.trans (notice_ports _ _)⟩
        · exact put _
  have ports : PortsKeep [.position] none s (speedsFormed s) := moved.ports.trans (.of_eq rfl)
  exact ⟨start.trans (cross _).1, ports.trans (cross _).2⟩

theorem rollBack_acted (s : State) : RowsActed motionBlocks s (rollBack s) :=
  ((updOdo_acted _ s).trans (notice_acted _ _)).trans (writeRows_acted _ _).moving

theorem reverseCounted_acted (s : State) : RowsActed motionBlocks s (reverseCounted s) := by
  unfold reverseCounted
  exact updOdo_acted _ s

theorem sampleClear_acted (s : State) : RowsActed motionBlocks s (sampleClear s) := by
  unfold sampleClear
  exact updOdo_acted _ s

theorem sampleReverse_acted (s : State) : RowsActed motionBlocks s (sampleReverse s) := by
  rw [sampleReverse_eq]
  split
  · split
    · exact (reverseCounted_acted s).trans (rollBack_acted _)
    · exact reverseCounted_acted s
  · exact .refl s

theorem selectSource_acted (s : State) : RowsActed motionBlocks s (selectSource s) := by
  unfold selectSource
  simp only
  split
  · exact .refl s
  · exact updOdo_acted _ s

theorem setPinionFault_acted (s : State) : RowsActed motionBlocks s (setPinionFault s) :=
  ((updOdo_acted _ s).trans (notice_acted _ _)).trans (writeRows_acted _ _).moving

theorem samplePinion_acted (s : State) : RowsActed motionBlocks s (samplePinion s) := by
  rw [samplePinion_eq]
  split
  · exact .refl s
  split
  · exact (updOdo_acted _ s).trans (setPinionFault_acted _)
  · exact updOdo_acted _ s

theorem sampleAwaited_acted (s : State) : RowsActed motionBlocks s (sampleAwaited s) := by
  unfold sampleAwaited
  simp only
  split
  · exact updOdo_acted _ s
  split
  · exact updOdo_acted _ s
  split
  · exact (updOdo_acted _ s).trans (notice_acted _ _)
  · exact .refl s

theorem beginStandstill_acted (s : State) : RowsActed motionBlocks s (beginStandstill s) :=
  ((updOdo_acted _ s).trans (notice_acted _ _)).trans (formStandstillRows_acted true _).moving

theorem sampleQuiet_acted (s : State) : RowsActed motionBlocks s (sampleQuiet s) := by
  rw [sampleQuiet_eq]
  split
  · split
    · split
      · exact (updOdo_acted _ s).trans (beginStandstill_acted _)
      · exact updOdo_acted _ s
    · split
      · exact .refl s
      · exact updOdo_acted _ s
  · exact updOdo_acted _ s

/-- From the cross-check on, what the stages up to the quiet time leave. -/
theorem awaitedFormed_acted (s : State) : RowsActed motionBlocks (crossFormed s) (awaitedFormed s) :=
  (((sampleReverse_acted _).trans (selectSource_acted _)).trans (samplePinion_acted _)).trans (sampleAwaited_acted _)

/-- From the cross-check on, what all stages of the record leave. -/
theorem recordFormed_acted (s : State) : RowsActed motionBlocks (crossFormed s) (recordFormed s) :=
  ((awaitedFormed_acted s).trans (sampleQuiet_acted _)).trans (sampleClear_acted _)

/-- What the other blocks' acts leave (R60, R103, R155). -/
structure OthersActed (s t : State) : Prop where
  keeps : Keeps [.mode, .odo, .store, .sup, .doors, .memory, .pending] s t
  ports : PortsKeep (.radio :: .restrictions :: standstillEvents) none s t

theorem othersFormed_acted (s : State) : OthersActed s (othersFormed s) := by
  have lifted : Keeps [.mode, .odo, .store, .sup, .doors, .memory, .pending] s (removeLifted s) := by
    refine Keeps.trans (fun b hb => ?_) (.raiseIf _ _ _ _ (by decide))
    cases b <;> first | rfl | exact absurd hb (by decide)
  have reported : PortsKeep (.radio :: .restrictions :: standstillEvents) none s (removeLifted s) :=
    .raiseIf_of _ _ rfl (by decide)
  obtain ⟨_, zoned, ported⟩ := formZone_formed (removeLifted s)
  obtain ⟨_, _, _, alarmed, evented⟩ := setAlarm_set (alarmNext (formZone (removeLifted s)).dem.alarm
    (alarmPulled (formZone (removeLifted s)).dem.handles) (noStopOverlap (formZone (removeLifted s))) false)
    (formZone (removeLifted s))
  exact ⟨(lifted.trans (zoned.mono (by decide))).trans (alarmed.mono (by decide)),
    (reported.trans (ported.mono (by decide) (.inl rfl))).trans (evented.mono (by decide) (.inl rfl))⟩

theorem sample_odo (s : State) : (sample s).odo = (recordFormed s).odo :=
  (congrArg State.odo (sample_eq s)).trans ((othersFormed_acted _).keeps .odo (by decide))

end Sys2Proof.Machine
end

section
/-!
What a sampling expiry makes of the position record (R19 to R25, R33).
-/

namespace Sys2Proof.Machine

/-! ### The speeds -/

/-- What moving the position leaves of the odometry. -/
theorem positionFormed_odo (s : State) : (positionFormed s).odo = { s.odo with
    position := (positionFormed s).odo.position, remainder := (positionFormed s).odo.remainder
    sinceCorrection := (positionFormed s).odo.sinceCorrection, posState := (positionFormed s).odo.posState
    accumulator := (positionFormed s).odo.accumulator, uncertainty := (positionFormed s).odo.uncertainty
    notice := (positionFormed s).odo.notice } := (movePosition_moved _ s).others

theorem speedOf_eq (w : Quad Int) : speedOf w = min 1200 ((w.toList.map Int.natAbs).sum / 2) := by
  simp [speedOf, Config.maxSpeed, Quad.toList, Nat.add_assoc]

/-- The windows and the speeds that the expiry leaves (R19, R22). -/
theorem sample_measured (s : State) :
    (sample s).odo.pinionWindow =
      pushWindow (intervalDistance s.store.params .pinion s.odo.pinionCount) s.odo.pinionWindow ∧
    (sample s).odo.axleWindow = pushWindow (intervalDistance s.store.params .axle s.odo.axleCount) s.odo.axleWindow ∧
    (sample s).odo.axleSpeed = speedOf (sample s).odo.axleWindow ∧
    (sample s).odo.speed = speedOf ((sample s).odo.windowOf s.odo.source) := by
  have source : (positionFormed s).odo.source = s.odo.source := by rw [positionFormed_odo]
  have speed : (speedsFormed s).odo.speed = speedOf ((speedsFormed s).odo.windowOf s.odo.source) := by
    rw [← source]
    rfl
  rw [sample_odo, recordFormed_odo]
  refine ⟨rfl, rfl, rfl, speed.trans ?_⟩
  cases s.odo.source <;> rfl

/-! ### The quiet time -/

/-- The quiet time reaches its length (R23). -/
structure QuietReached (o : Odometry) : Prop where
  still : o.speed = 0 ∧ o.axleSpeed = 0 ∧ o.pinionSeen = false ∧ o.axleSeen = false
  running : o.quietRunning = true
  time : 1000 ≤ o.quietTime + 50

/-- What the quiet time changes where standstill does not begin. -/
structure QuietWaits (s t : State) : Prop where
  odo : t.odo = { s.odo with quietTime := t.odo.quietTime, quietRunning := t.odo.quietRunning }
  keeps : Keeps besidesOdo s t
  ports : t.ports = s.ports

theorem sampleQuiet_begins {s : State} (h : QuietReached s.odo) : sampleQuiet s = beginStandstill (quietRunOn s) := by
  have full : (quietRunOn s).odo.quietTime = 1000 := Nat.min_eq_left h.time
  rw [sampleQuiet_eq, if_pos h.still, if_pos h.running, if_pos full]

theorem sampleQuiet_waits {s : State} (h : ¬QuietReached s.odo) : QuietWaits s (sampleQuiet s) := by
  have put : ∀ (t : Odometry → Nat) (r : Odometry → Bool),
      QuietWaits s (updOdo (fun o => { o with quietTime := t o, quietRunning := r o }) s) := fun t r =>
    ⟨rfl, updOdo_keeps _ s, rfl⟩
  rw [sampleQuiet_eq]
  split
  · rename_i still
    split
    · rename_i running
      split
      · rename_i full
        exact absurd ⟨still, running, min_eq_left_iff.mp full⟩ h
      · exact put (fun o => min 1000 (o.quietTime + 50)) (fun o => o.quietRunning)
    · split
      · exact ⟨rfl, .refl _ s, rfl⟩
      · exact put (fun _ => 0) (fun _ => true)
  · exact put (fun _ => 0) (fun _ => false)

/-- What the quiet time is judged by, at an expiry. -/
theorem awaitedFormed_quiet (s : State) :
    (awaitedFormed s).odo.speed = (sample s).odo.speed ∧ (awaitedFormed s).odo.axleSpeed = (sample s).odo.axleSpeed ∧
    (awaitedFormed s).odo.pinionSeen = s.odo.pinionSeen ∧ (awaitedFormed s).odo.axleSeen = s.odo.axleSeen ∧
    (awaitedFormed s).odo.quietRunning = s.odo.quietRunning ∧ (awaitedFormed s).odo.quietTime = s.odo.quietTime ∧
    (awaitedFormed s).odo.standstill = s.odo.standstill := by
  rw [sample_odo, recordFormed_odo, awaitedFormed_odo]
  have start : (positionFormed s).odo.pinionSeen = s.odo.pinionSeen ∧
      (positionFormed s).odo.axleSeen = s.odo.axleSeen ∧
      (positionFormed s).odo.quietRunning = s.odo.quietRunning ∧ (positionFormed s).odo.quietTime = s.odo.quietTime ∧
      (positionFormed s).odo.standstill = s.odo.standstill := by
    rw [positionFormed_odo]
    exact ⟨rfl, rfl, rfl, rfl, rfl⟩
  exact ⟨rfl, rfl, start⟩

theorem quietReached_iff (s : State) : QuietReached (awaitedFormed s).odo ↔ quietEnds s (sample s) = true := by
  obtain ⟨speed, axle, pinionSeen, axleSeen, running, time, _⟩ := awaitedFormed_quiet s
  constructor
  · rintro ⟨⟨h1, h2, h3, h4⟩, h5, h6⟩
    rw [speed] at h1
    rw [axle] at h2
    rw [pinionSeen] at h3
    rw [axleSeen] at h4
    rw [running] at h5
    rw [time] at h6
    simp [quietEnds, h1, h2, h3, h4, h5, h6]
  · intro h
    simp only [quietEnds, Bool.and_eq_true, decide_eq_true_eq, Bool.not_eq_true'] at h
    obtain ⟨⟨⟨⟨⟨h1, h2⟩, h3⟩, h4⟩, h5⟩, h6⟩ := h
    exact ⟨⟨speed.trans h1, axle.trans h2, pinionSeen.trans h3, axleSeen.trans h4⟩, running.trans h5, time.symm ▸ h6⟩

/-! ### The motion direction, the source and the cross-check -/

/-- Where standstill does not begin, the motion direction is that of the source's count (R22). -/
theorem sample_motion {s : State} (h : quietEnds s (sample s) = false) : (sample s).odo.motion =
    if 0 < s.odo.countOf s.odo.source then .upLine
    else if s.odo.countOf s.odo.source < 0 then .downLine else s.odo.motion := by
  have waits := sampleQuiet_waits (s := awaitedFormed s) (by rw [quietReached_iff, h]; decide)
  have start : (positionFormed s).odo.countOf (positionFormed s).odo.source = s.odo.countOf s.odo.source ∧
      (positionFormed s).odo.motion = s.odo.motion := by
    rw [positionFormed_odo]
    exact ⟨rfl, rfl⟩
  rw [sample_odo, recordFormed_odo]
  have formed : (speedsFormed s).odo.motion =
      if 0 < (positionFormed s).odo.countOf (positionFormed s).odo.source then .upLine
      else if (positionFormed s).odo.countOf (positionFormed s).odo.source < 0 then .downLine
      else (positionFormed s).odo.motion := rfl
  show (quietFormed s).odo.motion = _
  rw [start.1, start.2] at formed
  rw [quietFormed, waits.odo, awaitedFormed_odo]
  exact formed

theorem selectSource_source (s : State) : (selectSource s).odo.source = nextSource s ∧
    (selectSource s).odo.remainder = (if nextSource s = s.odo.source then s.odo.remainder else 0) ∧
    (selectSource s).odo.crossPinion = (if nextSource s = s.odo.source then s.odo.crossPinion else 0) ∧
    (selectSource s).odo.crossAxle = (if nextSource s = s.odo.source then s.odo.crossAxle else 0) := by
  unfold selectSource
  simp only
  split
  · rename_i same
    exact ⟨same.symm, rfl, rfl, rfl⟩
  · exact ⟨rfl, rfl, rfl, rfl⟩

theorem nextSource_pinion (s : State) : nextSource s = .pinion ↔ s.odo.pinionFault = false ∧ s.odo.posState ≠ .unknown ∧
    ∃ g, segmentAt s.store.segments s.odo.position = some g ∧ g.kind = .rack := by
  unfold nextSource
  split
  · rename_i barred
    refine ⟨fun h => (by cases h), fun ⟨whole, known, _⟩ => ?_⟩
    rcases barred with fault | unknown
    · rw [whole] at fault
      cases fault
    · exact absurd unknown known
  · rename_i clear
    have free : s.odo.pinionFault = false ∧ s.odo.posState ≠ .unknown := by simpa using clear
    unfold carSegment
    cases segmentAt s.store.segments s.odo.position with
    | none => simp
    | some g => cases kind : g.kind <;> simp [kind, free.1, free.2]

/-- The source for the next interval, and what a change of it drops (R21). -/
theorem sample_source (s : State) :
    ((sample s).odo.source = .pinion ↔ s.odo.pinionFault = false ∧ (sample s).odo.posState ≠ .unknown ∧
      ∃ g, segmentAt s.store.segments (sample s).odo.position = some g ∧ g.kind = .rack) ∧
    (sample s).odo.remainder = (if (sample s).odo.source = s.odo.source then (positionFormed s).odo.remainder else 0) ∧
    (sample s).odo.crossPinion =
      (if (sample s).odo.source = s.odo.source then (crossFormed s).odo.crossPinion else 0) ∧
    (sample s).odo.crossAxle = (if (sample s).odo.source = s.odo.source then (crossFormed s).odo.crossAxle else 0) := by
  have store : (reverseFormed s).store = s.store :=
    Eq.trans ((sampleReverse_acted _).keeps .store (by decide)) ((crossFormed_stands s).1 .store (by decide))
  have start : (positionFormed s).odo.source = s.odo.source ∧
      (positionFormed s).odo.pinionFault = s.odo.pinionFault := by
    rw [positionFormed_odo]
    exact ⟨rfl, rfl⟩
  obtain ⟨source, remainder, pinion, axle⟩ := selectSource_source (reverseFormed s)
  have next := nextSource_pinion (reverseFormed s)
  rw [reverseFormed_odo, store] at next
  have same : (reverseFormed s).odo.source = s.odo.source := by
    rw [reverseFormed_odo]
    exact start.1
  rw [same] at remainder pinion axle
  rw [reverseFormed_odo] at remainder pinion axle
  rw [sample_odo, recordFormed_odo]
  refine ⟨?_, ?_, ?_, ?_⟩
  · rw [← start.2]
    show (sourceFormed s).odo.source = .pinion ↔ _
    rw [show (sourceFormed s).odo.source = _ from source]
    exact next
  · show (sourceFormed s).odo.remainder = if (sourceFormed s).odo.source = _ then _ else _
    rw [show (sourceFormed s).odo.source = _ from source]
    exact remainder
  · show (sourceFormed s).odo.crossPinion = if (sourceFormed s).odo.source = _ then _ else _
    rw [show (sourceFormed s).odo.source = _ from source]
    exact pinion
  · show (sourceFormed s).odo.crossAxle = if (sourceFormed s).odo.source = _ then _ else _
    rw [show (sourceFormed s).odo.source = _ from source]
    exact axle

theorem sampleCross_pinion {s : State} (h : s.odo.source = .pinion) {p a : Nat}
    (hp : p = s.odo.crossPinion + s.odo.pinionWindow.d4.natAbs)
    (ha : a = s.odo.crossAxle + s.odo.axleWindow.d4.natAbs) :
    (p < 10000 → (sampleCross s).odo.crossPinion = p ∧ (sampleCross s).odo.crossAxle = a) ∧
    (10000 ≤ p → (sampleCross s).odo.crossPinion = 0 ∧ (sampleCross s).odo.crossAxle = 0) ∧
    (10000 ≤ p → p < 10 * ((p : Int) - a).natAbs → (sampleCross s).odo.notice = .tachoDisagree ∧
      raisedAll .position (sampleCross s)) := by
  have gap : gapBetween p a = ((p : Int) - a).natAbs := by
    unfold gapBetween
    omega
  have e : sampleCross s = if p < 10000 then updOdo (fun o => { o with crossPinion := p, crossAxle := a }) s
      else noticeIf (decide (p < 10 * gapBetween p a)) .tachoDisagree
        (updOdo (fun o => { o with crossPinion := 0, crossAxle := 0 }) s) := by
    rw [sampleCross, h, hp, ha]
  have cleared : ∀ c n u, (noticeIf c n u).odo.crossPinion = u.odo.crossPinion ∧
      (noticeIf c n u).odo.crossAxle = u.odo.crossAxle := by
    intro c n u
    cases c <;> exact ⟨rfl, rfl⟩
  rw [e]
  refine ⟨fun below => ?_, fun full => ?_, fun full apart => ?_⟩
  · rw [if_pos below]
    exact ⟨rfl, rfl⟩
  · rw [if_neg (Nat.not_lt.mpr full)]
    exact cleared _ _ _
  · rw [if_neg (Nat.not_lt.mpr full), gap, decide_eq_true apart]
    exact ⟨rfl, notice_raised _ _⟩

/-! ### The notice -/

theorem sampleReverse_notice (s : State) :
    (sampleReverse s).odo.notice = s.odo.notice ∨ (sampleReverse s).odo.notice = .rollback := by
  rw [sampleReverse_eq]
  split
  · split
    · exact .inr (congrArg Odometry.notice (rollBack_odo _))
    · exact .inl rfl
  · exact .inl rfl

theorem samplePinion_notice (s : State) :
    (samplePinion s).odo.notice = s.odo.notice ∨ (samplePinion s).odo.notice = .pinionFault := by
  rw [samplePinion_eq]
  split
  · exact .inl rfl
  split
  · exact .inr (congrArg Odometry.notice (setPinionFault_odo _))
  · exact .inl rfl

theorem sampleAwaited_notice (s : State) :
    (sampleAwaited s).odo.notice = s.odo.notice ∨ (sampleAwaited s).odo.notice = .markMissed := by
  unfold sampleAwaited
  simp only
  split
  · exact .inl rfl
  split
  · exact .inl rfl
  split
  · exact .inr rfl
  · exact .inl rfl

theorem sampleQuiet_notice (s : State) :
    (sampleQuiet s).odo.notice = s.odo.notice ∨ (sampleQuiet s).odo.notice = .standstillBegin := by
  by_cases h : QuietReached s.odo
  · rw [sampleQuiet_begins h]
    exact .inr (congrArg Odometry.notice (beginStandstill_begun _).odo)
  · rw [(sampleQuiet_waits h).odo]
    exact .inl rfl

/-- Each later stage keeps the notice or gives its own. -/
theorem sample_notice (s : State) : (sample s).odo.notice = (crossFormed s).odo.notice ∨
    (sample s).odo.notice ∈ [Notice.rollback, .pinionFault, .markMissed, .standstillBegin] := by
  have source : (sourceFormed s).odo.notice = (reverseFormed s).odo.notice := by rw [sourceFormed_odo]
  have final : (sample s).odo.notice = (quietFormed s).odo.notice := by rw [sample_odo, recordFormed_odo]
  have r := sampleReverse_notice (crossFormed s)
  have p := samplePinion_notice (sourceFormed s)
  have a := sampleAwaited_notice (pinionFormed s)
  have q := sampleQuiet_notice (awaitedFormed s)
  rw [source] at p
  rw [← reverseFormed] at r
  rw [← pinionFormed] at p
  rw [← awaitedFormed] at a
  rw [← quietFormed, ← final] at q
  rcases q with q | q
  · rw [q]
    rcases a with a | a
    · rw [a]
      rcases p with p | p
      · rw [p]
        rcases r with r | r
        · exact .inl r
        · exact .inr (by simp [r])
      · exact .inr (by simp [p])
    · exact .inr (by simp [a])
  · exact .inr (by simp [q])

/-- From the cross-check to the end of the expiry: its events stand. -/
theorem sample_ports (s : State) :
    PortsKeep (.radio :: .restrictions :: standstillEvents) none (crossFormed s) (sample s) := by
  rw [sample_eq]
  exact ((recordFormed_acted s).ports.mono (by decide) (.inl rfl)).trans (othersFormed_acted _).ports

/-! ### The expiry whole -/

/-- The sums of the cross-check that the expiry leaves (R33). -/
theorem sample_cross {s : State} {x y : Nat} (hx : x = s.odo.crossPinion + (sample s).odo.pinionWindow.d4.natAbs)
    (hy : y = s.odo.crossAxle + (sample s).odo.axleWindow.d4.natAbs) (pinion : s.odo.source = .pinion) :
    (x < 10000 → (sample s).odo.source = .pinion → (sample s).odo.crossPinion = x ∧ (sample s).odo.crossAxle = y) ∧
    (10000 ≤ x → (sample s).odo.crossPinion = 0 ∧ (sample s).odo.crossAxle = 0) ∧
    (10000 ≤ x → x < 10 * ((x : Int) - y).natAbs → raisedAll .position (sample s) ∧
      (sample s).odo.notice ∈ [Notice.tachoDisagree, .rollback, .pinionFault, .markMissed, .standstillBegin]) := by
  have start : (speedsFormed s).odo.source = s.odo.source ∧ (speedsFormed s).odo.crossPinion = s.odo.crossPinion ∧
      (speedsFormed s).odo.crossAxle = s.odo.crossAxle := by
    rw [speedsFormed_odo, positionFormed_odo]
    exact ⟨rfl, rfl, rfl⟩
  have windows : (speedsFormed s).odo.pinionWindow = (sample s).odo.pinionWindow ∧
      (speedsFormed s).odo.axleWindow = (sample s).odo.axleWindow := by
    rw [sample_odo, recordFormed_odo]
    exact ⟨rfl, rfl⟩
  obtain ⟨source, crossPinion, crossAxle⟩ := start
  obtain ⟨_, _, kept, keptAxle⟩ := sample_source s
  rw [← windows.1, ← crossPinion] at hx
  rw [← windows.2, ← crossAxle] at hy
  obtain ⟨below, full, apart⟩ := sampleCross_pinion (source.trans pinion) hx hy
  change x < 10000 → (crossFormed s).odo.crossPinion = x ∧ (crossFormed s).odo.crossAxle = y at below
  change 10000 ≤ x → (crossFormed s).odo.crossPinion = 0 ∧ (crossFormed s).odo.crossAxle = 0 at full
  refine ⟨fun less still => ?_, fun reached => ?_, fun reached disagree => ?_⟩
  · rw [kept, keptAxle, if_pos (still.trans pinion.symm), if_pos (still.trans pinion.symm)]
    exact below less
  · rw [kept, keptAxle, (full reached).1, (full reached).2]
    simp
  · obtain ⟨notice, raised⟩ := apart reached disagree
    refine ⟨raisedAll.mono (s := crossFormed s) raised (sample_ports s), ?_⟩
    rcases sample_notice s with same | later
    · exact List.mem_cons.mpr (.inl (same.trans notice))
    · exact List.mem_cons.mpr (.inr later)

/-- Settles O38: the position (`movePosition_moved`), the windows and speeds (`sample_measured`, `sample_motion`), the
source (`sample_source`) and the cross-check (`sample_cross`). -/
theorem samplingFormsSpeedAndPosition : Obligations.SamplingFormsSpeedAndPosition := by
  intro s
  obtain ⟨pinionWindow, axleWindow, axleSpeed, speed⟩ := sample_measured s
  obtain ⟨source, remainder, crossPinion, crossAxle⟩ := sample_source s
  have placed : (sample s).odo.position = (positionFormed s).odo.position ∧
      (sample s).odo.posState = (positionFormed s).odo.posState ∧
      (sample s).odo.accumulator = (positionFormed s).odo.accumulator ∧
      (sample s).odo.uncertainty = (positionFormed s).odo.uncertainty ∧
      (sample s).odo.sinceCorrection = (positionFormed s).odo.sinceCorrection := by
    rw [sample_odo, recordFormed_odo]
    exact ⟨rfl, rfl, rfl, rfl, rfl⟩
  have cleared : (sample s).odo.pinionCount = 0 ∧ (sample s).odo.axleCount = 0 ∧ (sample s).odo.pinionSeen = false ∧
      (sample s).odo.axleSeen = false ∧ (sample s).odo.applied = 0 ∧ (sample s).odo.samplingTimer = 0 := by
    rw [sample_odo, recordFormed_odo]
    exact ⟨rfl, rfl, rfl, rfl, rfl, rfl⟩
  obtain ⟨position, posState, accumulator, uncertainty, since⟩ := placed
  obtain ⟨noPinion, noAxle, unseen, axleUnseen, unapplied, timer⟩ := cleared
  obtain ⟨stands, ports⟩ := crossFormed_stands s
  have acted := recordFormed_acted s
  have others := othersFormed_acted (recordFormed s)
  rw [← sample_eq] at others
  refine ⟨sample s, positionFormed s, rfl, movePosition_moved _ s, position, posState, accumulator, uncertainty, since,
    pinionWindow, axleWindow, axleSpeed.trans (speedOf_eq _), speed.trans (speedOf_eq _), sample_motion, source,
    remainder, fun changed => ?_, fun same axle => ?_, fun x y hx hy => sample_cross hx hy, noPinion, noAxle, unseen,
    axleUnseen, unapplied, timer, ?_, ?_⟩
  · rw [crossPinion, crossAxle, if_neg changed, if_neg changed]
    exact ⟨rfl, rfl⟩
  · have start : (speedsFormed s).odo.source = .axle := by
      rw [speedsFormed_odo, positionFormed_odo]
      exact axle
    have stood : crossFormed s = speedsFormed s := by rw [crossFormed, sampleCross, start]
    rw [crossPinion, crossAxle, if_pos same, if_pos same, stood, speedsFormed_odo, positionFormed_odo]
    exact ⟨rfl, rfl⟩
  · exact ((stands.mono (by decide)).trans (acted.keeps.mono (by decide))).trans (others.keeps.mono (by decide))
  · exact (ports.mono (by decide) (.inl rfl)).trans (sample_ports s)

end Sys2Proof.Machine
end

section
/-!
What a sampling expiry judges of the motion: the quiet time, the reverse distance, the awaited mark and the pinion (R23,
R27, R30, R31).
-/

namespace Sys2Proof.Machine

/-! ### The quiet time -/

/-- What the last stage leaves of the record is what the expiry leaves. -/
theorem sample_quiet (s : State) : (sample s).odo.quietTime = (quietFormed s).odo.quietTime ∧
    (sample s).odo.quietRunning = (quietFormed s).odo.quietRunning ∧
    (sample s).odo.standstill = (quietFormed s).odo.standstill ∧ (sample s).odo.reverse = (quietFormed s).odo.reverse ∧
    (sample s).odo.reverseCarry = (quietFormed s).odo.reverseCarry ∧
    (sample s).odo.rollback = (quietFormed s).odo.rollback ∧ (sample s).odo.motion = (quietFormed s).odo.motion ∧
    (sample s).odo.notice = (quietFormed s).odo.notice := by
  rw [sample_odo, recordFormed_odo]
  exact ⟨rfl, rfl, rfl, rfl, rfl, rfl, rfl, rfl⟩

/-- The events of the last stage stand at the end of the expiry. -/
theorem quietFormed_ports (s : State) :
    PortsKeep (.radio :: .restrictions :: standstillEvents) none (quietFormed s) (sample s) := by
  rw [sample_eq]
  exact ((sampleClear_acted _).ports.mono (by decide) (.inl rfl)).trans (othersFormed_acted _).ports

/-- A movement or a pulse stops the quiet time (R23). -/
theorem sample_moves {s : State} (h : ¬((sample s).odo.speed = 0 ∧ (sample s).odo.axleSpeed = 0 ∧
    s.odo.pinionSeen = false ∧ s.odo.axleSeen = false)) : (sample s).odo.quietTime = 0 ∧
    (sample s).odo.quietRunning = false ∧ (sample s).odo.standstill = s.odo.standstill := by
  obtain ⟨time, running, standstill, _⟩ := sample_quiet s
  obtain ⟨speed, axle, pinionSeen, axleSeen, _, _, stood⟩ := awaitedFormed_quiet s
  rw [← speed, ← axle, ← pinionSeen, ← axleSeen] at h
  rw [time, running, standstill, ← stood, quietFormed, sampleQuiet_eq, if_neg h]
  exact ⟨rfl, rfl, rfl⟩

/-- Without a movement and without a pulse the quiet time begins, runs on, or reaches its length (R23). -/
theorem sample_still {s : State} (hs : (sample s).odo.speed = 0) (ha : (sample s).odo.axleSpeed = 0)
    (hp : s.odo.pinionSeen = false) (hx : s.odo.axleSeen = false) :
    (s.odo.quietRunning = false → s.odo.standstill = false →
      (sample s).odo.quietTime = 0 ∧ (sample s).odo.quietRunning = true ∧ (sample s).odo.standstill = false) ∧
    (s.odo.quietRunning = false → s.odo.standstill = true → (sample s).odo.quietTime = s.odo.quietTime ∧
      (sample s).odo.quietRunning = false ∧ (sample s).odo.standstill = true) ∧
    (s.odo.quietRunning = true → s.odo.quietTime + 50 < 1000 → (sample s).odo.quietTime = s.odo.quietTime + 50 ∧
      (sample s).odo.quietRunning = true ∧ (sample s).odo.standstill = s.odo.standstill) := by
  obtain ⟨time, running, standstill, _⟩ := sample_quiet s
  obtain ⟨speed, axle, pinionSeen, axleSeen, ran, timed, stood⟩ := awaitedFormed_quiet s
  have still : (awaitedFormed s).odo.speed = 0 ∧ (awaitedFormed s).odo.axleSpeed = 0 ∧
      (awaitedFormed s).odo.pinionSeen = false ∧ (awaitedFormed s).odo.axleSeen = false :=
    ⟨speed.trans hs, axle.trans ha, pinionSeen.trans hp, axleSeen.trans hx⟩
  rw [time, running, standstill, quietFormed, sampleQuiet_eq, if_pos still, ran, stood]
  refine ⟨fun hr hm => ?_, fun hr hm => ?_, fun hr short => ?_⟩
  · rw [hr, hm]
    exact ⟨rfl, rfl, stood.trans hm⟩
  · rw [hr, hm]
    exact ⟨timed, ran.trans hr, stood.trans hm⟩
  · have run : (quietRunOn (awaitedFormed s)).odo.quietTime = s.odo.quietTime + 50 := by
      show min 1000 ((awaitedFormed s).odo.quietTime + 50) = _
      rw [timed]
      omega
    rw [hr, if_pos rfl, if_neg (by rw [run]; omega)]
    exact ⟨run, ran.trans hr, stood⟩

/-- The quiet time that reaches its length begins standstill (R23, R30). -/
theorem sample_begins {s : State} (h : quietEnds s (sample s) = true) :
    StandstillBegun (quietRunOn (awaitedFormed s)) (quietFormed s) ∧ (sample s).odo.standstill = true ∧
    (sample s).odo.quietTime = 0 ∧ (sample s).odo.quietRunning = false ∧ (sample s).odo.reverse = 0 ∧
    (sample s).odo.reverseCarry = 0 ∧ (sample s).odo.rollback = false ∧ (sample s).odo.motion = .none ∧
    (sample s).odo.notice = .standstillBegin ∧ raisedAll .position (sample s) := by
  have formed : quietFormed s = beginStandstill (quietRunOn (awaitedFormed s)) :=
    sampleQuiet_begins ((quietReached_iff s).mpr h)
  have begun : StandstillBegun (quietRunOn (awaitedFormed s)) (quietFormed s) := formed ▸ beginStandstill_begun _
  obtain ⟨time, running, standstill, reverse, carry, rollback, motion, notice⟩ := sample_quiet s
  rw [time, running, standstill, reverse, carry, rollback, motion, notice, begun.odo]
  exact ⟨begun, rfl, rfl, rfl, rfl, rfl, rfl, rfl, rfl, begun.event.mono (quietFormed_ports s)⟩

/-- Where it does not, the last stage leaves all but the quiet time. -/
theorem sample_waits {s : State} (h : quietEnds s (sample s) = false) : QuietWaits (awaitedFormed s) (quietFormed s) :=
  sampleQuiet_waits fun reached => by rw [(quietReached_iff s).mp reached] at h; cases h

/-! ### The reverse distance -/

theorem crossFormed_odo (s : State) : (crossFormed s).odo.source = s.odo.source ∧
    (crossFormed s).odo.reverse = s.odo.reverse ∧ (crossFormed s).odo.reverseCarry = s.odo.reverseCarry ∧
    (crossFormed s).odo.rollback = s.odo.rollback ∧ (crossFormed s).odo.pinionFault = s.odo.pinionFault ∧
    (crossFormed s).odo.standstill = s.odo.standstill ∧
    (crossFormed s).odo.windowOf s.odo.source = (sample s).odo.windowOf s.odo.source := by
  have windows : (crossFormed s).odo.windowOf s.odo.source = (sample s).odo.windowOf s.odo.source := by
    rw [sample_odo, recordFormed_odo, crossFormed, sampleCross_odo]
    cases s.odo.source <;> rfl
  refine ⟨?_, ?_, ?_, ?_, ?_, ?_, windows⟩ <;>
    rw [crossFormed, sampleCross_odo, speedsFormed_odo, positionFormed_odo] <;> rfl

theorem countsReverse_iff (dir : Direction) (d : Int) : countsReverse dir d = true ↔
    dir = .none ∨ (dir = .upLine ∧ d < 0) ∨ (dir = .downLine ∧ 0 < d) := by
  cases dir <;> simp [countsReverse]

theorem sampleReverse_counts {s : State} {d : Int} (hd : d = (s.odo.windowOf s.odo.source).d4)
    (h : countsReverse s.mode.direction d = true) :
    (sampleReverse s).odo.reverse = min 65535 (s.odo.reverse + (s.odo.reverseCarry + d.natAbs) / 100) ∧
    (sampleReverse s).odo.reverseCarry = (s.odo.reverseCarry + d.natAbs) % 100 ∧
    (sampleReverse s).odo.rollback = (s.odo.rollback || decide (5 < (sampleReverse s).odo.reverse)) := by
  subst hd
  rw [sampleReverse_eq, if_pos h]
  split
  · rename_i rolls
    rw [rollBack_odo]
    refine ⟨rfl, rfl, ?_⟩
    have far : decide (5 < (reverseCounted s).odo.reverse) = true := decide_eq_true rolls.1
    exact ((congrArg (s.odo.rollback || ·) far).trans (Bool.or_true _)).symm
  · rename_i stands
    refine ⟨rfl, rfl, ?_⟩
    by_cases far : 5 < (reverseCounted s).odo.reverse
    · have rollback : s.odo.rollback = true := by
        by_contra x
        exact stands ⟨far, Bool.not_eq_true _ ▸ x⟩
      show s.odo.rollback = (s.odo.rollback || _)
      rw [rollback]
      rfl
    · show s.odo.rollback = (s.odo.rollback || _)
      rw [decide_eq_false far, Bool.or_false]

theorem sampleReverse_stands {s : State} (h : countsReverse s.mode.direction (s.odo.windowOf s.odo.source).d4 = false) :
    sampleReverse s = s := by
  rw [sampleReverse_eq, h]
  rfl

/-- The reverse distance and ROLLBACK after the expiry, where standstill does not begin (R30). -/
theorem sample_reverse {s : State} {d : Int} (hd : d = ((sample s).odo.windowOf s.odo.source).d4)
    (h : quietEnds s (sample s) = false) :
    (countsReverse s.mode.direction d = true →
      (sample s).odo.reverse = min 65535 (s.odo.reverse + (s.odo.reverseCarry + d.natAbs) / 100) ∧
      (sample s).odo.reverseCarry = (s.odo.reverseCarry + d.natAbs) % 100 ∧
      (sample s).odo.rollback = (s.odo.rollback || decide (5 < (sample s).odo.reverse))) ∧
    (countsReverse s.mode.direction d = false → (sample s).odo.reverse = s.odo.reverse ∧
      (sample s).odo.reverseCarry = s.odo.reverseCarry ∧ (sample s).odo.rollback = s.odo.rollback) := by
  obtain ⟨_, _, _, reverse, carry, rollback, _, _⟩ := sample_quiet s
  obtain ⟨source, reversed, carried, rolled, _, _, window⟩ := crossFormed_odo s
  have mode : (crossFormed s).mode = s.mode := (crossFormed_stands s).1 .mode (by decide)
  have waits := (sample_waits h).odo
  rw [awaitedFormed_odo] at waits
  have last : (sample s).odo.reverse = (reverseFormed s).odo.reverse ∧
      (sample s).odo.reverseCarry = (reverseFormed s).odo.reverseCarry ∧
      (sample s).odo.rollback = (reverseFormed s).odo.rollback := by
    rw [reverse, carry, rollback, waits]
    exact ⟨rfl, rfl, rfl⟩
  obtain ⟨lr, lc, lb⟩ := last
  have here : d = ((crossFormed s).odo.windowOf (crossFormed s).odo.source).d4 := by rw [source, window, hd]
  rw [lr, lc, lb, ← mode, ← reversed, ← carried, ← rolled]
  exact ⟨fun counts => sampleReverse_counts here counts, fun stands => by
    rw [reverseFormed, sampleReverse_stands (here ▸ stands)]
    exact ⟨rfl, rfl, rfl⟩⟩

/-! ### The awaited mark -/

/-- How far ahead of the car a mark lies, in a direction (R27). -/
def aheadOf (dir : Direction) (pos m : Nat) : Int := if dir = .downLine then (pos : Int) - m else (m : Int) - pos

theorem nextMark_upLine (marks : List Nat) (pos : Nat) :
    nextMark marks .upLine pos = (marks.filter (pos < ·)).min? := by
  unfold nextMark
  simp only
  split
  · rename_i none
    rw [none]
    rfl
  · rename_i some
    rw [some, List.min?_cons']

theorem nextMark_downLine (marks : List Nat) (pos : Nat) :
    nextMark marks .downLine pos = (marks.filter (· < pos)).max? := by
  unfold nextMark
  simp only
  split
  · rename_i none
    rw [none]
    rfl
  · rename_i some
    rw [some, List.max?_cons']

/-- The mark chosen is the nearest ahead, and none is where none lies ahead (R27). -/
theorem nextMark_nearest {marks : List Nat} {dir : Direction} {pos : Nat} (hd : dir ≠ .none) :
    (∀ m, nextMark marks dir pos = some m → m ∈ marks ∧ 0 < aheadOf dir pos m ∧
      ∀ n ∈ marks, 0 < aheadOf dir pos n → aheadOf dir pos m ≤ aheadOf dir pos n) ∧
    (nextMark marks dir pos = none → ∀ n ∈ marks, aheadOf dir pos n ≤ 0) := by
  cases dir with
  | none => exact absurd rfl hd
  | upLine =>
    have ahead : ∀ n, aheadOf .upLine pos n = (n : Int) - pos := fun _ => rfl
    simp only [nextMark_upLine, ahead]
    refine ⟨fun m chosen => ?_, fun nothing n hn => ?_⟩
    · obtain ⟨mem, least⟩ := List.min?_eq_some_iff.mp chosen
      obtain ⟨inTable, beyond⟩ := List.mem_filter.mp mem
      have beyond : pos < m := by simpa using beyond
      refine ⟨inTable, by omega, fun n hn far => ?_⟩
      have := least n (List.mem_filter.mpr ⟨hn, by simp; omega⟩)
      omega
    · have out := List.filter_eq_nil_iff.mp (List.min?_eq_none_iff.mp nothing) n hn
      simp only [decide_eq_true_eq] at out
      omega
  | downLine =>
    have ahead : ∀ n, aheadOf .downLine pos n = (pos : Int) - n := fun _ => rfl
    simp only [nextMark_downLine, ahead]
    refine ⟨fun m chosen => ?_, fun nothing n hn => ?_⟩
    · obtain ⟨mem, greatest⟩ := List.max?_eq_some_iff.mp chosen
      obtain ⟨inTable, beyond⟩ := List.mem_filter.mp mem
      have beyond : m < pos := by simpa using beyond
      refine ⟨inTable, by omega, fun n hn far => ?_⟩
      have := greatest n (List.mem_filter.mpr ⟨hn, by simp; omega⟩)
      omega
    · have out := List.filter_eq_nil_iff.mp (List.max?_eq_none_iff.mp nothing) n hn
      simp only [decide_eq_true_eq] at out
      omega

theorem beyondMark_iff {dir : Direction} (hd : dir ≠ .none) (pos m margin : Nat) :
    beyondMark dir pos m margin = true ↔ aheadOf dir pos m < -(margin : Int) := by
  cases dir with
  | none => exact absurd rfl hd
  | upLine =>
    show decide (m + margin < pos) = true ↔ (m : Int) - pos < _
    rw [decide_eq_true_eq]
    omega
  | downLine =>
    show decide (pos + margin < m) = true ↔ (pos : Int) - m < _
    rw [decide_eq_true_eq]
    omega

theorem sampleAwaited_none {s : State} (h : s.odo.posState = .unknown ∨ s.mode.direction = .none) :
    (sampleAwaited s).odo.awaited = none := by
  rw [sampleAwaited, if_pos h]
  rfl

/-- With no mark of the table awaited the next is chosen (R27). -/
theorem sampleAwaited_chosen {s : State} (known : s.odo.posState ≠ .unknown) (hd : s.mode.direction ≠ .none)
    (free : ∀ m, s.odo.awaited = some m → m ∉ marksOf s.store.segments) : (sampleAwaited s).odo.awaited =
      nextMark (marksOf s.store.segments) s.mode.direction s.odo.position := by
  have none : s.odo.awaited.filter ((marksOf s.store.segments).contains ·) = none := by
    rw [Option.filter_eq_none_iff]
    intro m hm
    simpa using free m hm
  unfold sampleAwaited
  simp only [if_neg (not_or.mpr ⟨known, hd⟩), none]
  rfl

/-- A mark of the table that is awaited stays so until it is missed (R27). -/
theorem sampleAwaited_met {s : State} {m : Nat} (known : s.odo.posState ≠ .unknown) (hd : s.mode.direction ≠ .none)
    (hm : s.odo.awaited = some m) (mem : m ∈ marksOf s.store.segments) :
    (-((s.odo.uncertainty : Int) + 10) ≤ aheadOf s.mode.direction s.odo.position m →
      (sampleAwaited s).odo.awaited = some m) ∧
    (aheadOf s.mode.direction s.odo.position m < -((s.odo.uncertainty : Int) + 10) →
      (sampleAwaited s).odo.awaited = none ∧ (sampleAwaited s).odo.notice = .markMissed ∧
      raisedAll .position (sampleAwaited s)) := by
  have stands : s.odo.awaited.filter ((marksOf s.store.segments).contains ·) = some m := by
    rw [hm, Option.filter_some, if_pos (by simpa using mem)]
  have passed := beyondMark_iff hd s.odo.position m (s.odo.uncertainty + 10)
  unfold sampleAwaited
  simp only [if_neg (not_or.mpr ⟨known, hd⟩), stands, passed]
  refine ⟨fun near => ?_, fun far => ?_⟩
  · rw [if_neg (by omega)]
    exact hm
  · rw [if_pos (by omega)]
    exact ⟨rfl, rfl, notice_raised _ _⟩

/-- What the awaited mark is judged by, at an expiry. -/
theorem pinionFormed_awaited (s : State) : (pinionFormed s).odo.posState = (sample s).odo.posState ∧
    (pinionFormed s).odo.position = (sample s).odo.position ∧
    (pinionFormed s).odo.uncertainty = (sample s).odo.uncertainty ∧ (pinionFormed s).odo.awaited = s.odo.awaited ∧
    (pinionFormed s).mode = s.mode ∧ (pinionFormed s).store = s.store ∧
    (sample s).odo.awaited = (awaitedFormed s).odo.awaited := by
  have stands := (crossFormed_stands s).1
  have acted : RowsActed motionBlocks (crossFormed s) (pinionFormed s) :=
    ((sampleReverse_acted _).trans (selectSource_acted _)).trans (samplePinion_acted _)
  have awaited : (positionFormed s).odo.awaited = s.odo.awaited := by rw [positionFormed_odo]
  refine ⟨?_, ?_, ?_, ?_, Eq.trans (acted.keeps .mode (by decide)) (stands .mode (by decide)),
    Eq.trans (acted.keeps .store (by decide)) (stands .store (by decide)), ?_⟩
  · rw [sample_odo, recordFormed_odo, pinionFormed_odo]
  · rw [sample_odo, recordFormed_odo, pinionFormed_odo]
  · rw [sample_odo, recordFormed_odo, pinionFormed_odo]
  · rw [pinionFormed_odo]
    exact awaited
  · rw [sample_odo, recordFormed_odo]

theorem sample_awaited_none {s : State} (h : (sample s).odo.posState = .unknown ∨ s.mode.direction = .none) :
    (sample s).odo.awaited = none := by
  obtain ⟨posState, _, _, _, mode, _, last⟩ := pinionFormed_awaited s
  rw [← posState, ← mode] at h
  rw [last]
  exact sampleAwaited_none h

/-- The awaited mark after an expiry in a known position and with a direction: chosen, kept or missed (R27). -/
theorem sample_awaited {s : State} (known : (sample s).odo.posState ≠ .unknown) (hd : s.mode.direction ≠ .none) :
    ((∀ m, s.odo.awaited = some m → m ∉ marksOf s.store.segments) → (sample s).odo.awaited =
      nextMark (marksOf s.store.segments) s.mode.direction (sample s).odo.position) ∧
    (∀ m, s.odo.awaited = some m → m ∈ marksOf s.store.segments →
      (-(((sample s).odo.uncertainty : Int) + 10) ≤ aheadOf s.mode.direction (sample s).odo.position m →
        (sample s).odo.awaited = some m) ∧
      (aheadOf s.mode.direction (sample s).odo.position m < -(((sample s).odo.uncertainty : Int) + 10) →
        (sample s).odo.awaited = none ∧ raisedAll .position (sample s) ∧
        (sample s).odo.notice ∈ [Notice.markMissed, .standstillBegin])) := by
  obtain ⟨posState, position, uncertainty, stood, mode, store, last⟩ := pinionFormed_awaited s
  rw [← posState] at known
  rw [← mode] at hd
  rw [last, ← position, ← uncertainty, ← stood, ← mode, ← store]
  refine ⟨fun free => sampleAwaited_chosen known hd free, fun m hm mem => ?_⟩
  obtain ⟨stays, missed⟩ := sampleAwaited_met known hd hm mem
  refine ⟨stays, fun far => ?_⟩
  obtain ⟨none, notice, raised⟩ := missed far
  have later := (sampleQuiet_acted (awaitedFormed s)).ports
  refine ⟨none, (raised.mono later).mono (quietFormed_ports s), ?_⟩
  obtain ⟨_, _, _, _, _, _, _, final⟩ := sample_quiet s
  rw [final]
  rcases sampleQuiet_notice (awaitedFormed s) with same | begins
  · exact List.mem_cons.mpr (.inl (same.trans notice))
  · exact List.mem_cons.mpr (.inr (List.mem_singleton.mpr begins))

/-! ### The pinion -/

theorem pinionSilent_iff (s : State) : pinionSilent s = true ↔ s.odo.posState ≠ .unknown ∧ 50 < s.odo.axleSpeed ∧
    s.odo.pinionSeen = false ∧ ∃ g, segmentAt s.store.segments s.odo.position = some g ∧ g.kind = .rack := by
  unfold pinionSilent carSegment
  cases segmentAt s.store.segments s.odo.position with
  | none => simp
  | some g =>
    simp
    tauto

/-- The pinion fault time and PINION_FAULT of an expiry (R31). -/
theorem samplePinion_fault {s : State} (h : s.odo.pinionFault = false) :
    (samplePinion s).odo.pinionFaultTime = pinionTimeNow s ∧
    (samplePinion s).odo.pinionFault = decide (pinionTimeNow s = 2000) := by
  rw [samplePinion_eq, h, if_neg (by decide)]
  split
  · rename_i full
    rw [setPinionFault_odo]
    exact ⟨rfl, (decide_eq_true full).symm⟩
  · rename_i short
    exact ⟨rfl, h.trans (decide_eq_false short).symm⟩

/-- What the pinion is judged by, at an expiry. -/
theorem sourceFormed_pinion (s : State) : (sourceFormed s).odo.pinionFault = s.odo.pinionFault ∧
    (sourceFormed s).odo.pinionFaultTime = s.odo.pinionFaultTime ∧
    (sample s).odo.pinionFault = (pinionFormed s).odo.pinionFault ∧
    (sample s).odo.pinionFaultTime = (pinionFormed s).odo.pinionFaultTime ∧
    (pinionSilent (sourceFormed s) = true ↔ (sample s).odo.posState ≠ .unknown ∧ 50 < (sample s).odo.axleSpeed ∧
      s.odo.pinionSeen = false ∧
      ∃ g, segmentAt s.store.segments (sample s).odo.position = some g ∧ g.kind = .rack) := by
  have acted : RowsActed motionBlocks (crossFormed s) (sourceFormed s) :=
    (sampleReverse_acted _).trans (selectSource_acted _)
  have store : (sourceFormed s).store = s.store :=
    Eq.trans (acted.keeps .store (by decide)) ((crossFormed_stands s).1 .store (by decide))
  have start : (positionFormed s).odo.pinionFault = s.odo.pinionFault ∧
      (positionFormed s).odo.pinionFaultTime = s.odo.pinionFaultTime ∧
      (positionFormed s).odo.pinionSeen = s.odo.pinionSeen := by
    rw [positionFormed_odo]
    exact ⟨rfl, rfl, rfl⟩
  obtain ⟨fault, time, seen⟩ := start
  have silent := pinionSilent_iff (sourceFormed s)
  rw [sourceFormed_odo, store] at silent
  rw [← seen, silent, sample_odo, recordFormed_odo, sourceFormed_odo]
  exact ⟨fault, time, rfl, rfl, Iff.rfl⟩

theorem sample_pinion_stands {s : State} (h : s.odo.pinionFault = true) :
    (sample s).odo.pinionFault = true ∧ (sample s).odo.pinionFaultTime = s.odo.pinionFaultTime := by
  obtain ⟨fault, time, last, lastTime, _⟩ := sourceFormed_pinion s
  rw [← fault] at h
  rw [last, lastTime, ← time, pinionFormed, samplePinion_eq, if_pos h]
  exact ⟨h, rfl⟩

/-- The pinion after an expiry that finds it without fault (R31). -/
theorem sample_pinion {s : State} (h : s.odo.pinionFault = false) :
    ((sample s).odo.posState ≠ .unknown ∧ 50 < (sample s).odo.axleSpeed ∧ s.odo.pinionSeen = false ∧
        (∃ g, segmentAt s.store.segments (sample s).odo.position = some g ∧ g.kind = .rack) →
      (sample s).odo.pinionFaultTime = min 2000 (s.odo.pinionFaultTime + 50)) ∧
    (¬((sample s).odo.posState ≠ .unknown ∧ 50 < (sample s).odo.axleSpeed ∧ s.odo.pinionSeen = false ∧
        (∃ g, segmentAt s.store.segments (sample s).odo.position = some g ∧ g.kind = .rack)) →
      (sample s).odo.pinionFaultTime = 0) ∧
    (sample s).odo.pinionFault = decide ((sample s).odo.pinionFaultTime = 2000) := by
  obtain ⟨fault, time, last, lastTime, silent⟩ := sourceFormed_pinion s
  obtain ⟨judged, failed⟩ := samplePinion_fault (fault.trans h)
  rw [← pinionFormed] at judged failed
  rw [last, lastTime, ← silent, judged, failed, pinionTimeNow, time]
  refine ⟨fun quiet => if_pos quiet, fun turns => if_neg turns, rfl⟩

end Sys2Proof.Machine
end

section
/-!
What follows the position record at a sampling expiry: the brakes, the restrictions, the zone and the alarm (R32, R60,
R96, R103, R112, R155).
-/

namespace Sys2Proof.Machine

/-! ### The ODOMETRY row -/

/-- The rows written as they stand change nothing, where the driven kind is theirs. -/
theorem RowsBring.idle {p : Params} {still : Bool} {a b : BrakeSide} (h : RowsBring p still a.rows a b)
    (driven : a.driven = drivenOf a.latch a.rows) : b = a := by
  have latch : b.latch = a.latch := by rw [h.latch, becomesEmergency_same, Bool.or_false]
  have kind : b.driven = a.driven := by rw [h.driven, latch, driven]
  have drive : b.drive = a.drive := by
    by_cases test : a.drive.source = .test
    · exact h.drive.test test (becomesEmergency_same _)
    · exact h.drive.unmoved kind test
  obtain ⟨l, r, d, e⟩ := b
  cases latch
  cases kind
  cases drive
  cases show r = a.rows from h.rows
  rfl

theorem RowsBring.same {p : Params} {still : Bool} {a : BrakeSide} (driven : a.driven = drivenOf a.latch a.rows) :
    RowsBring p still a.rows a a := by
  have stands := becomesEmergency_same a.rows
  refine ⟨rfl, by rw [stands, Bool.or_false], driven, ⟨fun _ _ => rfl, fun x => absurd rfl x, fun x => absurd rfl x,
    fun _ _ => rfl, fun _ x => ?_⟩⟩
  rw [stands] at x
  cases x

/-- What a stage does that may bring the ODOMETRY row to EMERGENCY (R32). -/
structure OdometryJudged (raises : Bool) (s t : State) : Prop where
  written : raises = true → RowsBring s.store.params s.odo.standstill { s.dem.rows with odometry := .emergency }
    (brakeSide s) (brakeSide t) ∧ raisedAll .position t
  stands : raises = false → brakeSide t = brakeSide s
  alarm : t.dem.alarm = s.dem.alarm
  doors : t.doors = s.doors
  store : t.store = s.store
  standstill : t.odo.standstill = s.odo.standstill
  ports : PortsKeep standstillEvents none s t

/-- Two stages: what the first has brought to EMERGENCY the second leaves there. -/
theorem OdometryJudged.trans {a b : Bool} {s t u : State} (h : OdometryJudged a s t) (k : OdometryJudged b t u) :
    OdometryJudged (a || b) s u where
  written raises := by
    cases a with
    | true =>
      obtain ⟨bring, event⟩ := h.written rfl
      refine ⟨?_, event.mono k.ports⟩
      cases b with
      | false => rw [k.stands rfl]; exact bring
      | true =>
        have again := (k.written rfl).1
        have rows : t.dem.rows = { s.dem.rows with odometry := .emergency } := bring.rows
        rw [rows, h.store, h.standstill] at again
        rw [bring.again again]
        exact bring
    | false =>
      obtain ⟨bring, event⟩ := k.written raises
      have side := h.stands rfl
      have rows : t.dem.rows = s.dem.rows := congrArg BrakeSide.rows side
      rw [side, rows, h.store, h.standstill] at bring
      exact ⟨bring, event⟩
  stands quiet := by
    obtain ⟨ha, hb⟩ := Bool.or_eq_false_iff.mp quiet
    exact (k.stands hb).trans (h.stands ha)
  alarm := k.alarm.trans h.alarm
  doors := k.doors.trans h.doors
  store := k.store.trans h.store
  standstill := k.standstill.trans h.standstill
  ports := h.ports.trans k.ports

theorem OdometryJudged.row {raises : Bool} {s t : State} (h : OdometryJudged raises s t) (hr : raises = true) :
    t.dem.rows.odometry = .emergency ∧ raisedAll .position t := by
  obtain ⟨bring, event⟩ := h.written hr
  have rows : t.dem.rows = { s.dem.rows with odometry := .emergency } := bring.rows
  exact ⟨by rw [rows], event⟩

/-- The row as its causes have it: where nothing has raised it, a writing of it changes nothing (R32, R96). -/
theorem OdometryJudged.bring {raises : Bool} {s t : State} {k : Kind} (h : OdometryJudged raises s t)
    (driven : s.dem.driven = drivenOf s.dem.latch s.dem.rows) (up : raises = true → k = .emergency)
    (same : raises = false → k = s.dem.rows.odometry) :
    RowsBring s.store.params s.odo.standstill { s.dem.rows with odometry := k } (brakeSide s) (brakeSide t) := by
  cases raises with
  | true =>
    rw [up rfl]
    exact (h.written rfl).1
  | false =>
    rw [same rfl, h.stands rfl]
    exact RowsBring.same (a := brakeSide s) driven

theorem OdometryJudged.of_besides {s t : State} (k : Keeps besidesOdo s t)
    (standstill : t.odo.standstill = s.odo.standstill) (p : PortsKeep [.position] none s t) :
    OdometryJudged false s t := by
  have dem : t.dem = s.dem := k .dem (by decide)
  have drive : t.drive = s.drive := k .drive (by decide)
  exact ⟨fun x => (by cases x), fun _ => by simp only [brakeSide, dem, drive], by rw [dem], k .doors (by decide),
    k .store (by decide), standstill, p.mono (by decide) (.inl rfl)⟩

theorem OdometryJudged.of_written {s t : State} {f : Odometry → Odometry}
    (w : RowsWritten { s.dem.rows with odometry := .emergency } (raise .position (updOdo f s)) t)
    (still : (f s.odo).standstill = s.odo.standstill := by rfl) : OdometryJudged true s t := by
  have follow : RowsFollow { s.dem.rows with odometry := .emergency } s t := w.follow.of_eq rfl rfl still rfl
  have noticed : PortsKeep standstillEvents none s (raise .position (updOdo f s)) := .raise_of .position rfl (by decide)
  exact ⟨fun _ => ⟨follow.bring, (raisedAll_raise .position _).mono w.ports⟩, fun x => (by cases x), follow.dem.alarm,
    w.keeps .doors (by decide), w.keeps .store (by decide),
    (congrArg Odometry.standstill (w.keeps .odo (by decide))).trans still,
    noticed.trans (w.ports.mono (by decide) (.inl rfl))⟩

theorem rollBack_written (s : State) : RowsWritten { s.dem.rows with odometry := .emergency }
    (raise .position (updOdo (fun o => { o with rollback := true, notice := .rollback }) s)) (rollBack s) :=
  writeRows_written _ _

/-- ROLLBACK writes the row where it is set (R30, R32). -/
theorem sampleReverse_judged {s : State} {d : Int} (hd : d = (s.odo.windowOf s.odo.source).d4) :
    OdometryJudged (countsReverse s.mode.direction d &&
      decide (5 < s.odo.reverse + (s.odo.reverseCarry + d.natAbs) / 100) && !s.odo.rollback) s (sampleReverse s) := by
  subst hd
  have counted : OdometryJudged false s (reverseCounted s) := by
    unfold reverseCounted
    exact .of_besides (updOdo_keeps _ s) rfl (.of_eq rfl)
  have far : 5 < (reverseCounted s).odo.reverse ↔
      5 < s.odo.reverse + (s.odo.reverseCarry + (s.odo.windowOf s.odo.source).d4.natAbs) / 100 := by
    show 5 < min 65535 _ ↔ _
    omega
  have stood : (reverseCounted s).odo.rollback = s.odo.rollback := rfl
  rw [sampleReverse_eq]
  simp only [far, stood]
  split
  · rename_i counts
    split
    · rename_i rolls
      have rolled : OdometryJudged true (reverseCounted s) (rollBack (reverseCounted s)) :=
        .of_written (rollBack_written _)
      rw [counts, decide_eq_true rolls.1, rolls.2]
      exact counted.trans rolled
    · rename_i stands
      have quiet : (decide (5 < s.odo.reverse + (s.odo.reverseCarry + (s.odo.windowOf s.odo.source).d4.natAbs) / 100) &&
          !s.odo.rollback) = false := by
        rw [← Bool.not_eq_true, Bool.and_eq_true, decide_eq_true_eq, Bool.not_eq_true']
        exact stands
      rw [Bool.and_assoc, quiet, Bool.and_false]
      exact counted
  · rename_i forward
    rw [Bool.eq_false_of_not_eq_true forward]
    exact .of_besides (.refl _ s) rfl (.refl _ _ s)

/-- PINION_FAULT writes the row where it is set (R31, R32). -/
theorem samplePinion_judged (s : State) :
    OdometryJudged ((samplePinion s).odo.pinionFault && !s.odo.pinionFault) s (samplePinion s) := by
  have timed : OdometryJudged false s (updOdo (fun o => { o with pinionFaultTime := pinionTimeNow s }) s) :=
    .of_besides (updOdo_keeps _ s) rfl (.of_eq rfl)
  cases fault : s.odo.pinionFault with
  | true =>
    rw [Bool.not_true, Bool.and_false, samplePinion_eq, if_pos fault]
    exact .of_besides (.refl _ s) rfl (.refl _ _ s)
  | false =>
    rw [(samplePinion_fault fault).2, samplePinion_eq, if_neg (by rw [fault]; decide)]
    split
    · rename_i full
      rw [show decide (pinionTimeNow s = 2000) = true from decide_eq_true full]
      exact timed.trans (.of_written (setPinionFault_written _))
    · rename_i short
      rw [show decide (pinionTimeNow s = 2000) = false from decide_eq_false short]
      exact timed

theorem selectSource_judged (s : State) : OdometryJudged false s (selectSource s) := by
  unfold selectSource
  simp only
  split
  · exact .of_besides (.refl _ s) rfl (.refl _ _ s)
  · exact .of_besides (updOdo_keeps _ s) rfl (.of_eq rfl)

theorem sampleAwaited_judged (s : State) : OdometryJudged false s (sampleAwaited s) := by
  have put : ∀ m, OdometryJudged false s (updOdo (fun o => { o with awaited := m }) s) := fun m =>
    .of_besides (updOdo_keeps _ s) rfl (.of_eq rfl)
  unfold sampleAwaited
  simp only
  split
  · exact put _
  split
  · exact put _
  split
  · exact (put none).trans (.of_besides (notice_keeps _ _) rfl (notice_ports _ _))
  · exact .of_besides (.refl _ s) rfl (.refl _ _ s)

/-- Whether the expiry sets ROLLBACK, or has it set, by the distance `d` (R30). -/
def rollsBack (s : State) (d : Int) : Bool :=
  s.odo.rollback || (countsReverse s.mode.direction d &&
    decide (5 < s.odo.reverse + (s.odo.reverseCarry + d.natAbs) / 100))

/-- The brakes up to the quiet time: the row is written where ROLLBACK or PINION_FAULT is set (R32). -/
theorem awaitedFormed_judged {s : State} {d : Int} (hd : d = ((sample s).odo.windowOf s.odo.source).d4) :
    OdometryJudged ((rollsBack s d && !s.odo.rollback) || ((sample s).odo.pinionFault && !s.odo.pinionFault)) s
      (awaitedFormed s) := by
  obtain ⟨source, reverse, carry, rollback, pinion, still, window⟩ := crossFormed_odo s
  obtain ⟨fault, _, last, _, _⟩ := sourceFormed_pinion s
  obtain ⟨stands, ports⟩ := crossFormed_stands s
  have mode : (crossFormed s).mode = s.mode := stands .mode (by decide)
  have start : OdometryJudged false s (crossFormed s) := .of_besides stands still ports
  have rolls := sampleReverse_judged (s := crossFormed s) (d := d) (by rw [source, window, hd])
  have fails := samplePinion_judged (sourceFormed s)
  rw [← pinionFormed, ← last, fault] at fails
  rw [mode, reverse, carry, rollback] at rolls
  have first : (rollsBack s d && !s.odo.rollback) = (countsReverse s.mode.direction d &&
      decide (5 < s.odo.reverse + (s.odo.reverseCarry + d.natAbs) / 100) && !s.odo.rollback) := by
    unfold rollsBack
    cases s.odo.rollback <;> simp
  rw [first]
  have whole := (((start.trans rolls).trans (selectSource_judged _)).trans fails).trans (sampleAwaited_judged _)
  rw [Bool.false_or, Bool.or_false, Bool.or_false] at whole
  exact whole

/-! ### The other blocks -/

theorem envelopeSpan_placed {s t : State} (mode : t.mode = s.mode) (posState : t.odo.posState = s.odo.posState)
    (position : t.odo.position = s.odo.position) (uncertainty : t.odo.uncertainty = s.odo.uncertainty) :
    envelopeSpan t = envelopeSpan s := by
  simp only [envelopeSpan, envelope, mode, posState, position, uncertainty]

theorem entryOverlaps_congr {s t : State} (span : envelopeSpan t = envelopeSpan s) :
    entryOverlaps t = entryOverlaps s := by
  funext r
  rw [entryOverlaps, entryOverlaps, span]

/-- What the other blocks do with the record that an expiry has formed (R60, R103, R155 to R157). -/
structure OthersJudged (s t : State) : Prop extends OthersActed s t where
  limits : t.limits = { s.limits with
    restrictions := s.limits.restrictions.filter fun r => r.state = .active || entryOverlaps t r }
  limitsEvent : t.limits.restrictions ≠ s.limits.restrictions → raisedAll .restrictions t
  zone : ZoneFormed s t
  alarm : t.dem.alarm = alarmNext s.dem.alarm (alarmPulled s.dem.handles) (noStopOverlap t) false
  row : RowsFollow { s.dem.rows with alarm := alarmRow t.dem.alarm s.odo.standstill }
    { s with dem := { s.dem with alarm := t.dem.alarm } } t

theorem removeLifted_limits (s : State) : (removeLifted s).limits = { s.limits with
    restrictions := s.limits.restrictions.filter fun r => r.state = .active || entryOverlaps s r } := by
  have kept : (fun r : Restriction => !decide (r.state = .lifting) || entryOverlaps s r) =
      fun r => decide (r.state = .active) || entryOverlaps s r := by
    funext r
    cases r.state <;> rfl
  rw [← kept]
  exact raiseIf_limits _ _ _

theorem removeLifted_event {s : State} (h : (removeLifted s).limits.restrictions ≠ s.limits.restrictions) :
    raisedAll .restrictions (removeLifted s) := by
  have changed : (s.limits.restrictions.filter fun r => !(r.state = .lifting) || entryOverlaps s r) ≠
      s.limits.restrictions := by
    rwa [removeLifted, putRestrictions, raiseIf_limits] at h
  unfold removeLifted putRestrictions
  rw [decide_eq_false changed]
  exact raisedAll_raise _ _

theorem othersFormed_judged (s : State) : OthersJudged s (othersFormed s) := by
  let u := removeLifted s
  let v := formZone u
  have acted := othersFormed_acted s
  obtain ⟨zone, zoned, ported⟩ := formZone_formed u
  obtain ⟨alarm, _, follow, alarmed, evented⟩ :=
    setAlarm_set (alarmNext v.dem.alarm (alarmPulled v.dem.handles) (noStopOverlap v) false) v
  change (othersFormed s).dem.alarm = _ at alarm
  change Keeps _ v (othersFormed s) at alarmed
  change PortsKeep _ none v (othersFormed s) at evented
  have lifted : u.dem = s.dem ∧ u.drive = s.drive ∧ u.odo = s.odo ∧ u.store = s.store ∧ u.radio = s.radio :=
    ⟨raiseIf_dem _ _ _, raiseIf_drive _ _ _, raiseIf_odo _ _ _, raiseIf_store _ _ _, raiseIf_radio _ _ _⟩
  obtain ⟨dem, drive, odo, store, radio⟩ := lifted
  have vdem : v.dem = s.dem := Eq.trans (zoned .dem (by decide)) dem
  have vdrive : v.drive = s.drive := Eq.trans (zoned .drive (by decide)) drive
  have vodo : v.odo = s.odo := Eq.trans (zoned .odo (by decide)) odo
  have vstore : v.store = s.store := Eq.trans (zoned .store (by decide)) store
  have overlap : noStopOverlap v = noStopOverlap (othersFormed s) :=
    (noStopOverlap_congr (alarmed .mode (by decide)) (alarmed .odo (by decide)) (alarmed .store (by decide))).symm
  have span : entryOverlaps (othersFormed s) = entryOverlaps s :=
    entryOverlaps_congr (envelopeSpan_congr (acted.keeps .mode (by decide)) (acted.keeps .odo (by decide)))
  have limits : (othersFormed s).limits = u.limits :=
    Eq.trans (alarmed .limits (by decide)) (zoned .limits (by decide))
  have event : PortsKeep (.radio :: .restrictions :: standstillEvents) none u (othersFormed s) :=
    (ported.mono (by decide) (.inl rfl)).trans (evented.mono (by decide) (.inl rfl))
  have stood : (othersFormed s).odo = v.odo := alarmed .odo (by decide)
  refine ⟨acted, ?_, ?_, ?_, ?_, ?_⟩
  · rw [limits, span]
    exact removeLifted_limits s
  · rw [limits]
    exact fun changed => (removeLifted_event changed).mono event
  · exact zone.within radio (alarmed .radio (by decide)) (by rw [stood]) (by rw [stood]) (alarmed .store (by decide))
      evented
  · rw [alarm, overlap, vdem]
  · rw [alarm]
    change RowsFollow _ _ (othersFormed s) at follow
    rw [vodo, vdem] at follow
    rw [vdem]
    exact follow.of_eq rfl vdrive rfl vstore

/-- The writing of the ALARM row, on the brakes alone (R96, R107). -/
theorem OthersJudged.bring {s t : State} (h : OthersJudged s t) : RowsBring s.store.params s.odo.standstill
    { s.dem.rows with alarm := alarmRow t.dem.alarm s.odo.standstill } (brakeSide s) (brakeSide t) := h.row.bring

/-- A writing of the ALARM row leaves the ODOMETRY row. -/
theorem RowsBring.odometry_of_alarm {p : Params} {still : Bool} {k : Kind} {s t : State}
    (h : RowsBring p still { s.dem.rows with alarm := k } (brakeSide s) (brakeSide t)) :
    t.dem.rows.odometry = s.dem.rows.odometry := by
  have rows : t.dem.rows = { s.dem.rows with alarm := k } := h.rows
  rw [rows]

/-- A flag that only rises, and has not risen, stands. -/
theorem eq_of_not_risen {now before : Bool} (lasts : before = true → now = true) (h : (now && !before) = false) :
    now = before := by
  cases before with
  | true => exact lasts rfl
  | false => rwa [Bool.not_false, Bool.and_true] at h

end Sys2Proof.Machine
end

section
/-!
The brakes and the alarm over a whole sampling expiry (R32, R96, R103, R112), and what it judges (R23, R27, R30, R31).
-/

namespace Sys2Proof.Machine

variable {s : State}

/-! ### The alarm and the brakes -/

theorem sample_judged (s : State) : OthersJudged (recordFormed s) (sample s) := by
  rw [sample_eq]
  exact othersFormed_judged _

/-- An alarm evaluated as standstill begins stands when it is evaluated again (R103, R104). -/
theorem alarmNext_again (a : AlarmState) (pulled overlap : Bool) :
    alarmNext (alarmNext a pulled overlap true) pulled overlap false = alarmNext a pulled overlap true := by
  cases a <;> cases pulled <;> cases overlap <;> rfl

/-- The counts cleared are of the odometry alone. -/
theorem sampleClear_keeps (s : State) : Keeps besidesOdo s (sampleClear s) := by
  unfold sampleClear
  exact updOdo_keeps _ s

theorem recordFormed_cleared (s : State) : Keeps besidesOdo (quietFormed s) (recordFormed s) := sampleClear_keeps _

/-- The blocks that the record's stages leave, over the whole of them. -/
theorem recordFormed_keeps (s : State) : Keeps motionBlocks s (recordFormed s) :=
  ((crossFormed_stands s).1.mono (by decide)).trans (recordFormed_acted s).keeps

theorem awaitedFormed_ports (s : State) :
    PortsKeep (.radio :: .restrictions :: standstillEvents) none (awaitedFormed s) (sample s) :=
  ((sampleQuiet_acted (awaitedFormed s)).ports.mono (by decide) (.inl rfl)).trans (quietFormed_ports s)

theorem sample_handles (s : State) : (recordFormed s).dem.handles = s.dem.handles := by
  have dem : (crossFormed s).dem = s.dem := (crossFormed_stands s).1 .dem (by decide)
  rw [(recordFormed_acted s).handles, dem]

/-- The blocks that the record's stages leave, up to the quiet time. -/
theorem awaitedFormed_keeps (s : State) : Keeps motionBlocks s (awaitedFormed s) :=
  ((crossFormed_stands s).1.mono (by decide)).trans (awaitedFormed_acted s).keeps

theorem sample_keeps (s : State) : Keeps [.mode, .store] s (sample s) :=
  ((recordFormed_keeps s).mono (by decide)).trans ((sample_judged s).keeps.mono (by decide))

theorem noStopOverlap_quietRunOn (s : State) : noStopOverlap (quietRunOn s) = noStopOverlap s := rfl

/-- The envelope that the alarm is judged by as standstill begins is that of the expiry (R103). -/
theorem sample_span (s : State) : noStopOverlap (quietRunOn (awaitedFormed s)) = noStopOverlap (sample s) := by
  have before : (awaitedFormed s).mode = s.mode := awaitedFormed_keeps s .mode (by decide)
  have after : (sample s).mode = s.mode := sample_keeps s .mode (by decide)
  have mode : (awaitedFormed s).mode = (sample s).mode := before.trans after.symm
  have stood : (awaitedFormed s).store = s.store := awaitedFormed_keeps s .store (by decide)
  have stands : (sample s).store = s.store := sample_keeps s .store (by decide)
  have placed : (awaitedFormed s).odo.posState = (sample s).odo.posState ∧
      (awaitedFormed s).odo.position = (sample s).odo.position ∧
      (awaitedFormed s).odo.uncertainty = (sample s).odo.uncertainty := by
    rw [sample_odo, recordFormed_odo, awaitedFormed_odo]
    exact ⟨rfl, rfl, rfl⟩
  obtain ⟨posState, position, uncertainty⟩ := placed
  rw [noStopOverlap_quietRunOn, noStopOverlap, noStopOverlap, envelopeSpan_placed mode posState position uncertainty,
    stood, stands]

/-- Where standstill does not begin, the brakes follow the ALARM row alone after the ODOMETRY row (R96, R103). -/
theorem sample_waiting {d : Int} (hd : d = ((sample s).odo.windowOf s.odo.source).d4)
    (h : quietEnds s (sample s) = false) :
    (sample s).dem.alarm = alarmNext s.dem.alarm (alarmPulled s.dem.handles) (noStopOverlap (sample s)) false ∧
    (sample s).doors.door = s.doors.door ∧
    RowsBring s.store.params s.odo.standstill
      { (awaitedFormed s).dem.rows with alarm := alarmRow (sample s).dem.alarm s.odo.standstill }
      (brakeSide (awaitedFormed s)) (brakeSide (sample s)) := by
  have waits := sample_waits h
  have judged := awaitedFormed_judged hd
  have others := sample_judged s
  have kept : Keeps besidesOdo (awaitedFormed s) (recordFormed s) := waits.keeps.trans (recordFormed_cleared s)
  have dem : (recordFormed s).dem = (awaitedFormed s).dem := kept .dem (by decide)
  have drive : (recordFormed s).drive = (awaitedFormed s).drive := kept .drive (by decide)
  have doors : (recordFormed s).doors = (awaitedFormed s).doors := kept .doors (by decide)
  have store : (recordFormed s).store = s.store := recordFormed_keeps s .store (by decide)
  have still : (recordFormed s).odo.standstill = s.odo.standstill := by
    have quiet : (quietFormed s).odo.standstill = (awaitedFormed s).odo.standstill := by rw [waits.odo]
    rw [recordFormed_odo]
    exact quiet.trans judged.standstill
  have alarm := others.alarm
  rw [sample_handles, dem, judged.alarm] at alarm
  refine ⟨alarm, ?_, ?_⟩
  · have stood : (sample s).doors = (recordFormed s).doors := others.keeps .doors (by decide)
    rw [stood, doors, judged.doors]
  · have bring := others.bring
    have side : brakeSide (recordFormed s) = brakeSide (awaitedFormed s) := by simp only [brakeSide, dem, drive]
    rw [side, dem, store, still] at bring
    exact bring

/-- Where standstill begins, the brakes follow the rows of standstill after the ODOMETRY row, and the alarm evaluated
again changes nothing (R23, R96, R103, R112). -/
theorem sample_beginning (h : quietEnds s (sample s) = true) :
    (sample s).dem.alarm = alarmNext (awaitedFormed s).dem.alarm (alarmPulled (awaitedFormed s).dem.handles)
      (noStopOverlap (sample s)) true ∧
    (sample s).doors = { (awaitedFormed s).doors with loopClosed := allSecured (awaitedFormed s).doors.door } ∧
    StandstillBrakes true (standstillWrites true (sample s)) (awaitedFormed s).store.params
      (brakeSide (awaitedFormed s)) (sample s) := by
  have begun : StandstillBegun (quietRunOn (awaitedFormed s)) (quietFormed s) := (sample_begins h).1
  have others := sample_judged s
  have kept := recordFormed_cleared s
  have dem : (recordFormed s).dem = (quietFormed s).dem := kept .dem (by decide)
  have drive : (recordFormed s).drive = (quietFormed s).drive := kept .drive (by decide)
  have doors : (sample s).doors = (quietFormed s).doors :=
    Eq.trans (others.keeps .doors (by decide)) (kept .doors (by decide))
  have limits : (recordFormed s).limits = (quietFormed s).limits := kept .limits (by decide)
  have still : (recordFormed s).odo.standstill = true := by
    rw [recordFormed_odo]
    exact congrArg Odometry.standstill begun.odo
  obtain ⟨rows, _, driven⟩ := begun.brakes.come
  have first : (quietFormed s).dem.alarm = alarmNext (awaitedFormed s).dem.alarm
      (alarmPulled (awaitedFormed s).dem.handles) (noStopOverlap (sample s)) true := by
    rw [← sample_span]
    exact begun.alarm
  have handles : (quietFormed s).dem.handles = (awaitedFormed s).dem.handles := begun.acted.handles
  have alarm : (sample s).dem.alarm = (quietFormed s).dem.alarm := by
    rw [others.alarm, dem, handles, first, alarmNext_again]
  have side : brakeSide (sample s) = brakeSide (quietFormed s) := by
    have bring := others.bring
    have same : brakeSide (recordFormed s) = brakeSide (quietFormed s) := by simp only [brakeSide, dem, drive]
    rw [same, dem, still, alarm] at bring
    have stand : { (quietFormed s).dem.rows with alarm := alarmRow (quietFormed s).dem.alarm true } =
        (quietFormed s).dem.rows := by
      rw [rows]
      rfl
    rw [stand] at bring
    exact RowsBring.idle (a := brakeSide (quietFormed s)) bring driven
  have stops : (sample s).limits.stops = (quietFormed s).limits.stops := by rw [others.limits, limits]
  have mode : (sample s).mode = (quietFormed s).mode :=
    Eq.trans (others.keeps .mode (by decide)) (kept .mode (by decide))
  have odo : (sample s).odo.rollback = (quietFormed s).odo.rollback ∧
      (sample s).odo.pinionFault = (quietFormed s).odo.pinionFault := by
    rw [sample_odo, recordFormed_odo, quietFormed, sampleQuiet_odo, awaitedFormed_odo]
    exact ⟨rfl, rfl⟩
  have writes : standstillWrites true (sample s) = standstillWrites true (quietFormed s) := by
    simp only [standstillWrites, doors, stops, mode, alarm, odo.1, odo.2]
  refine ⟨alarm.trans first, doors.trans begun.doors, ?_⟩
  rw [writes, StandstillBrakes, side]
  exact begun.brakes

/-! ### The ODOMETRY row -/

theorem sample_rollback {d : Int} (hd : d = ((sample s).odo.windowOf s.odo.source).d4)
    (h : quietEnds s (sample s) = false) : (sample s).odo.rollback = rollsBack s d := by
  obtain ⟨counted, stood⟩ := sample_reverse hd h
  unfold rollsBack
  cases counts : countsReverse s.mode.direction d with
  | true =>
    obtain ⟨reverse, _, rollback⟩ := counted counts
    have far : 5 < (sample s).odo.reverse ↔ 5 < s.odo.reverse + (s.odo.reverseCarry + d.natAbs) / 100 := by
      rw [reverse]
      omega
    rw [rollback, decide_eq_decide.mpr far, Bool.true_and]
  | false => rw [(stood counts).2.2, Bool.false_and, Bool.or_false]

/-- The row that ROLLBACK or PINION_FAULT brings to EMERGENCY, and its notice (R32). -/
theorem awaitedFormed_raises {d : Int} (hd : d = ((sample s).odo.windowOf s.odo.source).d4)
    (raises : ((rollsBack s d && !s.odo.rollback) || ((sample s).odo.pinionFault && !s.odo.pinionFault)) = true) :
    (awaitedFormed s).dem.rows.odometry = .emergency ∧ raisedAll .position (sample s) := by
  obtain ⟨row, event⟩ := (awaitedFormed_judged hd).row raises
  exact ⟨row, event.mono (awaitedFormed_ports s)⟩

theorem sample_waiting_odometry (h : quietEnds s (sample s) = false) :
    (sample s).dem.rows.odometry = (awaitedFormed s).dem.rows.odometry :=
  (sample_waiting rfl h).2.2.odometry_of_alarm

/-- ROLLBACK set by the expiry (R30, R32). -/
theorem sample_rolled (now : (sample s).odo.rollback = true) (before : s.odo.rollback = false) :
    (sample s).dem.rows.odometry = .emergency ∧ raisedAll .position (sample s) := by
  cases ends : quietEnds s (sample s) with
  | true =>
    obtain ⟨_, _, _, _, _, _, cleared, _⟩ := sample_begins ends
    rw [cleared] at now
    cases now
  | false =>
    rw [sample_rollback rfl ends] at now
    obtain ⟨row, event⟩ := awaitedFormed_raises (s := s) rfl (by rw [now, before]; rfl)
    exact ⟨(sample_waiting_odometry ends).trans row, event⟩

theorem StandstillBrakes.come_odometry {begins : Bool} {p : Params} {a : BrakeSide} {t : State}
    (h : StandstillBrakes begins (standstillWrites begins t) p a t) :
    t.dem.rows.odometry = odometryRow t.odo.rollback t.odo.pinionFault := by
  rw [h.come.1]
  rfl

/-- PINION_FAULT set by the expiry (R31, R32). -/
theorem sample_failed (now : (sample s).odo.pinionFault = true) (before : s.odo.pinionFault = false) :
    (sample s).dem.rows.odometry = .emergency ∧ raisedAll .position (sample s) := by
  obtain ⟨row, event⟩ := awaitedFormed_raises (s := s) rfl (by rw [now, before]; exact Bool.or_true _)
  cases ends : quietEnds s (sample s) with
  | false => exact ⟨(sample_waiting_odometry ends).trans row, event⟩
  | true =>
    refine ⟨(sample_beginning ends).2.2.come_odometry.trans ?_, event⟩
    rw [now, odometryRow, Bool.or_true, if_pos rfl]

/-- The first writing that the brakes follow: the ODOMETRY row as the causes have it, which in rows that stand as their
causes have them changes nothing where nothing is set (R32, R96). -/
theorem awaitedFormed_bring {d : Int} (hd : d = ((sample s).odo.windowOf s.odo.source).d4) (demands : DemandsFollow s) :
    RowsBring s.store.params s.odo.standstill
      { s.dem.rows with odometry := odometryRow (rollsBack s d) (sample s).odo.pinionFault } (brakeSide s)
      (brakeSide (awaitedFormed s)) := by
  have latches : s.odo.rollback = true → rollsBack s d = true := fun h => by rw [rollsBack, h, Bool.true_or]
  have lasts : s.odo.pinionFault = true → (sample s).odo.pinionFault = true := fun h => (sample_pinion_stands h).1
  refine (awaitedFormed_judged hd).bring demands.driven (fun raises => ?_) (fun quiet => ?_)
  · cases rolls : rollsBack s d with
    | true => rfl
    | false =>
      rw [rolls, Bool.false_and, Bool.false_or, Bool.and_eq_true] at raises
      rw [raises.1]
      rfl
  · obtain ⟨rolls, fails⟩ := Bool.or_eq_false_iff.mp quiet
    have back : rollsBack s d = s.odo.rollback := eq_of_not_risen latches rolls
    have fault : (sample s).odo.pinionFault = s.odo.pinionFault := eq_of_not_risen lasts fails
    rw [back, fault, demands.odometry]

/-! ### The expiry whole -/

/-- The awaited mark as the obligation has it, from `sample_awaited` and what the nearest mark ahead is. -/
theorem sample_awaited_nearest (known : (sample s).odo.posState ≠ .unknown) (hd : s.mode.direction ≠ .none)
    (free : ∀ m, s.odo.awaited = some m → m ∉ marksOf s.store.segments) :
    (∀ m, (sample s).odo.awaited = some m → m ∈ marksOf s.store.segments ∧
      0 < aheadOf s.mode.direction (sample s).odo.position m ∧
      ∀ n ∈ marksOf s.store.segments, 0 < aheadOf s.mode.direction (sample s).odo.position n →
        aheadOf s.mode.direction (sample s).odo.position m ≤ aheadOf s.mode.direction (sample s).odo.position n) ∧
    ((sample s).odo.awaited = none → ∀ n ∈ marksOf s.store.segments,
      aheadOf s.mode.direction (sample s).odo.position n ≤ 0) := by
  rw [(sample_awaited known hd).1 free]
  exact nextMark_nearest hd

/-- The restrictions, the zone and what the brakes keep, over the whole expiry (R60, R155). -/
theorem sample_others (s : State) : (sample s).limits = { s.limits with
      restrictions := s.limits.restrictions.filter fun r => r.state = .active || entryOverlaps (sample s) r } ∧
    ((sample s).limits.restrictions ≠ s.limits.restrictions → raisedAll .restrictions (sample s)) ∧
    ZoneFormed s (sample s) ∧ (sample s).dem.handles = s.dem.handles ∧ DriveKeeps s.drive (sample s).drive ∧
    (s.drive.springStuck = true → (sample s).drive.springStuck = false → raisedAll .brakeState (sample s)) := by
  have others := sample_judged s
  have acted := recordFormed_acted s
  have kept := recordFormed_keeps s
  have limits : (recordFormed s).limits = s.limits := kept .limits (by decide)
  have radio : (recordFormed s).radio = s.radio := kept .radio (by decide)
  have drive : (crossFormed s).drive = s.drive := (crossFormed_stands s).1 .drive (by decide)
  have judged := others.limits
  have event := others.limitsEvent
  rw [limits] at judged event
  rw [← drive]
  refine ⟨judged, event, others.zone.within radio rfl rfl rfl rfl (.refl [] none _),
    others.row.dem.handles.trans (sample_handles s), acted.drive.trans others.row.drive, fun was is => ?_⟩
  cases stuck : (recordFormed s).drive.springStuck with
  | true => exact others.row.unstuck stuck is
  | false => exact (acted.unstuck was stuck).mono others.ports

/-- The alarm after the expiry (R103, R104). -/
theorem sample_alarm (s : State) : (sample s).dem.alarm = alarmNext s.dem.alarm (alarmPulled s.dem.handles)
      (noStopOverlap (sample s)) (quietEnds s (sample s)) ∧ (sample s).doors.door = s.doors.door := by
  cases ends : quietEnds s (sample s) with
  | false =>
    obtain ⟨alarm, door, _⟩ := sample_waiting rfl ends
    exact ⟨alarm, door⟩
  | true =>
    obtain ⟨alarm, doors, _⟩ := sample_beginning ends
    have judged := awaitedFormed_judged (s := s) rfl
    have dem : (crossFormed s).dem = s.dem := (crossFormed_stands s).1 .dem (by decide)
    rw [judged.alarm, (awaitedFormed_acted s).handles, dem] at alarm
    exact ⟨alarm, by rw [doors, judged.doors]⟩

/-- Settles O39: the quiet time (`sample_moves`, `sample_still`, `sample_begins`), the reverse distance
(`sample_reverse`), the awaited mark (`sample_awaited`), the pinion (`sample_pinion`), and what follows them
(`sample_others`, `sample_alarm`, `sample_waiting`, `sample_beginning`). -/
theorem samplingJudgesTheMotion : Obligations.SamplingJudgesTheMotion := by
  intro s
  obtain ⟨limits, limitsEvent, zone, handles, drive, unstuck⟩ := sample_others s
  obtain ⟨alarm, doors⟩ := sample_alarm s
  refine ⟨sample s, rfl, sample_moves, fun speed axle pinion seen => ?_, fun d hd ends => ?_, sample_awaited_none,
    fun marks ahead hm ha known directed => ?_, sample_rolled, sample_pinion_stands, fun whole => ?_, limits,
    limitsEvent, zone, alarm, handles, doors, fun d back hd demands hb => ?_, drive, unstuck⟩
  · obtain ⟨starts, stands, runs⟩ := sample_still speed axle pinion seen
    exact ⟨starts, stands, runs, fun ends => (sample_begins ends).2⟩
  · obtain ⟨counted, stood⟩ := sample_reverse hd ends
    refine ⟨fun against => counted ((countsReverse_iff _ _).mpr against), fun along => stood ?_⟩
    rcases along with ⟨up, less⟩ | ⟨down, less⟩
    · rw [up]
      exact decide_eq_false (by omega)
    · rw [down]
      exact decide_eq_false (by omega)
  · have same : ahead = aheadOf s.mode.direction (sample s).odo.position := ha
    rw [hm, same]
    exact ⟨sample_awaited_nearest known directed, (sample_awaited known directed).2⟩
  · obtain ⟨silent, turns, fault⟩ := sample_pinion whole
    refine ⟨?_, fault, fun failed => sample_failed failed whole⟩
    split
    · exact silent ‹_›
    · exact turns ‹_›
  · refine ⟨brakeSide (awaitedFormed s), ?_, fun ends => (sample_waiting hd ends).2.2, fun ends => ?_⟩
    · rw [hb]
      exact awaitedFormed_bring hd demands
    · have store : (awaitedFormed s).store = s.store := awaitedFormed_keeps s .store (by decide)
      rw [← store]
      exact (sample_beginning ends).2.2

end Sys2Proof.Machine
end

section
/-!
What `TablesFollow` says, block by block: the store with its tables, the restriction list with the stop table, and the
radio's lists and queues with the silence timer; so an act is judged by the block that it changes alone, and one that
changes none of the four blocks leaves the whole (`TablesFollow.of_keeps`).
-/

namespace Sys2Proof.Machine

/-- What holds of the store's tables (R36 to R38, R43). -/
structure StoreTables (x : Store) : Prop where
  segments : x.segments.length ≤ Config.segmentSlots
  long : ∀ g ∈ x.segments, 10 ≤ g.length
  joined : contiguous x.segments
  count : x.loader = .segmentRead → x.headerCount ≤ Config.segmentSlots
  glc : x.params.glc.length = 7

/-- What holds of a restriction list (R56). -/
structure RestrictionsInOrder (l : List Restriction) : Prop where
  bound : l.length ≤ Config.restrictionSlots
  ordered : l.Pairwise fun x y => x.start ≤ y.start
  active : oneActive l

/-- What holds of the radio's lists, queues and silence timer (R156, R160, R162, R165, R168). -/
structure RadioQueues (r : Radio) : Prop where
  inbox : r.inbox.length ≤ Config.inboxSlots
  texts : ∀ m ∈ r.inbox, m.text.length ≤ 96
  free : r.freeCount = freeSlots r.inbox
  acks : r.acks.length ≤ Config.ackSlots
  recent : r.recent.length ≤ Config.recentSlots
  distinct : r.recent.Pairwise fun x y => ¬(x.station = y.station ∧ x.serial = y.serial)
  window : ∀ w, r.window = some w → w.framesBegun ≤ 2
  silence : r.silenceRunning = true ↔ r.zone ≠ 0 ∧ r.dark = false
  held : r.silenceRunning = false → r.silenceCount = 0

theorem tablesFollow_iff (s : State) : TablesFollow s ↔
    StoreTables s.store ∧ RestrictionsInOrder s.limits.restrictions ∧
    s.limits.stops.length = 31 ∧ RadioQueues s.radio ∧ Memory.wf s.memory = true := by
  constructor
  · intro h
    exact ⟨⟨h.segments, h.long, h.joined, h.count, h.glc⟩, ⟨h.restrictions, h.ordered, h.active⟩, h.stops,
      ⟨h.inbox, h.texts, h.free, h.acks, h.recent, h.distinct, h.window, h.silence, h.held⟩, h.memory⟩
  · rintro ⟨x, l, stops, r, memory⟩
    exact ⟨x.segments, x.long, x.joined, x.count, x.glc, l.bound, l.ordered, l.active, stops, r.inbox, r.texts, r.free,
      r.acks, r.recent, r.distinct, r.window, r.silence, r.held, memory⟩

/-- The blocks of which the invariant speaks. -/
def tableBlocks : List Block := [.store, .limits, .radio, .memory]

namespace TablesFollow

variable {s t : State} {l : List Block}

theorem storeTables (h : TablesFollow s) : StoreTables s.store := ((tablesFollow_iff s).mp h).1

theorem restrictionList (h : TablesFollow s) : RestrictionsInOrder s.limits.restrictions :=
  ((tablesFollow_iff s).mp h).2.1

theorem radioQueues (h : TablesFollow s) : RadioQueues s.radio := ((tablesFollow_iff s).mp h).2.2.2.1

/-- An act that leaves the four blocks. -/
theorem of_keeps (h : TablesFollow s) (k : Keeps l s t) (hl : ∀ b ∈ tableBlocks, b ∈ l := by decide) :
    TablesFollow t := by
  have store : t.store = s.store := k .store (hl _ (by decide))
  have limits : t.limits = s.limits := k .limits (hl _ (by decide))
  have radio : t.radio = s.radio := k .radio (hl _ (by decide))
  have memory : t.memory = s.memory := k .memory (hl _ (by decide))
  rw [tablesFollow_iff] at h ⊢
  rwa [store, limits, radio, memory]

/-- An act on the radio alone of the four. -/
theorem radioPut (h : TablesFollow s) (k : Keeps l s t) (r : RadioQueues t.radio)
    (hl : ∀ b ∈ [Block.store, .limits, .memory], b ∈ l := by decide) : TablesFollow t := by
  have store : t.store = s.store := k .store (hl _ (by decide))
  have limits : t.limits = s.limits := k .limits (hl _ (by decide))
  have memory : t.memory = s.memory := k .memory (hl _ (by decide))
  rw [tablesFollow_iff] at h ⊢
  obtain ⟨x, list, stops, _, m⟩ := h
  rw [store, limits, memory]
  exact ⟨x, list, stops, r, m⟩

/-- An act on the limits alone of the four. -/
theorem limitsPut (h : TablesFollow s) (k : Keeps l s t) (list : RestrictionsInOrder t.limits.restrictions)
    (stops : t.limits.stops.length = 31) (hl : ∀ b ∈ [Block.store, .radio, .memory], b ∈ l := by decide) :
    TablesFollow t := by
  have store : t.store = s.store := k .store (hl _ (by decide))
  have radio : t.radio = s.radio := k .radio (hl _ (by decide))
  have memory : t.memory = s.memory := k .memory (hl _ (by decide))
  rw [tablesFollow_iff] at h ⊢
  obtain ⟨x, _, _, r, m⟩ := h
  rw [store, radio, memory]
  exact ⟨x, list, stops, r, m⟩

/-- An act on the store alone of the four. -/
theorem storePut (h : TablesFollow s) (k : Keeps l s t) (x : StoreTables t.store)
    (hl : ∀ b ∈ [Block.limits, .radio, .memory], b ∈ l := by decide) : TablesFollow t := by
  have limits : t.limits = s.limits := k .limits (hl _ (by decide))
  have radio : t.radio = s.radio := k .radio (hl _ (by decide))
  have memory : t.memory = s.memory := k .memory (hl _ (by decide))
  rw [tablesFollow_iff] at h ⊢
  obtain ⟨_, list, stops, r, m⟩ := h
  rw [limits, radio, memory]
  exact ⟨x, list, stops, r, m⟩

/-- A permit made present or absent is none of the lists (R65). -/
theorem permitPut (h : TablesFollow s) (k : Keeps l s t) (p : Option Permit)
    (e : t.limits = { s.limits with permit := p }) (hl : ∀ b ∈ [Block.store, .radio, .memory], b ∈ l := by decide) :
    TablesFollow t :=
  h.limitsPut k (by rw [e]; exact h.restrictionList) (by rw [e]; exact h.stops) hl

end TablesFollow

/-! ### The restriction list -/

theorem insertEntry_perm (r : Restriction) (l : List Restriction) : (insertEntry r l).Perm (r :: l) := by
  induction l with
  | nil => exact .refl _
  | cons x rest ih =>
    unfold insertEntry
    split
    · exact (ih.cons x).trans (.swap r x rest)
    · exact .refl _

/-- An entry inserted where its start places it leaves the list in ascending order (R56). -/
theorem insertEntry_ordered (r : Restriction) {l : List Restriction} (h : l.Pairwise fun x y => x.start ≤ y.start) :
    (insertEntry r l).Pairwise fun x y => x.start ≤ y.start := by
  induction l with
  | nil => exact List.pairwise_singleton _ _
  | cons x rest ih =>
    obtain ⟨first, others⟩ := List.pairwise_cons.mp h
    unfold insertEntry
    split
    · rename_i before
      refine List.pairwise_cons.mpr ⟨fun y hy => ?_, ih others⟩
      rcases List.mem_cons.mp ((insertEntry_perm r rest).mem_iff.mp hy) with rfl | hy
      · exact before
      · exact first y hy
    · rename_i after
      refine List.pairwise_cons.mpr ⟨fun y hy => ?_, h⟩
      rcases List.mem_cons.mp hy with rfl | hy
      · omega
      · have := first y hy
        omega

theorem activeOf_iff {k : Key} {r : Restriction} : r.activeOf k = true ↔ r.state = .active ∧ r.key = k := by
  simp [Restriction.activeOf]

theorem oneActive.perm {l m : List Restriction} (h : oneActive l) (p : m.Perm l) : oneActive m :=
  (p.pairwise_iff fun h x y e => h y x e.symm).mpr h

theorem oneActive.filter {l : List Restriction} (h : oneActive l) (p : Restriction → Bool) : oneActive (l.filter p) :=
  List.Pairwise.sublist List.filter_sublist h

/-- A key has one ACTIVE entry at most (R56). -/
theorem oneActive.sole {l : List Restriction} {k : Key} {x y : Restriction} (h : oneActive l) (hx : x ∈ l) (hy : y ∈ l)
    (ax : x.activeOf k = true) (ay : y.activeOf k = true) : x = y := by
  obtain ⟨xActive, xKey⟩ := activeOf_iff.mp ax
  obtain ⟨yActive, yKey⟩ := activeOf_iff.mp ay
  by_contra apart
  have symmetric : Std.Symm fun x y : Restriction => x.state = .active → y.state = .active → x.key ≠ y.key :=
    ⟨fun _ _ r a b e => r b a e.symm⟩
  exact List.Pairwise.forall h hx hy apart xActive yActive (xKey.trans yKey.symm)

/-- A new entry among entries of which none is the ACTIVE one of its key (R56). -/
theorem oneActive.insert {l : List Restriction} {r : Restriction} (h : oneActive l)
    (free : ∀ x ∈ l, x.activeOf r.key = false) : oneActive (insertEntry r l) := by
  refine oneActive.perm (l := r :: l) (List.pairwise_cons.mpr ⟨fun y hy _ active same => ?_, h⟩) (insertEntry_perm r l)
  exact absurd (activeOf_iff.mpr ⟨active, same.symm⟩) (by simp [free y hy])

namespace RestrictionsInOrder

variable {l : List Restriction} {k : Key}

theorem filter (h : RestrictionsInOrder l) (p : Restriction → Bool) : RestrictionsInOrder (l.filter p) where
  bound := (List.length_filter_le p l).trans h.bound
  ordered := h.ordered.sublist List.filter_sublist
  active := h.active.filter p

/-- The ACTIVE entry of a key turned LIFTING (R58, R59). -/
theorem lift (h : RestrictionsInOrder l) (k : Key) : RestrictionsInOrder (liftActive k l) where
  bound := by simpa [liftActive] using h.bound
  ordered := by
    refine List.pairwise_map.mpr (h.ordered.imp fun {x y} le => ?_)
    split <;> split <;> exact le
  active := by
    refine List.pairwise_map.mpr (h.active.imp fun {x y} other => ?_)
    split
    · intro lifted
      cases lifted
    · split
      · intro _ lifted
        cases lifted
      · exact other

theorem liftActive_free (k : Key) (l : List Restriction) : ∀ x ∈ liftActive k l, x.activeOf k = false := by
  intro x hx
  obtain ⟨y, _, rfl⟩ := List.mem_map.mp hx
  split
  · simp [Restriction.activeOf]
  · simpa using ‹¬y.activeOf k = true›

theorem dropActive_free (k : Key) (l : List Restriction) : ∀ x ∈ dropActive k l, x.activeOf k = false := fun x hx => by
  simpa using (List.mem_filter.mp hx).2

/-- A new entry with room for it (R58). -/
theorem insert (h : RestrictionsInOrder l) {r : Restriction} (free : ∀ x ∈ l, x.activeOf r.key = false)
    (room : l.length < Config.restrictionSlots) : RestrictionsInOrder (insertEntry r l) where
  bound := by rw [(insertEntry_perm r l).length_eq]; exact room
  ordered := insertEntry_ordered r h.ordered
  active := h.active.insert free

/-- The ACTIVE entry of a key replaced where it stands by one of the same start (R58). -/
theorem replace (h : RestrictionsInOrder l) {old new : Restriction} (mem : old ∈ l) (active : old.activeOf k = true)
    (key : new.key = k) (start : new.start = old.start) : RestrictionsInOrder (replaceActive k new l) := by
  have sole : ∀ x ∈ l, x.activeOf k = true → x.start = new.start := by
    intro x hx ha
    rw [h.active.sole hx mem ha active, start]
  have placed : ∀ x ∈ l, (if x.activeOf k then new else x).start = x.start := by
    intro x hx
    split
    · exact (sole x hx ‹_›).symm
    · rfl
  refine ⟨by simpa [replaceActive] using h.bound, ?_, ?_⟩
  · refine List.pairwise_map.mpr (h.ordered.imp_of_mem fun {x y} hx hy le => ?_)
    rw [placed x hx, placed y hy]
    exact le
  · refine List.pairwise_map.mpr (h.active.imp fun {x y} apart => ?_)
    split <;> rename_i hx <;> split <;> rename_i hy
    · obtain ⟨xActive, xKey⟩ := activeOf_iff.mp hx
      obtain ⟨yActive, yKey⟩ := activeOf_iff.mp hy
      exact absurd (xKey.trans yKey.symm) (apart xActive yActive)
    · exact fun _ yActive e => hy (activeOf_iff.mpr ⟨yActive, e.symm.trans key⟩)
    · exact fun xActive _ e => hx (activeOf_iff.mpr ⟨xActive, e.trans key⟩)
    · exact apart

/-- A set keeps the list in order and within its bound, by the cases of R58. -/
theorem set (h : RestrictionsInOrder l) {occupied : Restriction → Bool} {start stop limit : Nat} {m : List Restriction}
    (e : setEntries occupied k start stop limit l = some m) : RestrictionsInOrder m := by
  unfold setEntries at e
  simp only at e
  split at e
  · rename_i none
    split at e <;> cases e
    exact h.insert (fun x hx => by simpa using List.find?_eq_none.mp none x hx) ‹_›
  · rename_i old found
    have mem := List.mem_of_find?_eq_some found
    have active : old.activeOf k = true := List.find?_some found
    split at e
    · split at e <;> cases e
      · exact h.replace mem active rfl ‹_›
      · have shorter : (dropActive k l).length < l.length :=
          List.length_filter_lt_length_iff_exists.mpr ⟨old, mem, by simp [active]⟩
        exact (h.filter _).insert (dropActive_free k l) (shorter.trans_le h.bound)
    · split at e <;> cases e
      exact (h.lift k).insert (liftActive_free k l) (by simpa [liftActive])

/-- A lift keeps the list in order (R59). -/
theorem lifted (h : RestrictionsInOrder l) (occupied : Restriction → Bool) (k : Key) :
    RestrictionsInOrder (liftEntries occupied k l) := by
  unfold liftEntries
  split
  · exact h
  split
  · exact h.lift k
  · exact h.filter _

end RestrictionsInOrder

/-! ### The radio's lists and queues -/

namespace RadioQueues

variable {r : Radio}

theorem withInbox (h : RadioQueues r) {inbox : List Message} (bound : inbox.length ≤ Config.inboxSlots)
    (texts : ∀ m ∈ inbox, m.text.length ≤ 96) : RadioQueues (r.withInbox inbox) :=
  { h with inbox := bound, texts := texts, free := rfl }

/-- A text stored in a free slot (R162). -/
theorem stored (h : RadioQueues r) {m : Message} (text : m.text.length ≤ 96) (room : 0 < r.freeCount) :
    RadioQueues (r.withInbox (r.inbox ++ [m])) := by
  refine h.withInbox ?_ fun x hx => ?_
  · rw [h.free, freeSlots] at room
    rw [List.length_append, List.length_singleton]
    omega
  · rcases List.mem_append.mp hx with hx | hx
    · exact h.texts x hx
    · rw [List.mem_singleton.mp hx]
      exact text

/-- A bulletin entered that is not in the list (R160). -/
theorem entered (h : RadioQueues r) {e : BulletinEntry} (a : Option (Nat × Nat))
    (new : ∀ x ∈ r.recent, ¬(x.station = e.station ∧ x.serial = e.serial)) :
    RadioQueues { r with recent := addRecent e r.recent, lastApplied := a } := by
  have older : (if r.recent.length < Config.recentSlots then r.recent else r.recent.drop 1).Sublist r.recent := by
    split
    · exact .refl _
    · exact List.drop_sublist 1 _
  have room : (if r.recent.length < Config.recentSlots then r.recent else r.recent.drop 1).length <
      Config.recentSlots := by
    have bound := h.recent
    unfold Config.recentSlots at bound ⊢
    split
    · assumption
    · rw [List.length_drop]
      omega
  refine { h with recent := ?_, distinct := ?_ }
  · show (_ ++ [e]).length ≤ _
    rw [List.length_append, List.length_singleton]
    exact room
  · refine List.pairwise_append.mpr ⟨h.distinct.sublist older, List.pairwise_singleton _ _, fun x hx y hy => ?_⟩
    rw [List.mem_singleton.mp hy]
    exact new x (older.subset hx)

/-- The silence timer as a zone and DARK have it (R156). -/
theorem zoned (h : RadioQueues r) (zone : Nat) (dark : Bool) :
    RadioQueues { silenceAfter zone dark r with zone := zone, dark := dark } :=
  { h with
    silence := by simp [silenceAfter, Radio.silence]
    held := fun _ => rfl }

/-- The silence timer started again where it runs (R156, R158). -/
theorem restarted (h : RadioQueues r) : RadioQueues (if r.silenceRunning then r.silence true else r) := by
  split
  · rename_i running
    exact { h with silence := ⟨fun _ => h.silence.mp running, fun _ => rfl⟩, held := fun off => by cases off }
  · exact h

/-- The count of a running silence timer (R156). -/
theorem ticked (h : RadioQueues r) (n : Nat) (running : r.silenceRunning = true) :
    RadioQueues { r with silenceCount := n, silenceTick := 0 } :=
  { h with held := fun off => absurd (running.symm.trans off) (by decide) }

/-- The end of a transmission (R168). -/
theorem sent (h : RadioQueues r) : RadioQueues r.sent := by
  unfold Radio.sent
  split
  · exact h
  split
  · refine { h with acks := ?_ }
    show (if _ then _ else _ : List BulletinEntry).length ≤ _
    split
    · exact (List.drop_sublist 1 _).length_le.trans h.acks
    · exact h.acks
  · exact { h with }

/-- A composition written (R166). -/
theorem composed (h : RadioQueues r) (role : RadioRole) (interval : Nat) :
    RadioQueues (radioComposed role interval r) := by
  cases role with
  | transmit => exact { h with }
  | listen => exact { h with acks := Nat.zero_le _ }

/-- A millisecond (R156, R166, R167). -/
theorem timed (h : RadioQueues r) : RadioQueues r.tick := by
  refine { h with window := fun w hw => ?_ }
  obtain ⟨v, hv, rfl⟩ := Option.map_eq_some_iff.mp hw
  exact h.window v hv

theorem reset (counters : Counters) : RadioQueues { Radio.reset with counters := counters } where
  inbox := Nat.zero_le _
  texts _ hm := absurd hm List.not_mem_nil
  free := rfl
  acks := Nat.zero_le _
  recent := Nat.zero_le _
  distinct := .nil
  window _ h := by cases h
  silence := by simp [Radio.reset]
  held _ := rfl

end RadioQueues

/-! ### The segment table and the record of parameters -/

theorem contiguous_nil : contiguous [] := fun _ _ _ h => by cases h

/-- Segments join where each joins the one before it. -/
theorem contiguous_cons {g : Segment} {l : List Segment} (first : ∀ x, l.head? = some x → x.start = g.start + g.length)
    (rest : contiguous l) : contiguous (g :: l) := by
  rintro (_ | i) x y hx hy
  · cases hx
    exact first y (by rw [List.head?_eq_getElem?]; exact hy)
  · exact rest i x y hx hy

/-- A record that passes its checks is long enough and starts where the one before it ends (R36, R37, R43). -/
theorem recordFault_none {prev : Option Nat} {r : RawSegment} (h : recordFault prev r = none) :
    10 ≤ r.length ∧ ∀ x, prev = some x → r.start = x := by
  unfold recordFault at h
  split_ifs at h with range _ _ joined
  refine ⟨?_, fun x hx => ?_⟩
  · have passed : r.inRange = true := by simpa using range
    simp only [RawSegment.inRange, Bool.and_eq_true, decide_eq_true_eq] at passed
    obtain ⟨⟨⟨⟨⟨⟨⟨_, long⟩, _⟩, _⟩, _⟩, _⟩, _⟩, _⟩ := passed
    exact long
  · subst hx
    have same : x = r.start := by simpa using joined
    exact same.symm

/-- The records of a block that all pass are long enough, join, and go on from the record before them (R37, R43). -/
theorem firstBadRecord_none {i : Nat} {prev : Option Nat} {l : List RawSegment} (h : firstBadRecord i prev l = none) :
    (∀ g ∈ l.map RawSegment.toSegment, 10 ≤ g.length) ∧ contiguous (l.map RawSegment.toSegment) ∧
      ∀ x y, prev = some x → (l.map RawSegment.toSegment).head? = some y → y.start = x := by
  induction l generalizing i prev with
  | nil => exact ⟨fun g hg => absurd hg List.not_mem_nil, contiguous_nil, fun _ _ _ h => by cases h⟩
  | cons r rest ih =>
    unfold firstBadRecord at h
    split at h
    · cases h
    · rename_i good
      obtain ⟨long, start⟩ := recordFault_none good
      obtain ⟨lengths, joined, next⟩ := ih h
      refine ⟨fun g hg => ?_, contiguous_cons (fun x hx => next _ x rfl hx) joined, fun x y hx hy => ?_⟩
      · rcases List.mem_cons.mp hg with rfl | hg
        · exact long
        · exact lengths g hg
      · cases hy
        exact start x hx

namespace StoreTables

variable {x : Store}

/-- A segment's fields replaced, its start and its length kept (R47). -/
theorem segmentPut (h : StoreTables x) {i : Nat} {old g : Segment} (found : x.segments[i]? = some old)
    (start : g.start = old.start) (length : g.length = old.length) (d : Bool) :
    StoreTables { x with segments := x.segments.set i g, differs := d } := by
  have like : ∀ (j : Nat) (y : Segment), (x.segments.set i g)[j]? = some y →
      ∃ z : Segment, x.segments[j]? = some z ∧ y.start = z.start ∧
      y.length = z.length := by
    intro j y hy
    rw [List.getElem?_set] at hy
    split at hy
    · subst j
      split at hy <;> cases hy
      exact ⟨old, found, start, length⟩
    · exact ⟨y, hy, rfl, rfl⟩
  refine { h with segments := ?_, long := fun y hy => ?_, joined := fun j y z hy hz => ?_ }
  · rw [List.length_set]
    exact h.segments
  · obtain ⟨j, hj⟩ := List.getElem?_of_mem hy
    obtain ⟨w, hw, _, len⟩ := like j y hj
    rw [len]
    exact h.long w (List.mem_of_getElem? hw)
  · obtain ⟨v, hv, startY, lenY⟩ := like j y hy
    obtain ⟨w, hw, startZ, _⟩ := like (j + 1) z hz
    rw [startZ, startY, lenY]
    exact h.joined j v w hv hw

theorem reset : StoreTables Store.reset where
  segments := Nat.zero_le _
  long _ hg := absurd hg List.not_mem_nil
  joined := contiguous_nil
  count h := by cases h
  glc := rfl

/-- A load ended: no read is in flight (R45). -/
theorem ended (h : StoreTables x) (r : LoadResult) :
    StoreTables { x with result := r, phase := .done, loader := .idle, differs := false } :=
  { h with count := fun h => by cases h }

/-- A load ended NO_PROFILE leaves the defaults and an empty table (R45). -/
theorem noProfile (x : Store) (f : Option LoadFailure) (r : LoadResult) :
    StoreTables { x with
      lineId := 0, revision := 0, params := Params.default, segments := [], failure := f
      result := r, phase := .done, loader := .idle, differs := false } where
  segments := Nat.zero_le _
  long _ hg := absurd hg List.not_mem_nil
  joined := contiguous_nil
  count h := by cases h
  glc := rfl

end StoreTables

/-- The gradient limits of a record with one field replaced are seven again (R38, R49). -/
theorem withField_glc {id index : Nat} {value : List Byte} {p q : Params} (h : p.glc.length = 7)
    (e : withField id index value p = some q) : q.glc.length = 7 := by
  have single : ∀ v, withSingle id v p = some q → q.glc = p.glc := by
    intro v hv
    unfold withSingle at hv
    split at hv <;> cases hv <;> rfl
  unfold withField at e
  split at e
  · split at e <;> cases e
    rw [List.length_set]
    exact h
  split at e
  · obtain ⟨v, _, rfl⟩ := Option.map_eq_some_iff.mp e
    exact h
  split at e
  · split at e
    · obtain ⟨m, _, rfl⟩ := Option.map_eq_some_iff.mp e
      exact h
    · cases e
  split at e
  · rw [single _ e]
    exact h
  · cases e

end Sys2Proof.Machine
end

section
/-!
What the acts of the rules, the frames and the events do to the tables, the lists and the queues: those that leave the
four blocks go by `TablesFollow.of_keeps`, and the others by the block that they change.
-/

namespace Sys2Proof.Machine

namespace TablesFollow

variable {s t : State}

/-! ### The acts that leave the four blocks -/

theorem quiet (h : TablesFollow s) (store : t.store = s.store) (limits : t.limits = s.limits)
    (radio : t.radio = s.radio) (memory : t.memory = s.memory) : TablesFollow t := by
  rw [tablesFollow_iff] at h ⊢
  rwa [store, limits, radio, memory]

theorem raised (h : TablesFollow s) (e : Event) : TablesFollow (raise e s) :=
  h.of_keeps (Keeps.raise tableBlocks e s (by decide))

theorem raisedIf (h : TablesFollow s) (c : Bool) (e : Event) : TablesFollow (raiseIf c e s) :=
  h.of_keeps (Keeps.raiseIf tableBlocks c e s (by decide))

theorem portPut (h : TablesFollow s) (p : Port) (f : PortRec → PortRec) : TablesFollow (updPort p f s) :=
  h.quiet (by simp) (by simp) (by simp) (by simp)

theorem rowsWritten (h : TablesFollow s) (new : Rows) : TablesFollow (writeRows new s) :=
  h.of_keeps (writeRows_written new s).keeps

theorem holdEnded (h : TablesFollow s) : TablesFollow (endHold s) := by
  unfold endHold
  split
  · exact h.of_keeps (takeMapping_cascade s).keeps
  · exact h

theorem unlatched (h : TablesFollow s) : TablesFollow (clearLatch s) :=
  TablesFollow.of_keeps (s := raise .emergency { s with dem := { s.dem with latch := false } })
    (h.quiet rfl rfl rfl rfl) (refreshDriven_cascade _).keeps

theorem testBegun (h : TablesFollow s) : TablesFollow (beginTest s) := by
  have recorded : TablesFollow (writeRecord (.notRun false) s) :=
    h.quiet (raiseIf_store ..) (raiseIf_limits ..) (raiseIf_radio ..) (raiseIf_memory ..)
  have begun : ∀ {t}, TablesFollow t → TablesFollow (beginStep 1 t) := fun {t} k => k.of_keeps (beginStep_keeps 1 t).1
  exact begun (recorded.quiet rfl rfl rfl rfl)

theorem stepMet (h : TablesFollow s) (n : Nat) : TablesFollow (meetStep n s) := by
  unfold meetStep
  split
  · exact h.of_keeps (beginStep_keeps _ s).1
  · exact h.of_keeps (endTest_keeps _ s).1

theorem faultsSet (h : TablesFollow s) (slow fail : Bool) : TablesFollow (setFaults slow fail s) := by
  unfold setFaults
  split
  · exact h
  · exact TablesFollow.rowsWritten (s := raise .brakeState { s with drive := _ }) (h.quiet rfl rfl rfl rfl) _

theorem alarmSet (h : TablesFollow s) (a : AlarmState) : TablesFollow (setAlarm a s) := by
  obtain ⟨_, _, _, keeps, _⟩ := setAlarm_set a s
  exact h.of_keeps keeps

theorem doorMoved (h : TablesFollow s) (d : DoorId) (f : Door → Door) : TablesFollow (updDoor d f s) :=
  h.of_keeps (updDoor_acted d f s).keeps

theorem doorsPut (h : TablesFollow s) (q : Quad Door) (left right : Bool) : TablesFollow (putDoors q left right s) :=
  h.of_keeps (putDoors_formed q left right s).2.2.2.2.1

theorem telegramHeard (h : TablesFollow s) (p : Port) : TablesFollow (completeTelegram p s) :=
  h.of_keeps (completeTelegram_heard p s).keeps

theorem linkSilent (h : TablesFollow s) (l : LinkPort) : TablesFollow (silenceOn l s) := by
  unfold silenceOn
  split
  · refine TablesFollow.rowsWritten (h.quiet ?_ ?_ ?_ ?_) _ <;> simp
  · exact h

theorem supervised (h : TablesFollow s) : TablesFollow (superviseOnce s) := by
  have cycled : ∀ x, TablesFollow { s with sup := x } := fun _ => h.quiet rfl rfl rfl rfl
  have levelled : ∀ {t} l, TablesFollow t → TablesFollow (putLevel l t) := fun {t} l k =>
    have put : TablesFollow { t with sup := { t.sup with level := l } } := k.quiet rfl rfl rfl rfl
    (put.raisedIf _ _).rowsWritten _
  exact levelled _ (cycled _)

/-! ### The permit -/

theorem permitGiven (h : TablesFollow s) (q : Permit) : TablesFollow (putPermit q s) := by
  have put : TablesFollow { s with limits := { s.limits with permit := some q } } := { h with }
  exact put.raised _

theorem permitDropped (h : TablesFollow s) : TablesFollow (dropPermit s) := by
  have keeps := (dropPermit_keeps s).1
  refine h.permitPut keeps none ?_
  unfold dropPermit
  split
  · rfl
  · rename_i absent
    rw [← Option.not_isSome_iff_eq_none.mp absent]

theorem turned (h : TablesFollow s) (d : Direction) : TablesFollow (changeDirection d s) := by
  have changed := changeDirection_changed d s
  exact h.permitPut changed.keeps _ changed.limits

theorem passed (h : TablesFollow s) (heir : Holder) : TablesFollow (passAuthority heir s) := by
  obtain ⟨passed, keeps, _⟩ := passAuthority_passed heir s
  exact h.permitPut keeps _ passed.limits

theorem modeChanged (h : TablesFollow s) (m : CarMode) : TablesFollow (changeMode m s) := by
  have changed : TablesFollow (raise .mode { s with mode := { s.mode with mode := m } }) := h.quiet rfl rfl rfl rfl
  unfold changeMode
  simp only
  split
  · exact changed.permitDropped
  · exact changed

/-! ### The restrictions and the stops -/

theorem restrictionsPut (h : TablesFollow s) {l : List Restriction} (list : RestrictionsInOrder l) :
    TablesFollow (putRestrictions l s) := by
  have put : TablesFollow { s with limits := { s.limits with restrictions := l } } :=
    { h with restrictions := list.bound, ordered := list.ordered, active := list.active }
  exact put.raisedIf _ _

theorem restrictionSet (h : TablesFollow s) (k : Key) (start stop limit : Nat) :
    TablesFollow (setRestriction k start stop limit s).1 := by
  unfold setRestriction
  split
  · exact h
  · exact h.restrictionsPut (h.restrictionList.set ‹_›)

theorem restrictionLifted (h : TablesFollow s) (k : Key) : TablesFollow (liftRestriction k s) :=
  h.restrictionsPut (h.restrictionList.lifted _ k)

theorem liftedRemoved (h : TablesFollow s) : TablesFollow (removeLifted s) :=
  h.restrictionsPut (h.restrictionList.filter _)

theorem stopsPut (h : TablesFollow s) {l : List StopKind} (length : l.length = 31) : TablesFollow (putStops l s) := by
  have put : TablesFollow { s with limits := { s.limits with stops := l } } := { h with stops := length }
  exact (put.raisedIf _ _).rowsWritten _

theorem stopPut (h : TablesFollow s) (station : Nat) (k : StopKind) : TablesFollow (putStop station k s) :=
  h.stopsPut (by rw [List.length_set]; exact h.stops)

/-! ### The radio -/

theorem radioUpdated (h : TablesFollow s) {f : Radio → Radio} (r : RadioQueues (f s.radio)) :
    TablesFollow (updRadio f s) := by
  obtain ⟨store, list, stops, _, memory⟩ := (tablesFollow_iff s).mp h
  exact (tablesFollow_iff _).mpr ⟨store, list, stops, r, memory⟩

theorem counted (h : TablesFollow s) (k : Counter) : TablesFollow (Machine.count k s) := by
  have raised := count_counted k s
  refine h.radioPut raised.keeps ?_
  rw [raised.rest]
  exact { h.radioQueues with }

theorem coverageFormed (h : TablesFollow s) : TablesFollow (formCoverage s) := by
  obtain ⟨radio, _, keeps, _⟩ := formCoverage_formed s
  refine h.radioPut keeps ?_
  rw [radio]
  exact { h.radioQueues with }

theorem zoneFormed (h : TablesFollow s) : TablesFollow (formZone s) := by
  unfold formZone
  simp only
  split
  · exact h
  · exact ((h.radioUpdated (h.radioQueues.zoned _ _)).raisedIf _ _).coverageFormed

theorem transmissionBegun (h : TablesFollow s) : TablesFollow (beginTransmission s) := by
  unfold beginTransmission
  split
  · split
    · rename_i room
      split
      · exact h
      · refine h.radioUpdated { h.radioQueues with window := fun v hv => ?_ }
        cases hv
        exact room
    · exact h
  · exact h

theorem ackOffered (h : TablesFollow s) (e : BulletinEntry) : TablesFollow (offerAck e s) := by
  unfold offerAck
  split
  · split
    · rename_i room
      refine (h.radioUpdated { h.radioQueues with acks := ?_ }).transmissionBegun
      rw [List.length_append, List.length_singleton]
      exact room
    · exact h.counted _
  · exact h

theorem windowOpened (h : TablesFollow s) : TablesFollow (openWindow s) := by
  unfold openWindow
  split
  · refine (h.radioUpdated { h.radioQueues with window := fun v hv => ?_ }).transmissionBegun
    cases hv
    exact Nat.zero_le _
  · exact h

theorem messageStored (h : TablesFollow s) {m : Message} (text : m.text.length ≤ 96) (room : 0 < s.radio.freeCount) :
    TablesFollow (storeMessage m s) := by
  have stored : RadioQueues { s.radio.withInbox (s.radio.inbox ++ [m]) with
      arrivalCount := (s.radio.arrivalCount + 1) % 256 } := { h.radioQueues.stored text room with }
  exact ((h.radioUpdated stored).raised _).raisedIf _ _

theorem beaconHandled (h : TablesFollow s) (f : FrameHeader) (b : List Byte) : TablesFollow (handleBeacon f b s) := by
  unfold handleBeacon
  split
  · have counted := h.counted .beacons
    have covered := (counted.radioUpdated counted.radioQueues.restarted).coverageFormed
    simp only
    split
    · split
      · exact covered.windowOpened
      · exact covered
    · exact counted
  · exact h

/-! ### The bulletins -/

theorem bulletinApplied (h : TablesFollow s) (k : BulletinKind) (f : FrameHeader) (b : List Byte) :
    TablesFollow (applyBulletin k f b s).1 := by
  cases k with
  | restrictionSet =>
    simp only [applyBulletin, applyRestrictionSet]
    split
    · split
      · exact h.restrictionSet _ _ _ _
      · exact h
    · exact h
  | restrictionLift =>
    simp only [applyBulletin, applyRestrictionLift]
    split
    · exact h.restrictionLifted _
    · exact h
  | permitGrant =>
    simp only [applyBulletin, applyPermitGrant]
    split
    · split
      · exact h
      · exact h
      · split_ifs <;> first | exact h | exact h.permitGiven _
    · exact h
  | permitRevoke =>
    simp only [applyBulletin, applyPermitRevoke]
    split
    · exact h.permitDropped
    · exact h
  | stopOrder =>
    simp only [applyBulletin, applyStopOrder]
    split
    · exact h.stopPut _ _
    split
    · exact h.stopPut _ _
    · exact h
  | stopRelease =>
    simp only [applyBulletin, applyStopRelease]
    split
    · exact h.stopPut _ _
    · exact h
  | text =>
    simp only [applyBulletin, applyText]
    split
    · exact h
    split
    · split
      · exact h.messageStored (List.length_take_le _ _) ‹_›
      · exact h.counted _
    · exact h

/-- No bulletin applied touches the recent bulletin list. -/
theorem applyBulletin_recent (k : BulletinKind) (f : FrameHeader) (b : List Byte) (s : State) :
    (applyBulletin k f b s).1.radio.recent = s.radio.recent := by
  have stopped : ∀ station kind, (putStop station kind s).radio.recent = s.radio.recent := fun station kind =>
    congrArg Radio.recent ((putStop_put station kind s).keeps .radio (by decide))
  have listed : ∀ l, (putRestrictions l s).radio.recent = s.radio.recent := fun l =>
    congrArg Radio.recent (raiseIf_radio ..)
  have set : ∀ key start stop limit, (setRestriction key start stop limit s).1.radio.recent = s.radio.recent := by
    intro key start stop limit
    unfold setRestriction
    split
    · rfl
    · exact listed _
  cases k with
  | restrictionSet =>
    simp only [applyBulletin, applyRestrictionSet]
    split
    · split
      · exact set _ _ _ _
      · rfl
    · rfl
  | restrictionLift =>
    simp only [applyBulletin, applyRestrictionLift]
    split
    · exact listed _
    · rfl
  | permitGrant =>
    simp only [applyBulletin, applyPermitGrant]
    split
    · split
      · rfl
      · rfl
      · split_ifs <;> rfl
    · rfl
  | permitRevoke =>
    simp only [applyBulletin, applyPermitRevoke]
    split
    · exact congrArg Radio.recent ((dropPermit_keeps s).1 .radio (by decide))
    · rfl
  | stopOrder =>
    simp only [applyBulletin, applyStopOrder]
    split
    · exact stopped _ _
    split
    · exact stopped _ _
    · rfl
  | stopRelease =>
    simp only [applyBulletin, applyStopRelease]
    split
    · exact stopped _ _
    · rfl
  | text =>
    simp only [applyBulletin, applyText]
    split
    · rfl
    split
    · split
      · rw [(storeMessage_stored _ s).radio]
      · rw [(count_counted .inboxDrops s).rest]
    · rfl

theorem bulletinHandled (h : TablesFollow s) (k : BulletinKind) (f : FrameHeader) (b : List Byte) :
    TablesFollow (handleBulletin k f b s) := by
  unfold handleBulletin
  simp only
  split
  · exact (h.counted _).ackOffered _
  · rename_i new
    have applied := (h.counted .bulletins).bulletinApplied k f b
    refine (applied.radioUpdated (applied.radioQueues.entered _ fun x hx => ?_)).ackOffered _
    rw [applyBulletin_recent, (count_counted .bulletins s).rest] at hx
    simpa using List.find?_eq_none.mp new x hx

end TablesFollow
end Sys2Proof.Machine
end

section
/-!
Every rule, every event and so every step keeps the tables, the lists and the queues (R36, R37, R43, R56, R71, R156,
R160, R162, R165, R168).
-/

namespace Sys2Proof.Machine

namespace TablesFollow

variable {p : Port} {args : List Byte} {s : State}

/-! ### The store and its memory -/

theorem storeUpdated (h : TablesFollow s) {f : Store → Store} (x : StoreTables (f s.store)) :
    TablesFollow (updStore f s) := by
  obtain ⟨_, list, stops, radio, memory⟩ := (tablesFollow_iff s).mp h
  exact (tablesFollow_iff _).mpr ⟨x, list, stops, radio, memory⟩

theorem memoryPut (h : TablesFollow s) {m : Memory} (wf : Memory.wf m = true) : TablesFollow { s with memory := m } :=
  { h with memory := wf }

/-- A page ends good: its bytes are stored, and the commit goes on or ends (R52, R53). -/
theorem pageEnded (h : TablesFollow s) (page : Nat) : TablesFollow (endPage page s) := by
  have stored : TablesFollow (updStore (fun x => { x with pagesWritten := x.pagesWritten + 1 }) (storePage page s)) :=
    (h.memoryPut (storePage_wf page s h.segments h.memory)).storeUpdated { h.storeTables with }
  unfold endPage
  simp only
  split
  · exact TablesFollow.raised (TablesFollow.storeUpdated (stored.storeUpdated { h.storeTables with })
      { h.storeTables with }) _
  · exact stored.storeUpdated { h.storeTables with }

/-- A page fails (R52, R53). -/
theorem pageFailed (h : TablesFollow s) (page : Nat) : TablesFollow (failPage page s) :=
  ((h.memoryPut (losePage_wf page s h.memory)).storeUpdated { h.storeTables with }).raised _

/-! ### The loads -/

theorem loadEnded {r : LoadResult} {x : Store} {t : State} (h : TablesFollow s) (ended : LoadEnded r x s t)
    (tables : StoreTables x) : TablesFollow t :=
  h.storePut ended.keeps (by rw [ended.store]; exact tables.ended r)

theorem noProfile {b : LoadBlock} {why : LoadReason} {x : Store} {t : State} (h : TablesFollow s)
    (ended : NoProfile b why x s t) : TablesFollow t :=
  h.storePut ended.keeps (by rw [ended.store]; exact .noProfile x _ _)

theorem noSegments {why : LoadReason} {detail : LoadDetail} {x : Store} {t : State} (h : TablesFollow s)
    (ended : NoSegments why detail x s t) (tables : StoreTables x) : TablesFollow t :=
  h.loadEnded ended { tables with }

theorem headerTaken (h : TablesFollow s) (b : List Byte) : TablesFollow (takeHeader b s) := by
  unfold takeHeader
  split
  · exact h.noProfile (endNoProfile_ended _ _ s.store s)
  · simp only
    split
    · exact h.noProfile (endNoProfile_ended _ _ _ s)
    · exact h.storeUpdated { h.storeTables with count := fun read => by cases read }

/-- The segment block is read only where its count is within the table (R43). -/
theorem segmentsBegun {x : Store} (h : TablesFollow s) (tables : StoreTables x) :
    TablesFollow (beginSegments { s with store := x }) := by
  have begun := beginSegments_begun x s
  by_cases fits : 1 ≤ x.headerCount ∧ x.headerCount ≤ 384
  · by_cases within : x.headerSegAddr + 3 + 19 * x.headerCount ≤ 65536
    · have read := begun.read fits.1 fits.2 within
      refine h.storePut read.keeps ?_
      rw [read.store]
      exact { tables with count := fun _ => fits.2 }
    · exact h.noSegments (begun.overflow fits.1 fits.2 (by omega)) { tables with }
  · exact h.noSegments (begun.count (by omega)) { tables with }

theorem readParams_glc {b : List Byte} {q : Params} (e : readParams b = .inr q) : q.glc.length = 7 := by
  unfold readParams at e
  simp only at e
  split at e
  · cases e
  split at e
  · cases e
  split at e
  · cases e
  split at e <;> cases e
  rfl

theorem paramsTaken (h : TablesFollow s) (b : List Byte) : TablesFollow (takeParams b s) := by
  unfold takeParams
  split
  · exact h.segmentsBegun { h.storeTables with }
  · exact h.segmentsBegun { h.storeTables with glc := readParams_glc ‹_› }

/-- A segment block of records that all pass becomes the table (R43). -/
theorem segmentsTaken (h : TablesFollow s) (b : List Byte) (read : s.store.loader = .segmentRead) :
    TablesFollow (takeSegments b s) := by
  unfold takeSegments
  simp only
  split
  · exact h.noSegments (endNoSegments_ended _ _ s.store s) h.storeTables
  split
  · exact h.noSegments (endNoSegments_ended _ _ s.store s) h.storeTables
  split
  · exact h.noSegments (endNoSegments_ended _ _ s.store s) h.storeTables
  · rename_i good
    obtain ⟨long, joined, _⟩ := firstBadRecord_none good
    refine h.loadEnded (endLoad_ended _ _ s) { h.storeTables with segments := ?_, long := long, joined := joined }
    simpa [recordsOf] using h.count read

/-! ### The resets -/

theorem abandonByRestart_wf (h : TablesFollow s) : Memory.wf (abandonByRestart s).memory = true := by
  unfold abandonByRestart
  split
  · exact storePage_wf _ s h.segments h.memory
  · exact losePage_wf _ s h.memory
  · exact h.memory

theorem abandonByPowerOn_wf (h : TablesFollow s) : Memory.wf (abandonByPowerOn s).memory = true := by
  unfold abandonByPowerOn
  split
  · exact losePage_wf _ s h.memory
  · exact losePage_wf _ s h.memory
  · exact h.memory

theorem restarted (h : TablesFollow s) : TablesFollow (restartedState s) :=
  (tablesFollow_iff _).mpr ⟨.reset, tables_reset.restrictionList, tables_reset.stops, .reset _, h.abandonByRestart_wf⟩

theorem powered (h : TablesFollow s) (i : CarInputs) : TablesFollow (poweredState i s) :=
  (tablesFollow_iff _).mpr ⟨.reset, tables_reset.restrictionList, tables_reset.stops, tables_reset.radioQueues,
    h.abandonByPowerOn_wf⟩

/-! ### Motion -/

theorem sampled (h : TablesFollow s) : TablesFollow (sample s) := by
  rw [sample_eq]
  exact ((h.of_keeps (recordFormed_keeps s)).liftedRemoved.zoneFormed).alarmSet _

theorem markFound (h : TablesFollow s) (found : MarkFind) : TablesFollow (answerMark found s) := by
  cases found with
  | nearest m => exact (h.of_keeps ((updOdo_keeps _ s).trans (notice_keeps _ _))).zoneFormed
  | nothing =>
    obtain ⟨noted, radio, _⟩ := unexpectedMark_noted s
    exact h.quiet (noted.keeps .store (by decide)) (noted.keeps .limits (by decide)) radio
      (noted.keeps .memory (by decide))
  | ambiguous => exact h.of_keeps (notice_keeps _ s)

theorem markDetected (h : TablesFollow s) : TablesFollow (detectMark s) := by
  by_cases unknown : s.odo.posState = .unknown
  · rw [detectMark, if_pos unknown]
    exact h.of_keeps (notice_keeps _ s)
  · rw [detectMark_known unknown]
    exact (h.of_keeps (pulsesApplied_moved s).1).markFound _

/-! ### The rules -/

theorem eventSet (h : TablesFollow s) (f : EventSet → PortRec → PortRec) :
    TablesFollow (withEventSet p args f s).1 := by
  unfold withEventSet
  split
  · exact h
  · exact h.portPut _ _

theorem takeAuthority (h : TablesFollow s) : TablesFollow (ruleTakeAuthority p s).1 := by
  unfold ruleTakeAuthority
  split_ifs
  · exact h
  · exact h.quiet rfl rfl rfl rfl
  · exact h
  · exact h
  · exact h
  · exact h.passed _

theorem releaseAuthority (h : TablesFollow s) : TablesFollow (ruleReleaseAuthority p s).1 :=
  asHolder_keeps h fun _ => refuseIf_keeps h fun _ => h.passed _

theorem setDirection (h : TablesFollow s) : TablesFollow (ruleSetDirection p args s).1 := by
  refine asHolder_keeps h fun _ => ?_
  split
  · exact h
  split
  · exact h
  · exact h.turned _

theorem setComposition (h : TablesFollow s) : TablesFollow (ruleSetComposition p args s).1 := by
  have composed : ∀ c, TablesFollow (putComposition c s) := by
    intro c
    have put := putComposition_put c s
    refine h.radioPut put.keeps ?_
    rw [put.radio]
    exact h.radioQueues.composed _ _
  refine asHolder_keeps h fun _ => ?_
  split
  · exact h
  split
  · exact h
  split
  · exact h
  · exact composed _

theorem setPosition (h : TablesFollow s) : TablesFollow (ruleSetPosition p args s).1 := by
  refine asHolder_keeps h fun _ => ?_
  simp only
  split
  · exact h
  split
  · exact h
  · exact (h.of_keeps ((updOdo_keeps _ s).trans (notice_keeps _ _))).zoneFormed

theorem selectMode (h : TablesFollow s) : TablesFollow (ruleSelectMode p args s).1 := by
  refine asHolder_keeps h fun _ => ?_
  split
  · exact h
  split
  · exact h
  split
  · exact h
  split
  · exact h
  split
  · split
    · exact h
    · exact h.modeChanged .line
  · exact h.modeChanged _

theorem restart (h : TablesFollow s) : TablesFollow (ruleRestart p s).1 := by
  unfold ruleRestart
  split_ifs
  · exact h.restarted
  · exact h
  · exact h
  · exact h.restarted

theorem brakeDemand (h : TablesFollow s) : TablesFollow (ruleBrakeDemand p args s).1 :=
  asHolder_keeps h fun _ => (h.rowsWritten _).holdEnded

theorem putEmergency (h : TablesFollow s) (e : Bool) : TablesFollow (putEmergency p e s).1 := by
  unfold Machine.putEmergency
  split
  · exact h
  · exact (h.rowsWritten _).raised _

theorem emergencyReset (h : TablesFollow s) : TablesFollow (ruleEmergencyReset p s).1 := by
  refine asHolder_keeps h fun _ => ?_
  split
  · exact h
  split
  · exact h
  split
  · exact h
  split
  · exact h
  · exact h.unlatched

theorem brakeTestStart (h : TablesFollow s) : TablesFollow (ruleBrakeTestStart p s).1 :=
  asHolder_keeps h fun _ => refuseIf_keeps h fun _ => refuseIf_keeps h fun _ => refuseIf_keeps h fun _ =>
    refuseIf_keeps h fun _ => refuseIf_keeps h fun _ => h.testBegun

theorem brakeTestAbort (h : TablesFollow s) : TablesFollow (ruleBrakeTestAbort p s).1 :=
  asHolder_keeps h fun _ => refuseIf_keeps h fun _ => h.of_keeps (abortTest_cascade _ s).keeps

theorem doorRelease (h : TablesFollow s) : TablesFollow (ruleDoorRelease p args s).1 := by
  have placed : TablesFollow { s with doors := { s.doors with door := placeDoors s } } := h.quiet rfl rfl rfl rfl
  refine asHolder_keeps h fun _ => ?_
  split
  · split
    · exact h
    split
    · exact h
    · unfold tryRelease
      simp only
      split
      · exact placed.doorsPut _ _ _
      · exact placed
  · exact h

theorem doorClose (h : TablesFollow s) : TablesFollow (ruleDoorClose p args s).1 := by
  refine asHolderOrPanel_keeps h ?_
  split
  · exact h
  · exact h.doorsPut _ _ _

theorem doorRetry (h : TablesFollow s) : TablesFollow (ruleDoorRetry p args s).1 := by
  refine asHolderOrPanel_keeps h ?_
  split
  · exact h
  split
  · exact h.doorMoved _ _
  · exact h

theorem askAlarm (h : TablesFollow s) (a : AlarmState) : TablesFollow (askAlarm a p s).1 :=
  asHolder_keeps h fun _ => refuseIf_keeps h fun _ => h.alarmSet _

theorem restrictionAdd (h : TablesFollow s) : TablesFollow (ruleRestrictionAdd p args s).1 := by
  refine asHolder_keeps h fun _ => ?_
  simp only
  split
  · exact h.restrictionSet _ _ _ _
  · exact h

theorem restrictionLift (h : TablesFollow s) : TablesFollow (ruleRestrictionLift p args s).1 := by
  refine asHolder_keeps h fun _ => ?_
  split
  · exact h
  · exact h.restrictionLifted _

theorem permitEnter (h : TablesFollow s) : TablesFollow (rulePermitEnter p args s).1 :=
  asHolder_keeps h fun _ => refuseIf_keeps h fun _ => refuseIf_keeps h fun _ => refuseIf_keeps h fun _ =>
    refuseIf_keeps h fun _ => refuseIf_keeps h fun _ => h.permitGiven _

theorem permitClear (h : TablesFollow s) : TablesFollow (rulePermitClear p s).1 :=
  asHolder_keeps h fun _ => refuseIf_keeps h fun _ => h.permitDropped

theorem radioStopOverride (h : TablesFollow s) : TablesFollow (ruleRadioStopOverride p s).1 :=
  asHolder_keeps h fun _ => refuseIf_keeps h fun _ => refuseIf_keeps h fun _ =>
    h.stopsPut (by rw [List.length_map]; exact h.stops)

theorem readTable (h : TablesFollow s) : TablesFollow (ruleReadTable p args s).1 := by
  unfold ruleReadTable
  split
  · exact h
  split
  · exact h
  · exact h

theorem inboxTake (h : TablesFollow s) : TablesFollow (ruleInboxTake s).1 := by
  unfold ruleInboxTake
  split
  · exact h
  · exact h.radioUpdated (h.radioQueues.withInbox ((List.length_erase_le).trans h.inbox)
      fun m hm => h.texts m (List.mem_of_mem_erase hm))

theorem counterDecrement (h : TablesFollow s) : TablesFollow (ruleCounterDecrement args s).1 := by
  have put : ∀ c : Radio → Counters, TablesFollow (updRadio (fun r => { r with counters := c r }) s) := fun _ =>
    h.radioUpdated { h.radioQueues with }
  unfold ruleCounterDecrement
  split
  · exact h
  · exact put fun r => r.counters.put _ _

theorem profileWrite (h : TablesFollow s) : TablesFollow (ruleProfileWrite p args s).1 := by
  refine asHolder_keeps h fun _ => ?_
  simp only
  split
  · exact h
  rename_i old found
  split
  · exact h
  · have put := h.storeTables.segmentPut (g := (rawFields old.start old.length (args.drop 2)).toSegment) found
      rfl rfl true
    exact editing_keeps h ((h.storeUpdated put).raised _)

theorem parameterWrite (h : TablesFollow s) : TablesFollow (ruleParameterWrite p args s).1 := by
  refine asHolder_keeps h fun _ => ?_
  simp only
  split
  · exact h
  rename_i replaced
  split
  · exact h
  · have put := h.storeUpdated (f := fun x => { x with params := _, differs := true })
      { h.storeTables with glc := withField_glc h.glc replaced }
    exact editing_keeps h ((put.raised .profile).of_keeps (updOdo_keeps _ _))

theorem commitBegun (h : TablesFollow s) : TablesFollow (beginCommit s) := by
  unfold beginCommit
  exact h.storeUpdated { h.storeTables with }

theorem profileCommit (h : TablesFollow s) : TablesFollow (ruleProfileCommit p s).1 :=
  asHolder_keeps h fun _ => refuseIf_keeps h fun _ => refuseIf_keeps h fun _ => refuseIf_keeps h fun _ =>
    refuseIf_keeps h fun _ => h.commitBegun

/-- Every rule keeps the tables, the lists and the queues (R174). -/
theorem rule {code : Byte} {n : Nat} {r : Rule} (hr : ruleOf code p args = some (n, r)) (h : TablesFollow s) :
    TablesFollow (r s).1 := by
  unfold ruleOf at hr
  split at hr <;> cases hr
  · exact h
  · exact h.readTable
  · exact h
  · exact h.eventSet _
  · exact h.eventSet _
  · exact h.eventSet _
  · exact h.takeAuthority
  · exact h.releaseAuthority
  · exact h.setDirection
  · exact h.setComposition
  · exact h.setPosition
  · exact h.selectMode
  · exact h.restart
  · exact h.brakeDemand
  · exact h.putEmergency true
  · exact h.putEmergency false
  · exact h.emergencyReset
  · exact h.brakeTestStart
  · exact h.brakeTestAbort
  · exact h.doorRelease
  · exact h.doorClose
  · exact h.doorRetry
  · exact h.askAlarm .confirmed
  · exact h.askAlarm .overridden
  · exact h.restrictionAdd
  · exact h.restrictionLift
  · exact h.permitEnter
  · exact h.permitClear
  · exact h.radioStopOverride
  · exact h.inboxTake
  · exact h.counterDecrement
  · exact h.profileWrite
  · exact h.parameterWrite
  · exact h.profileCommit

theorem telegram (h : TablesFollow s) (p : Port) (code : Byte) (args : List Byte) :
    TablesFollow (takeTelegram p code args s) :=
  takeTelegram_keeps (h.telegramHeard p) (fun _ k => k.portPut _ _) (fun _ k => k.portPut _ _)
    fun _ _ _ hr _ k => k.rule hr

theorem byteReceived (h : TablesFollow s) (p : Port) (b : Byte) : TablesFollow (receiveByte p b s) := by
  unfold receiveByte
  split
  · split
    · exact h.portPut _ _
    · exact h
  · split
    · exact h.portPut _ _
    · exact h.portPut _ _
  · simp only
    split
    · exact h.portPut _ _
    · unfold endTelegram
      split
      · split
        · exact h.telegram _ _ _
        · exact h.portPut _ _
      · exact h.portPut _ _

/-! ### The frames -/

theorem frameReceived (h : TablesFollow s) (f : Frame) : TablesFollow (receiveFrame f s) := by
  unfold receiveFrame
  split
  · exact h
  split
  · exact h.counted _
  split
  · exact h.counted _
  · exact h.counted _
  · unfold handleGood
    split
    · exact (h.counted _).beaconHandled _ _
    split
    · exact (h.counted _).bulletinHandled _ _ _
    · exact h.counted _

theorem bytesReceived (h : TablesFollow s) (b : List Byte) : TablesFollow (receiveBytes b s) := by
  unfold receiveBytes
  split_ifs
  · exact h
  · exact h.counted _
  · exact h.frameReceived _
  · exact h.counted _
  · exact h.counted _

/-! ### The readings of the brakes -/

theorem driveUpdated (h : TablesFollow s) (f : BrakeDrive → BrakeDrive) : TablesFollow (updDrive f s) :=
  h.quiet rfl rfl rfl rfl

theorem serviceRead (h : TablesFollow s) (v : Nat) : TablesFollow (useServiceReading v s) := by
  have read := h.driveUpdated fun d => { d with serviceReading := some v }
  unfold useServiceReading
  simp only
  split
  · split
    · exact read.stepMet _
    · exact read
  · exact read.driveUpdated _

theorem releaseRead (h : TablesFollow s) (v : Nat) : TablesFollow (useReleaseReading v s) := by
  have read := h.driveUpdated fun d => { d with releaseReading := some v }
  have formed : ∀ {t}, TablesFollow t → TablesFollow (formSpringStatus v (clearStuck v t)) := by
    intro t k
    refine TablesFollow.raisedIf (TablesFollow.driveUpdated ?_ _) _ _
    unfold clearStuck
    split
    · exact (k.driveUpdated _).raisedIf _ _
    · exact k
  unfold useReleaseReading
  refine formed ?_
  split
  · split
    · exact read.stepMet _
    · exact read
  · exact read.driveUpdated _

/-! ### The commands and the steps -/

theorem timed (h : TablesFollow s) : TablesFollow (advance s) := by
  have reading : s.store.loader.tick = .segmentRead → s.store.loader = .segmentRead := by
    unfold LoaderOp.tick
    split
    · intro x
      cases x
    · exact id
  obtain ⟨store, list, stops, radio, memory⟩ := (tablesFollow_iff s).mp h
  exact (tablesFollow_iff _).mpr ⟨{ store with count := fun x => store.count (reading x) }, list, stops, radio.timed,
    memory⟩

/-- The commands that are no telegram and no frame keep the tables, the lists and the queues. -/
theorem event {i : Instr} (ht : telegramOf i = none) (hf : frameOf i = none) (h : TablesFollow s) :
    ∃ t, exec i s = .next t ∧ TablesFollow t := by
  cases i <;> first | (cases ht; done) | (cases hf; done) | refine ⟨_, rfl, ?_⟩
  case powerOn => exact h.powered _
  case telegramCrcError => exact h.portPut _ _
  case framingError => exact h.portPut _ _
  case gapTimeExpiry => exact h.portPut _ _
  case answerSent => exact h.portPut _ _
  case linkSilenceExpiry => exact h.linkSilent _
  case tachometerPulse =>
    have counted : ∀ x forward, TablesFollow (countPulse x forward s) := fun x forward => by
      cases x <;> exact h.quiet rfl rfl rfl rfl
    simp only
    split
    · exact (counted _ _).of_keeps (endStandstill_ended _).keeps
    · exact counted _ _
  case samplingExpiry => exact h.sampled
  case standstillBegin =>
    split
    · exact h.of_keeps (beginStandstill_begun s).keeps
    · exact h
  case pinionFault =>
    split
    · exact (h.of_keeps (updOdo_keeps _ s)).of_keeps (setPinionFault_acted _).keeps
    · exact h
  case trackMarkDetection => exact h.markDetected
  case supervisionCycle => exact h.supervised
  case periodStart => exact h.driveUpdated _
  case servicePressureReading => exact h.serviceRead _
  case releasePressureReading => exact h.releaseRead _
  case serviceCheckTimerExpiry =>
    split
    · exact (h.driveUpdated _).faultsSet _ _
    · exact h
  case releaseCheckTimerExpiry =>
    split
    · exact ((h.driveUpdated _).driveUpdated _).raisedIf _ _
    · exact h
  case applyCheckTimerExpiry =>
    split
    · exact (h.driveUpdated _).faultsSet _ _
    · exact h
  case brakeTestStepTimerExpiry =>
    split
    · split
      · exact h.of_keeps (endTest_keeps _ s).1
      · exact h
    · exact h
  case doorTimerExpiry => exact h.doorMoved _ _
  case doorLockedInput => exact (h.raisedIf _ _).doorMoved _ _
  case doorClosedInput => exact (h.raisedIf _ _).doorMoved _ _
  case doorOpenLimitInput => exact h.doorMoved _ _
  case doorObstacleInput => exact h.doorMoved _ _
  case passengerButton => exact h.doorMoved _ _
  case isolationSwitch => exact h.doorMoved _ _
  case handleChange =>
    split
    · exact h
    · have handled : ∀ q, TablesFollow { s with dem := { s.dem with handles := q } } := fun _ => h.quiet rfl rfl rfl rfl
      exact ((handled _).raised .alarm).alarmSet _
  case discardedFrame =>
    split
    · exact h
    · exact h.bytesReceived _
  case transmissionEnd =>
    split
    · exact (h.radioUpdated h.radioQueues.sent).transmissionBegun
    · exact h
  case windowTimerExpiry =>
    split
    · exact h.radioUpdated { h.radioQueues with window := fun _ closed => by cases closed }
    · exact h
  case silenceTimerTick =>
    split
    · rename_i up
      have running : s.radio.silenceRunning = true := ((Bool.and_eq_true _ _).mp up).1
      exact (h.radioUpdated (h.radioQueues.ticked _ running)).coverageFormed
    · exact h
  case reportTimerExpiry =>
    split
    · exact (h.radioUpdated { h.radioQueues with }).transmissionBegun
    · exact h
  case loaderStatusAnswer =>
    split
    · exact h.storeUpdated { h.storeTables with count := fun read => by cases read }
    · exact h
  case loaderBusyTimeout =>
    split
    · exact h.noProfile (endNoProfile_ended _ _ s.store s)
    · exact h
  case headerReadEnd =>
    split
    · exact h.headerTaken _
    · exact h
  case parameterBlockReadEnd =>
    split
    · exact h.paramsTaken _
    · exact h
  case segmentBlockReadEnd =>
    split
    · rename_i awaited
      exact h.segmentsTaken _ awaited.1
    · exact h
  case commitStatusAnswer =>
    split
    · split
      · exact h
      · exact h.pageEnded _
    · exact h
  case pageTimerExpiry =>
    split
    · split
      · exact h.pageFailed _
      · exact h
    · exact h
  case telegramByteArrival => exact h.byteReceived _ _
  case commitTransferEnd =>
    split
    · exact h.storeUpdated { h.storeTables with }
    · exact h.storeUpdated { h.storeTables with }
    · exact h

theorem step {t : State} (h : TablesFollow s) (hs : step s = .next t) : TablesFollow t :=
  step_keeps (fun _ k => k.timed.quiet rfl rfl rfl rfl) (fun _ _ k => k.quiet rfl rfl rfl rfl)
    (fun _ _ _ k he => exec_keeps (fun p code args _ l => l.telegram p code args) (fun f _ l => l.frameReceived f)
      (fun _ _ _ ht hf l hx => by
        obtain ⟨w, e, hw⟩ := l.event ht hf
        rw [e] at hx
        cases hx
        exact hw) k he) h hs

end TablesFollow

/-- Settles O59: the telegrams, the frames, the events and the passing of time each keep the tables, the lists and the
queues. -/
theorem everyStepKeepsTheTables : Obligations.EveryStepKeepsTheTables := by
  unfold Obligations.EveryStepKeepsTheTables
  intro s t h hs
  exact h.step hs

end Sys2Proof.Machine
end

section
/-!
PROFILE COMMIT and the arrivals of a commit: the last tests of a command of the store each said once
(`editing_tests`), and each page's end by the commit's own state (R47, R49, R51 to R53).
-/

namespace Sys2Proof.Machine

variable {p : Port} {s : State} {failed : State → Bool} {answer : Reply} {rule : Rule}

theorem refuseIf_met (h : failed s = true) : refuseIf failed answer rule s = (s, answer) := if_pos h

theorem refuseIf_unmet (h : failed s = false) : refuseIf failed answer rule s = rule s :=
  if_neg (by rw [h]; exact Bool.false_ne_true)

theorem notMode_completeTelegram (m : CarMode) (p : Port) (s : State) :
    notMode m (completeTelegram p s) = notMode m s := by
  unfold notMode
  rw [(completeTelegram_mode p s).1]

theorem committing_completeTelegram (p : Port) (s : State) : committing (completeTelegram p s) = committing s := by
  unfold committing
  rw [completeTelegram_store]

theorem notMode_eq_true {m : CarMode} : notMode m s = true ↔ s.mode.mode ≠ m := by simp [notMode]

theorem committing_eq_true : committing s = true ↔ s.store.commit ≠ .idle := by
  rw [← Bool.not_eq_false, committing_eq_false]

/-- The three tests of a command of the store, met in their order (R47, R49, R51). -/
structure StoreTests (p : Port) (s : State) (rule : Rule) : Prop where
  mode : s.mode.mode ≠ .shunt → editing rule (completeTelegram p s) = (completeTelegram p s, plainReply .wrongMode)
  moves : s.mode.mode = .shunt → s.odo.standstill = false →
    editing rule (completeTelegram p s) = (completeTelegram p s, plainReply .notStandstill)
  busy : s.mode.mode = .shunt → s.odo.standstill = true → s.store.commit ≠ .idle →
    editing rule (completeTelegram p s) = (completeTelegram p s, plainReply .busy)
  done : s.mode.mode = .shunt → s.odo.standstill = true → s.store.commit = .idle →
    editing rule (completeTelegram p s) = rule (completeTelegram p s)

theorem editing_tests (p : Port) (s : State) (rule : Rule) : StoreTests p s rule := by
  have inMode : s.mode.mode = .shunt → notMode .shunt (completeTelegram p s) = false := fun h => by
    rw [notMode_completeTelegram, notMode_eq_false, h]
  have still : s.odo.standstill = true → moving (completeTelegram p s) = false := fun h => by
    rw [moving_completeTelegram, h]; rfl
  refine ⟨fun h => refuseIf_met ?_, fun hm h => ?_, fun hm hs h => ?_, fun hm hs h => ?_⟩
  · rwa [notMode_completeTelegram, notMode_eq_true]
  · refine (refuseIf_unmet (inMode hm)).trans (refuseIf_met ?_)
    rw [moving_completeTelegram, h]; rfl
  · refine (refuseIf_unmet (inMode hm)).trans ((refuseIf_unmet (still hs)).trans (refuseIf_met ?_))
    rwa [committing_completeTelegram, committing_eq_true]
  · refine (refuseIf_unmet (inMode hm)).trans ((refuseIf_unmet (still hs)).trans (refuseIf_unmet ?_))
    rwa [committing_completeTelegram, committing_eq_false]

theorem CommitState.timeUp_iff {c : CommitState} :
    c.timeUp = true ↔ ∃ page n, (c = .writing page (.program n) ∨ c = .writing page (.poll n)) ∧ 25 ≤ n := by
  unfold CommitState.timeUp Config.memoryBusyLimit
  constructor
  · intro up
    split at up
    · exact ⟨_, _, .inl rfl, of_decide_eq_true up⟩
    · exact ⟨_, _, .inr rfl, of_decide_eq_true up⟩
    · cases up
  · rintro ⟨page, n, rfl | rfl, up⟩ <;> exact decide_eq_true up

/-- PROFILE COMMIT as the holder's command (R51). -/
theorem ruleProfileCommit_holder (h : isHolder p s = true) : ruleProfileCommit p s =
    editing (refuseIf (fun s => s.store.lineId = 0) (conditionReply .noLineId)
      fun s => (beginCommit s, plainReply .accepted)) s := asHolder_holder _ h

/-- The pages of a commit: six besides the fewest that carry the segment block (R40, R51). -/
theorem commitPages_bounds (n : Nat) :
    32 * (commitPages n - 6) ≥ 3 + 19 * n ∧ 32 * (commitPages n - 7) < 3 + 19 * n := by
  unfold commitPages segmentPages segmentBlockLength
  omega

/-- What the end of a page does (R52, R53). -/
structure PageEnded (page : Nat) (s t : State) : Prop where
  keeps : Keeps storeless s t
  ports : PortsKeep [.profile] none s t
  memory : t.memory = putBytes (pageAddress s.store page) (pageBytes s.store page) s.memory
  next : page < s.store.pagesAll → t.store = { s.store with
    commit := .writing (page + 1) .writeEnable, pagesWritten := s.store.pagesWritten + 1 }
  last : s.store.pagesAll ≤ page → raisedAll .profile t ∧ t.store = { s.store with
    commit := .idle, pagesWritten := s.store.pagesWritten + 1, lastCommit := .committed
    revision := (s.store.revision + 1) % 65536, differs := false }

theorem endPage_ended (page : Nat) (s : State) : PageEnded page s (endPage page s) := by
  unfold endPage
  simp only
  split
  · rename_i last
    exact ⟨fun b hb => by cases b <;> first | rfl | exact absurd hb (by decide), .raise_of .profile rfl (by decide),
      rfl, fun more => absurd more (Nat.not_lt.mpr last), fun _ => ⟨raisedAll_raise _ _, rfl⟩⟩
  · rename_i more
    exact ⟨fun b hb => by cases b <;> first | rfl | exact absurd hb (by decide), .of_eq rfl, rfl,
      fun _ => rfl, fun last => absurd last more⟩

theorem failPage_keeps (page : Nat) (s : State) : Keeps storeless s (failPage page s) ∧
    PortsKeep [.profile] none s (failPage page s) :=
  ⟨fun b hb => by cases b <;> first | rfl | exact absurd hb (by decide), .raise_of .profile rfl (by decide)⟩

theorem updStore_keepsRest (f : Store → Store) (s : State) : Keeps (.memory :: .ports :: storeless) s (updStore f s) :=
  fun b hb => by cases b <;> first | rfl | exact absurd hb (by decide)

/-- Settles O33: the command by its tests (`editing_tests`), and each arrival by the commit's state. -/
theorem commitsWritePageByPage : Obligations.CommitsWritePageByPage := by
  refine ⟨fun p s ready holder => ⟨_, request_ready 0x62 [] 0 _ ready rfl, ?_⟩, fun s => ⟨?_, fun status => ?_, ?_⟩⟩
  · have tests := editing_tests p s (refuseIf (fun s => s.store.lineId = 0) (conditionReply .noLineId)
      fun s => (beginCommit s, plainReply .accepted))
    rw [ruleProfileCommit_holder (by rwa [isHolder_completeTelegram])]
    refine ⟨fun hm => .of_refuse (tests.mode hm), fun hm => ⟨fun hs => .of_refuse (tests.moves hm hs),
      fun hs hc => .of_refuse (tests.busy hm hs hc), fun hs hc none => .of_refuse ?_, fun hs hc some => ?_⟩⟩
    · refine (tests.done hm hs hc).trans (refuseIf_met ?_)
      rw [completeTelegram_store, decide_eq_true_iff]
      exact none
    · rw [tests.done hm hs hc, refuseIf_unmet (by rw [completeTelegram_store]; exact decide_eq_false some)]
      let begun : State × Reply := (beginCommit (completeTelegram p s), plainReply .accepted)
      have store : (holdAnswer p 0x62 begun).store = { s.store with
          commit := .writing 1 .writeEnable, pagesWritten := 0, pagesAll := commitPages s.store.segments.length } := by
        rw [holdAnswer_store, ← completeTelegram_store p s]; rfl
      refine ⟨.of_rule (r := begun) (by decide)
        (fun b hb => by cases b <;> first | rfl | exact absurd hb (by decide)) (.of_eq rfl), ?_⟩
      rw [store]
      exact ⟨rfl, commitPages_bounds _⟩
  · refine ⟨_, rfl, ?_⟩
    split
    · exact ⟨updStore_keepsRest _ s, by simp [*]⟩
    · exact ⟨updStore_keepsRest _ s, by simp [*]⟩
    · exact ⟨.refl _ s, rfl⟩
  · refine ⟨_, rfl, ?_⟩
    split
    · rename_i page n polled
      split
      · rename_i busy
        exact ⟨.refl _ s, .refl _ _ s, fun _ _ _ free => absurd busy (by rw [memoryBusy, free]; decide), fun _ => rfl⟩
      · rename_i free
        have ended := endPage_ended page s
        refine ⟨ended.keeps, ended.ports, fun page' n' found _ => ?_, ?_⟩
        · cases polled.symm.trans found
          exact ⟨ended.memory, ended.next, ended.last⟩
        · rintro (busy | other)
          · exact absurd busy free
          · exact absurd polled (other _ _)
    · rename_i other
      exact ⟨.refl _ s, .refl _ _ s, fun _ _ polled => absurd polled (other _ _), fun _ => rfl⟩
  · refine ⟨_, rfl, ?_⟩
    have early : (∀ page n, s.store.commit = .writing page (.program n) ∨ s.store.commit = .writing page (.poll n) →
        n < 25) → s.store.commit.timeUp ≠ true := by
      rintro before up
      obtain ⟨page, n, found, late⟩ := CommitState.timeUp_iff.mp up
      exact absurd late (Nat.not_le.mpr (before page n found))
    split
    · rename_i page phase writing
      split
      · rename_i up
        refine ⟨(failPage_keeps page s).1, (failPage_keeps page s).2, fun page' n' found _ => ?_,
          fun before => absurd up (early before)⟩
        obtain rfl : page = page' := by
          rcases found with h | h <;> cases writing.symm.trans h <;> rfl
        exact ⟨rfl, raisedAll_raise _ _, rfl⟩
      · rename_i before
        exact ⟨.refl _ s, .refl _ _ s,
          fun page' n found late => absurd (CommitState.timeUp_iff.mpr ⟨page', n, found, late⟩) before, fun _ => rfl⟩
    · rename_i idle
      exact ⟨.refl _ s, .refl _ _ s, fun _ _ found _ => absurd found (by simp [idle]), fun _ => rfl⟩

end Sys2Proof.Machine
end

section
/-!
A segment in its record: the fields that its record carries (`carried`), read back from its bytes
(`rawSegment_bytes`), the segment that they give (`carried_toSegment`), and the checks that they meet
(`recordFault_carried`) (R43, Formats).
-/

namespace Sys2Proof.Machine

/-- A signed field of two bytes is the unsigned field of its two's complement (R184). -/
theorem intField_two {v : Int} (low : -32768 ≤ v) (high : v ≤ 32767) :
    ∃ w, w < 65536 ∧ intField 2 v = natField 2 w ∧ (if w < 32768 then (w : Int) else (w : Int) - 65536) = v := by
  by_cases sign : 0 ≤ v
  · refine ⟨v.toNat, by omega, if_pos ⟨sign, by simp; omega⟩, ?_⟩
    rw [if_pos (by omega)]
    omega
  · refine ⟨(v + 65536).toNat, by omega, ?_, ?_⟩
    · unfold intField
      rw [if_neg (by omega), if_pos ⟨by omega, by simp; omega⟩]
      norm_num
    · rw [if_neg (by omega)]
      omega

/-- A signed two-byte field at the front is read back. -/
theorem signed16_intField {v : Int} (l : List Byte) (low : -32768 ≤ v) (high : v ≤ 32767) :
    signed16 (intField 2 v ++ l) 0 = v := by
  obtain ⟨w, small, bytes, value⟩ := intField_two low high
  unfold signed16
  rwa [bytes, word16_natField w l small]

/-- The side byte and the two offset fields that a platform's record carries, absent FF (Formats). -/
def platformCodes : Option Platform → Nat × Nat × Nat
  | none => (255, 65535, 65535)
  | some q => (q.side.code.toNat, q.fromOffset, q.toOffset)

/-- The fields that a segment's record carries (Formats). -/
def carried (g : Segment) : RawSegment where
  start := g.start
  length := g.length
  gradient := g.gradient
  kind := g.kind.code.toNat
  lineLimit := g.lineLimit
  zone := g.zone
  flags := g.dark.toNat + 2 * g.noStop.toNat
  side := (platformCodes g.platform).1
  fromOffset := (platformCodes g.platform).2.1
  toOffset := (platformCodes g.platform).2.2
  mark := g.mark.getD 65535

theorem platformField_eq (p : Option Platform) : platformField p =
    BitVec.ofNat 8 (platformCodes p).1 :: (natField 2 (platformCodes p).2.1 ++ natField 2 (platformCodes p).2.2) := by
  cases p with
  | none => decide
  | some q => simp [platformField, platformCodes]

theorem optField_two (m : Option Nat) : optField 2 m = natField 2 (m.getD 65535) := by
  cases m with
  | none => decide
  | some v => rfl

theorem setField_two (b c : Bool) : setField [b, c] = [BitVec.ofNat 8 (b.toNat + 2 * c.toNat)] := by
  cases b <;> cases c <;> rfl

/-- The bytes of a segment's record after its start and its length (Formats). -/
def fieldBytes (g : Segment) : List Byte :=
  intField 2 g.gradient ++ ([g.kind.code] ++ (natField 2 g.lineLimit ++ (natField 1 g.zone ++
    (setField [g.dark, g.noStop] ++ (platformField g.platform ++ optField 2 g.mark)))))

theorem segmentBytes_eq (g : Segment) :
    segmentBytes g = natField 3 g.start ++ (natField 2 g.length ++ fieldBytes g) := by
  simp only [segmentBytes, fieldBytes, List.append_assoc]

theorem segmentBytes_drop (g : Segment) : (segmentBytes g).drop 5 = fieldBytes g := by
  rw [segmentBytes_eq, ← List.append_assoc]
  exact List.drop_left' (by simp only [List.length_append, natField_length])

theorem intField_length (width : Nat) (v : Int) : (intField width v).length = width := by
  unfold intField
  split_ifs <;> simp only [natField_length, List.length_map, List.length_range]

theorem fieldBytes_length (g : Segment) : (fieldBytes g).length = 14 := by
  simp only [fieldBytes, setField_two, platformField_eq, optField_two, List.length_append, List.length_cons,
    List.length_nil, natField_length, intField_length]

theorem segmentBytes_length (g : Segment) : (segmentBytes g).length = 19 := by
  simp only [segmentBytes_eq, List.length_append, natField_length, fieldBytes_length]

theorem platformCodes_bounds {p : Option Platform}
    (h : ∀ q, p = some q → q.fromOffset < 65536 ∧ q.toOffset < 65536) :
    (platformCodes p).1 < 256 ∧ (platformCodes p).2.1 < 65536 ∧ (platformCodes p).2.2 < 65536 := by
  cases p with
  | none => decide
  | some q => exact ⟨q.side.code.isLt, h q rfl⟩

/-- The fields of a record are read back from its bytes, whatever start and length stand with them. -/
theorem rawFields_fieldBytes {g : Segment} (h : SegmentFits g) (start length : Nat) :
    rawFields start length (fieldBytes g) = { carried g with start := start, length := length } := by
  obtain ⟨low, high, limit, zone, platform, mark⟩ := h
  obtain ⟨w, small, gradient, value⟩ := intField_two low high
  obtain ⟨side, fromOffset, toOffset⟩ := platformCodes_bounds platform
  have mark : g.mark.getD 65535 < 65536 := by
    cases e : g.mark with
    | none => decide
    | some m => exact (mark m e).trans (by decide)
  have flags : g.dark.toNat + 2 * g.noStop.toNat < 256 := by cases g.dark <;> cases g.noStop <;> decide
  have byte : ∀ n, n < 256 → (BitVec.ofNat 8 n).toNat = n := fun n hn => by
    rw [BitVec.toNat_ofNat, Nat.mod_eq_of_lt hn]
  simp only [fieldBytes, gradient, setField_two, platformField_eq, optField_two, natField_one _ zone,
    natField_two _ small, natField_two _ limit, natField_two _ fromOffset, natField_two _ toOffset, natField_two _ mark,
    List.cons_append, List.nil_append]
  simp only [rawFields, carried, signed16, word16_succ, byteAt_succ, word16_zero, byteAt_zero, word16_bytes _ small,
    word16_bytes _ limit, word16_bytes _ fromOffset, word16_bytes _ toOffset, word16_bytes _ mark, byte _ zone,
    byte _ flags, byte _ side, value]

/-- A record is read back from its bytes (Formats). -/
theorem rawSegment_bytes {g : Segment} (start : g.start < 16777216) (length : g.length < 65536) (h : SegmentFits g) :
    rawSegment (segmentBytes g) = carried g := by
  have first : word24 (segmentBytes g) 0 = g.start := by rw [segmentBytes_eq, word24_natField _ _ start]
  have second : word16 (segmentBytes g) 3 = g.length := by
    rw [segmentBytes_eq, word16_after_three _ _ 0 start, word16_natField _ _ length]
  rw [rawSegment, first, second, segmentBytes_drop, rawFields_fieldBytes h]
  rfl

theorem segKindArg_code (k : SegKind) : segKindArg k.code.toNat = some k := by cases k <;> rfl

theorem platformSideArg_code (x : PlatformSide) : platformSideArg x.code.toNat = some x := by cases x <;> rfl

theorem carried_platform (g : Segment) : (carried g).platform = g.platform := by
  unfold RawSegment.platform carried
  cases g.platform with
  | none => rfl
  | some q => simp only [platformCodes, platformSideArg_code, Option.map_some]

theorem carried_markOffset {g : Segment} (h : SegmentFits g) : (carried g).markOffset = g.mark := by
  obtain ⟨_, _, _, _, _, mark⟩ := h
  unfold RawSegment.markOffset carried
  cases e : g.mark with
  | none => rfl
  | some m => exact if_neg (mark m e).ne

/-- The segment that a record's fields give is the segment that they carry (R36, Formats). -/
theorem carried_toSegment {g : Segment} (h : SegmentFits g) : (carried g).toSegment = g := by
  have low : ∀ b c : Bool, decide ((b.toNat + 2 * c.toNat) % 2 = 1) = b := by decide
  have high : ∀ b c : Bool, decide ((b.toNat + 2 * c.toNat) / 2 % 2 = 1) = c := by decide
  have dark : decide ((carried g).flags % 2 = 1) = g.dark := low ..
  have noStop : decide ((carried g).flags / 2 % 2 = 1) = g.noStop := high ..
  unfold RawSegment.toSegment
  rw [carried_platform, carried_markOffset h, dark, noStop, show segKindArg (carried g).kind = _ from segKindArg_code _]
  rfl

/-- The greatest gradient of a kind (R36). -/
def steepest : SegKind → Nat
  | .rack => 300
  | .adhesion => 80

/-- The values of a segment within their ranges (R43). -/
abbrev ValuesInRange (g : Segment) : Prop :=
  g.start ≤ 200000 ∧ 10 ≤ g.length ∧ g.length ≤ 20000 ∧ g.lineLimit ≤ 1200 ∧ g.zone ≤ 31

/-- The RANGE check of a segment's own record is that of its values: its codes are codes of their fields (R43). -/
theorem carried_inRange (g : Segment) : (carried g).inRange = true ↔ ValuesInRange g := by
  have flags : g.dark.toNat + 2 * g.noStop.toNat ≤ 3 := by cases g.dark <;> cases g.noStop <;> decide
  have code : ∀ x : PlatformSide, x.code.toNat ≤ 2 := fun x => by cases x <;> decide
  have side : (platformCodes g.platform).1 = 255 ∨ (platformCodes g.platform).1 ≤ 2 := by
    cases g.platform with
    | none => exact .inl rfl
    | some q => exact .inr (code q.side)
  simp only [RawSegment.inRange, Bool.and_eq_true, Bool.or_eq_true, decide_eq_true_eq]
  simp only [carried, segKindArg_code, Config.lineEnd, Config.maxSpeed, Option.isSome_some, flags, side, and_true,
    and_assoc, ValuesInRange]

theorem carried_gradient (g : Segment) :
    (-(gradientBound (carried g).kind) ≤ g.gradient ∧ g.gradient ≤ gradientBound (carried g).kind) ↔
      g.gradient.natAbs ≤ steepest g.kind := by
  have bound : gradientBound (carried g).kind = steepest g.kind := by
    unfold carried gradientBound steepest
    cases g.kind <;> rfl
  rw [bound]
  omega

theorem segmentGood_iff (g : Segment) : SegmentGood g ↔
    ValuesInRange g ∧
      g.gradient.natAbs ≤ steepest g.kind ∧ g.start + g.length ≤ 200000 ∧
      (∀ p, g.platform = some p → p.fromOffset < p.toOffset ∧ p.toOffset ≤ g.length) ∧
      ∀ m, g.mark = some m → m < g.length := by
  unfold SegmentGood steepest ValuesInRange
  cases g.kind <;> simp only [and_assoc]

/-- A platform whose offsets are out of their order or beyond the segment's end (R43). -/
def offEnds (length : Nat) (p : Platform) : Bool := decide (p.toOffset ≤ p.fromOffset) || decide (length < p.toOffset)

/-- The checks of a segment's own record, in their order (R43). -/
theorem recordFault_carried (prev : Option Nat) {g : Segment} (h : SegmentFits g) : recordFault prev (carried g) =
    if ¬ValuesInRange g then some .range
    else if steepest g.kind < g.gradient.natAbs then some .gradient
    else if 200000 < g.start + g.length then some .extent
    else if prev.any (· ≠ g.start) then some .contiguity
    else if g.platform.any (offEnds g.length) then some .platform
    else if g.mark.any fun m => g.length ≤ m then some .markOffset
    else none := by
  have range : (!(carried g).inRange) = true ↔ ¬ValuesInRange g := by
    rw [Bool.not_eq_true', ← Bool.not_eq_true, carried_inRange]
  have gradient : (!(decide (-(gradientBound (carried g).kind) ≤ (carried g).gradient) &&
      decide ((carried g).gradient ≤ gradientBound (carried g).kind))) = true ↔
        steepest g.kind < g.gradient.natAbs := by
    rw [Bool.not_eq_true', ← Bool.not_eq_true, Bool.and_eq_true, decide_eq_true_iff, decide_eq_true_iff, ← not_le]
    exact not_congr (carried_gradient g)
  have platform : (fun p : Platform =>
      !(decide (p.fromOffset < p.toOffset) && decide (p.toOffset ≤ (carried g).length))) = offEnds g.length := by
    funext p
    rw [Bool.not_and, ← decide_not, ← decide_not]
    simp only [not_lt, not_le, carried, offEnds]
  unfold recordFault
  rw [carried_platform, carried_markOffset h, platform]
  simp only [range, gradient]
  rfl

/-- A record goes on from the record before it, whose up-line end is `prev` (R37). -/
def Follows (prev : Option Nat) (g : Segment) : Prop := ∀ x, prev = some x → x = g.start

theorem any_ne_iff (prev : Option Nat) (g : Segment) : prev.any (· ≠ g.start) = true ↔ ¬Follows prev g := by
  cases prev <;> simp [Follows]

theorem recordFault_good {prev : Option Nat} {g : Segment} (h : SegmentFits g) (good : SegmentGood g)
    (follows : Follows prev g) : recordFault prev (carried g) = none := by
  obtain ⟨range, gradient, extent, platform, mark⟩ := (segmentGood_iff g).mp good
  rw [recordFault_carried prev h, if_neg (not_not.mpr range), if_neg (by omega), if_neg (by omega),
    if_neg (by rw [any_ne_iff]; exact not_not.mpr follows), if_neg, if_neg]
  · cases e : g.mark with
    | none => simp
    | some m => simpa using mark m e
  · cases e : g.platform with
    | none => simp
    | some q => simpa [offEnds] using platform q e

theorem recordFault_bad {prev : Option Nat} {g : Segment} (h : SegmentFits g)
    (bad : ¬(SegmentGood g ∧ Follows prev g)) : recordFault prev (carried g) = some (reasonOf prev g) := by
  have reason : reasonOf prev g =
      if ¬ValuesInRange g then .range
      else if steepest g.kind < g.gradient.natAbs then .gradient
      else if 200000 < g.start + g.length then .extent
      else if prev.any (· ≠ g.start) then .contiguity
      else if g.platform.any (offEnds g.length) then .platform
      else .markOffset := by
    unfold reasonOf steepest
    cases g.kind <;> rfl
  rw [recordFault_carried prev h, reason]
  split_ifs with range gradient extent joined platform mark
  any_goals rfl
  rw [any_ne_iff, not_not] at joined
  refine absurd ⟨(segmentGood_iff g).mpr ⟨range, by omega, by omega, fun q e => ?_, fun m e => ?_⟩, joined⟩ bad
  · simpa [e, offEnds] using platform
  · simpa [e] using mark

end Sys2Proof.Machine
end

section
/-!
PROFILE WRITE and PARAMETER WRITE: the edit of the store that both make after the tests of R47 and R49
(`editing_judged`), and each one's fields read from its bytes.
-/

namespace Sys2Proof.Machine

variable {p : Port} {s : State}

/-- What an edit that passes its tests does: the store, the odometry and the PROFILE event (R47, R49, R50). -/
structure Edited (x : Store) (o : Odometry) (s t : State) : Prop where
  store : t.store = x
  odo : t.odo = o
  event : raisedAll .profile t
  keeps : Keeps [.mode, .limits, .sup, .dem, .drive, .doors, .radio, .memory, .pending] s t
  ports : PortsKeep [.profile] none s t

theorem edit_edited (f : Store → Store) (s : State) :
    Edited { f s.store with differs := true } s.odo s (edit f s) :=
  ⟨rfl, rfl, raisedAll_raise _ _, fun b hb => by cases b <;> first | rfl | exact absurd hb (by decide),
    .raise_of .profile rfl (by decide)⟩

/-- The odometry written after an edit (R50). -/
theorem Edited.withOdo {x : Store} {o : Odometry} {t : State} (h : Edited x o s t) (f : Odometry → Odometry) :
    Edited x (f o) s (updOdo f t) := by
  have keeps : Keeps [.mode, .limits, .sup, .dem, .drive, .doors, .radio, .memory, .pending] t (updOdo f t) :=
    fun b hb => by cases b <;> first | rfl | exact absurd hb (by decide)
  exact ⟨h.store, congrArg f h.odo, h.event, h.keeps.trans keeps, h.ports.trans (.of_eq rfl)⟩

/-- An edit is judged by the tests of R47 and R49, and then made. -/
theorem editing_judged {code : Byte} {f : State → State} {x : Store} {o : Odometry}
    (h : Edited x o (completeTelegram p s) (f (completeTelegram p s))) : EditJudged p code x o s
      (holdAnswer p code (editing (fun s => (f s, okReply [])) (completeTelegram p s))) := by
  have tests := editing_tests p s fun s => (f s, okReply [])
  refine ⟨fun hm => .of_refuse (tests.mode hm), fun hm hs => .of_refuse (tests.moves hm hs),
    fun hm hs hc => .of_refuse (tests.busy hm hs hc), fun hm hs hc => ?_⟩
  rw [tests.done hm hs hc]
  let done : State × Reply := (f (completeTelegram p s), okReply [])
  exact ⟨.of_rule (r := done) (by decide) h.keeps (h.ports.mono (fun _ => id) (.inl rfl)),
    (holdAnswer_store p code done).trans h.store, (holdAnswer_odo p code done).trans h.odo,
    raisedAll.hold (r := done) h.event p _⟩

/-- The edit that PROFILE WRITE makes (R47). -/
def segmentEdit (i : Nat) (g : Segment) (s : State) : State :=
  edit (fun x => { x with segments := x.segments.set i g }) s

/-- The edit that PARAMETER WRITE makes (R49, R50). -/
def paramEdit (id : Nat) (q : Params) (s : State) : State :=
  updOdo (fun o => if isGeometry id then { o with remainder := 0 } else o) (edit (fun x => { x with params := q }) s)

theorem paramEdit_edited (id : Nat) (q : Params) (s : State) : Edited { s.store with params := q, differs := true }
    (if id ≤ 2 then { s.odo with remainder := 0 } else s.odo) s (paramEdit id q s) := by
  have edited := (edit_edited (fun x => { x with params := q }) s).withOdo
    fun o => if isGeometry id then { o with remainder := 0 } else o
  unfold paramEdit
  simpa only [isGeometry, decide_eq_true_eq] using edited

section
variable {i : Nat} {g : Segment}

/-- PROFILE WRITE from the holder, of no segment (R47). -/
theorem ruleProfileWrite_unknown (h : isHolder p s = true) (hi : i < 65536) (none : s.store.segments[i]? = none) :
    ruleProfileWrite p (natField 2 i ++ fieldBytes g) s = (s, plainReply .notFound) := by
  rw [ruleProfileWrite, asHolder_holder _ h, word16_natField i _ hi]
  simp only [none]

/-- PROFILE WRITE from the holder, of a segment of the start and the length given (R47). -/
theorem ruleProfileWrite_found {old : Segment} (h : isHolder p s = true) (hi : i < 65536)
    (found : s.store.segments[i]? = some old) (fits : SegmentFits g) (start : g.start = old.start)
    (length : g.length = old.length) : ruleProfileWrite p (natField 2 i ++ fieldBytes g) s =
      if (recordFault none (carried g)).isSome then (s, plainReply .badArgument)
      else editing (fun s => (segmentEdit i g s, okReply [])) s := by
  have drop : (natField 2 i ++ fieldBytes g).drop 2 = fieldBytes g := List.drop_left' (natField_length 2 i)
  have record : rawFields old.start old.length (fieldBytes g) = carried g := by
    rw [rawFields_fieldBytes fits, ← start, ← length]
    rfl
  rw [ruleProfileWrite, asHolder_holder _ h, word16_natField i _ hi, drop]
  simp only [found, record, carried_toSegment fits]
  rfl

end

section
variable {id index a b c d : Byte}

/-- PARAMETER WRITE from the holder, of no field (R49). -/
theorem ruleParameterWrite_unknown (h : isHolder p s = true)
    (none : withField id.toNat index.toNat [a, b, c, d] s.store.params = none) :
    ruleParameterWrite p [id, index, a, b, c, d] s = (s, plainReply .badArgument) := by
  have read : withField (byteAt [id, index, a, b, c, d] 0) (byteAt [id, index, a, b, c, d] 1)
      ([id, index, a, b, c, d].drop 2) s.store.params = Option.none := none
  rw [ruleParameterWrite, asHolder_holder _ h]
  simp only [read]

/-- PARAMETER WRITE from the holder, of a field that the record `q` carries (R49, R50). -/
theorem ruleParameterWrite_found {q : Params} (h : isHolder p s = true)
    (found : withField id.toNat index.toNat [a, b, c, d] s.store.params = some q) :
    ruleParameterWrite p [id, index, a, b, c, d] s =
      if !q.valid then (s, plainReply .badArgument)
      else editing (fun s => (paramEdit id.toNat q s, okReply [])) s := by
  have read : withField (byteAt [id, index, a, b, c, d] 0) (byteAt [id, index, a, b, c, d] 1)
      ([id, index, a, b, c, d].drop 2) s.store.params = some q := found
  rw [ruleParameterWrite, asHolder_holder _ h]
  simp only [read]
  rfl

end

/-- Settles O32: each command's own tests, then its edit (`editing_judged`). -/
theorem editsReplaceOneRecord : Obligations.EditsReplaceOneRecord := by
  refine ⟨fun p i g s ready holder hi fits => ?_, fun p id index a b c d s ready holder =>
    ⟨_, request_ready 0x61 [id, index, a, b, c, d] 6 _ ready rfl, ?_⟩⟩ <;>
    have asked : isHolder p (completeTelegram p s) = true := by rwa [isHolder_completeTelegram]
  · rw [segmentBytes_drop]
    have length : (natField 2 i ++ fieldBytes g).length = 16 := by
      rw [List.length_append, natField_length, fieldBytes_length]
    refine ⟨_, request_ready 0x60 _ 16 _ ready length, ?_⟩
    rw [← completeTelegram_store p s]
    refine ⟨fun none => .of_refuse (ruleProfileWrite_unknown asked hi none), fun old found start long => ?_⟩
    have rule := ruleProfileWrite_found asked hi found fits start long
    refine ⟨fun bad => .of_refuse (rule.trans (if_pos ?_)), fun good => ?_⟩
    · rw [recordFault_bad fits fun h => bad h.1]
      rfl
    · have fault := recordFault_good (prev := none) fits good fun _ h => by cases h
      rw [rule.trans (if_neg (by rw [fault]; decide)), ← completeTelegram_odo p s]
      exact editing_judged (edit_edited (fun x => { x with segments := x.segments.set i g }) (completeTelegram p s))
  · rw [← completeTelegram_store p s, ← completeTelegram_odo p s]
    refine ⟨fun none => .of_refuse (ruleParameterWrite_unknown asked none), fun q found => ?_⟩
    have rule := ruleParameterWrite_found asked found
    refine ⟨fun bad => .of_refuse (rule.trans (if_pos (by rw [bad]; rfl))), fun good => ?_⟩
    rw [rule.trans (if_neg (by rw [good]; decide))]
    exact editing_judged (paramEdit_edited id.toNat q (completeTelegram p s))

end Sys2Proof.Machine
end

section
/-!
The parameter block: the record's fields read back from their bytes (`paramsOf_paramBytes`), what is wrong with a block
by its tests in their order (`readParams_block`), and the block taken (R38, R42, R44).
-/

namespace Sys2Proof.Machine

/-! ### Records of one width, one after another -/

theorem byteAt_drop (l : List Byte) (n i : Nat) : byteAt (l.drop n) i = byteAt l (n + i) := by
  simp only [byteAt, List.getD_eq_getElem?_getD, List.getElem?_drop]

theorem word16_drop (l : List Byte) (n : Nat) : word16 (l.drop n) 0 = word16 l n := by
  simp only [word16, byteAt_drop, Nat.add_zero, Nat.zero_add]

theorem doorMapOf_drop (l : List Byte) (n : Nat) : doorMapOf (l.drop n) 0 = doorMapOf l n := by
  simp only [doorMapOf, signed16, word16, byteAt_drop, Nat.add_zero, Nat.zero_add, Nat.add_assoc]

theorem doorCodesGood_drop (l : List Byte) (n : Nat) : doorCodesGood (l.drop n) 0 = doorCodesGood l n := by
  simp only [doorCodesGood, byteAt_drop, Nat.add_zero, Nat.zero_add]

/-- A record of a list of them, all of one width, stands where its index says. -/
theorem drop_flatMap {α : Type} {f : α → List Byte} {w : Nat} (width : ∀ x, (f x).length = w) {l : List α} {i : Nat}
    {x : α} (h : l[i]? = some x) (m : List Byte) : ∃ rest, (l.flatMap f ++ m).drop (w * i) = f x ++ rest := by
  induction l generalizing i with
  | nil => cases h
  | cons y l ih =>
    cases i with
    | zero =>
      obtain rfl : y = x := by simpa using h
      exact ⟨l.flatMap f ++ m, by simp⟩
    | succ i =>
      obtain ⟨rest, e⟩ := ih (by simpa using h)
      refine ⟨rest, ?_⟩
      have front : (f y).length = w := width y
      rw [List.flatMap_cons, List.append_assoc, Nat.mul_succ, Nat.add_comm, ← List.drop_drop, ← front, List.drop_left,
        front, e]

/-- A record read as far as its own bytes reach. -/
theorem byteAt_left {l : List Byte} (m : List Byte) {i : Nat} (h : i < l.length) : byteAt (l ++ m) i = byteAt l i := by
  unfold byteAt
  rw [List.getD_append _ _ _ _ h]

theorem word16_left {l : List Byte} (m : List Byte) {i : Nat} (h : i + 1 < l.length) :
    word16 (l ++ m) i = word16 l i := by
  rw [word16, byteAt_left m (by omega), byteAt_left m h, word16]

/-- The record read from a block is that of its first 100 bytes (Formats). -/
theorem paramsOf_left {body : List Byte} (m : List Byte) (h : body.length = 100) :
    paramsOf (body ++ m) = paramsOf body := by
  simp (disch := omega) only [paramsOf, valveOf, doorMapOf, signed16, word16_left, byteAt_left]

theorem doorCodesGood_left {body : List Byte} (m : List Byte) {i : Nat} (h : i + 3 < body.length) :
    doorCodesGood (body ++ m) i = doorCodesGood body i := by
  rw [doorCodesGood, byteAt_left m (by omega), byteAt_left m h, doorCodesGood]

/-! ### The record's own bytes -/

theorem doorMapBytes_length (e : DoorMapEntry) : (doorMapBytes e).length = 4 := by
  simp only [doorMapBytes, boolField, List.length_cons, List.length_append, List.length_nil, intField_length]

/-- The fields of the record before the door map, each of two bytes (R38). -/
def firstWords (p : Params) : List Nat :=
  [p.toothPitch, p.axlePulses, p.wheelCircumference, p.odoErrorRack, p.odoErrorAdhesion, p.aRack,
    p.aRackDeg, p.aAdh, p.aAdhDeg, p.tB, p.mSb, p.mEb, p.vMax, p.shuntLimit, p.radioLossLimit,
    p.cabPermitLimit, p.creepLimit] ++ p.glc ++ [p.pLo, p.pHi, p.valve.d1.1, p.valve.d1.2, p.valve.d2.1, p.valve.d2.2,
    p.valve.d3.1, p.valve.d3.2, p.valve.d4.1, p.valve.d4.2, p.tResp, p.doorMoveTime, p.doorWarningTime, p.obstacleLimit]

/-- The fields of the record after the door map (R38). -/
def lastWords (p : Params) : List Nat := [p.tSilence, p.tLost, p.reportInterval, p.inboxLow]

theorem paramBytes_eq (p : Params) : paramBytes p = (firstWords p).flatMap (natField 2) ++
    (p.doorMap.toList.flatMap doorMapBytes ++ (lastWords p).flatMap (natField 2)) := by
  simp [paramBytes, firstWords, lastWords, Quad.toList, valveBytes]

theorem flatMap_length {α : Type} {f : α → List Byte} {w : Nat} (width : ∀ x, (f x).length = w) (l : List α) :
    (l.flatMap f).length = w * l.length := by
  rw [List.length_flatMap, List.map_congr_left fun x _ => width x]
  simp [Nat.mul_comm]

section
variable {p : Params}

theorem firstWords_length (h : p.glc.length = 7) : (firstWords p).length = 38 := by simp [firstWords, h]

theorem paramBytes_length (h : p.glc.length = 7) : (paramBytes p).length = 100 := by
  simp only [paramBytes_eq, List.length_append, flatMap_length (natField_length 2), flatMap_length doorMapBytes_length,
    firstWords_length h, lastWords, Quad.toList, List.length_cons, List.length_nil]

/-- The door map entries in the record's bytes (Formats). -/
theorem paramBytes_doors (h : p.glc.length = 7) {i : Nat} {e : DoorMapEntry} (he : p.doorMap.toList[i]? = some e) :
    ∃ rest, (paramBytes p).drop (76 + 4 * i) = doorMapBytes e ++ rest := by
  have front : ((firstWords p).flatMap (natField 2)).length = 76 := by
    rw [flatMap_length (natField_length 2), firstWords_length h]
  obtain ⟨rest, e⟩ := drop_flatMap doorMapBytes_length he ((lastWords p).flatMap (natField 2))
  exact ⟨rest, by rw [← List.drop_drop, paramBytes_eq, List.drop_left' front, e]⟩

/-- A field before the door map in the record's bytes (Formats). -/
theorem paramBytes_first (small : ∀ v ∈ firstWords p, v < 65536) {i v : Nat} (hv : (firstWords p)[i]? = some v) :
    word16 (paramBytes p) (2 * i) = v := by
  obtain ⟨rest, e⟩ := drop_flatMap (natField_length 2) hv
    (p.doorMap.toList.flatMap doorMapBytes ++ (lastWords p).flatMap (natField 2))
  rw [← word16_drop, paramBytes_eq, e, word16_natField v _ (small v (List.mem_of_getElem? hv))]

/-- A field after the door map in the record's bytes (Formats). -/
theorem paramBytes_last (h : p.glc.length = 7) (small : ∀ v ∈ lastWords p, v < 65536) {i v : Nat}
    (hv : (lastWords p)[i]? = some v) : word16 (paramBytes p) (92 + 2 * i) = v := by
  have front : ((firstWords p).flatMap (natField 2) ++ p.doorMap.toList.flatMap doorMapBytes).length = 92 := by
    rw [List.length_append, flatMap_length (natField_length 2), flatMap_length doorMapBytes_length,
      firstWords_length h, Quad.toList]
    rfl
  obtain ⟨rest, e⟩ := drop_flatMap (natField_length 2) hv []
  rw [List.append_nil] at e
  rw [← word16_drop, paramBytes_eq, ← List.append_assoc, ← List.drop_drop, List.drop_left' front, e,
    word16_natField v _ (small v (List.mem_of_getElem? hv))]

end

/-! ### A door map entry -/

theorem carSideArg_code (x : CarSide) : carSideArg x.code.toNat = some x := by cases x <;> rfl

theorem doorMapBytes_append (e : DoorMapEntry) (rest : List Byte) :
    doorMapBytes e ++ rest = e.side.code :: (intField 2 e.offset ++ (boolField e.enabled ++ rest)) := by
  simp only [doorMapBytes, List.cons_append, List.append_assoc]

/-- The code bytes of an entry's own bytes. -/
theorem doorMapBytes_codes (e : DoorMapEntry) (rest : List Byte) :
    byteAt (doorMapBytes e ++ rest) 0 = e.side.code.toNat ∧ byteAt (doorMapBytes e ++ rest) 3 = e.enabled.toNat := by
  refine ⟨rfl, ?_⟩
  rw [doorMapBytes_append, byteAt_succ, byteAt_append (intField_length 2 _) 0]
  cases e.enabled <;> rfl

theorem doorMapOf_bytes {e : DoorMapEntry} (rest : List Byte) (low : -150 ≤ e.offset) (high : e.offset ≤ 150) :
    doorMapOf (doorMapBytes e ++ rest) 0 = e := by
  obtain ⟨side, flag⟩ := doorMapBytes_codes e rest
  have offset : signed16 (doorMapBytes e ++ rest) 1 = e.offset := by
    rw [doorMapBytes_append]
    exact signed16_intField _ (by omega) (by omega)
  have enabled : decide (e.enabled.toNat = 1) = e.enabled := by cases e.enabled <;> rfl
  rw [doorMapOf, side, carSideArg_code, offset, flag, enabled, Option.getD_some]

/-- The codes of an entry's own bytes are codes of its fields. -/
theorem doorCodesGood_bytes (e : DoorMapEntry) (rest : List Byte) :
    doorCodesGood (doorMapBytes e ++ rest) 0 = true := by
  obtain ⟨side, flag⟩ := doorMapBytes_codes e rest
  rw [doorCodesGood, side, carSideArg_code, flag]
  cases e.enabled <;> rfl

/-! ### A record that passes its ranges -/

theorem firstOutOfRange_none {p : Params} {codes : Quad Bool} :
    firstOutOfRange p codes = none ↔ ∀ t ∈ rangeTests p codes, t.2.2 = true := by
  unfold firstOutOfRange
  simp [List.find?_eq_none]

/-- The first test that fails is the first field out of its range (R42). -/
theorem firstOutOfRange_found {p : Params} {codes : Quad Bool} {before after : List (Nat × Nat × Bool)}
    {x : Nat × Nat × Bool} (tests : rangeTests p codes = before ++ x :: after) (passed : ∀ y ∈ before, y.2.2 = true)
    (fails : x.2.2 = false) : firstOutOfRange p codes = some (x.1, x.2.1) := by
  have none : before.find? (fun t => !t.2.2) = none := by
    rw [List.find?_eq_none]
    intro y hy
    rw [passed y hy]
    decide
  rw [firstOutOfRange, tests, List.find?_append, none, Option.none_or, List.find?_cons_of_pos (by rw [fails]; rfl)]
  rfl

section
variable {p : Params}

theorem Params.valid_iff : p.valid = true ↔
    (∀ t ∈ rangeTests p (Quad.all true), t.2.2 = true) ∧ brokenConstraint p = none := by
  rw [Params.valid, Bool.and_eq_true, Option.isNone_iff_eq_none, Option.isNone_iff_eq_none, firstOutOfRange_none]

/-- The values of a record that passes its ranges: each field of two bytes fits, and each door map offset (R38). -/
theorem words_of_valid (h : p.valid = true) : (∀ v ∈ firstWords p, v < 65536) ∧ (∀ v ∈ lastWords p, v < 65536) ∧
    ∀ e ∈ p.doorMap.toList, -150 ≤ e.offset ∧ e.offset ≤ 150 := by
  obtain ⟨tests, _⟩ := Params.valid_iff.mp h
  have limits : ∀ v ∈ p.glc, v < 65536 := by
    intro v hv
    obtain ⟨i, hi, rfl⟩ := List.getElem_of_mem hv
    have test : (17, i + 1, within 0 1200 p.glc[i]) ∈ rangeTests p (Quad.all true) := by
      refine List.mem_append_left _ (List.mem_append_right _ ?_)
      exact List.mem_mapIdx.mpr ⟨i, hi, rfl⟩
    have bound := tests _ test
    simp only [within, Bool.and_eq_true, decide_eq_true_eq] at bound
    omega
  simp only [rangeTests, List.forall_mem_append, List.forall_mem_cons, within, valveInRange, doorMapInRange,
    Bool.and_eq_true, decide_eq_true_eq] at tests
  simp only [firstWords, lastWords, Quad.toList, List.forall_mem_append, List.forall_mem_cons, List.not_mem_nil,
    false_implies, implies_true, iff_true_intro limits, and_true]
  omega

/-- The record is read back from its own bytes (Formats). -/
theorem paramsOf_paramBytes (h : p.valid = true) (seven : p.glc.length = 7) : paramsOf (paramBytes p) = p := by
  obtain ⟨small, smallLast, offsets⟩ := words_of_valid h
  have first : ∀ n v, n = 2 * (n / 2) → (firstWords p)[n / 2]? = some v → word16 (paramBytes p) n = v :=
    fun n v even hv => even ▸ paramBytes_first small hv
  have last : ∀ n v, n = 92 + 2 * ((n - 92) / 2) → (lastWords p)[(n - 92) / 2]? = some v →
      word16 (paramBytes p) n = v := fun n v even hv => even ▸ paramBytes_last seven smallLast hv
  have door : ∀ n e, n = 76 + 4 * ((n - 76) / 4) → p.doorMap.toList[(n - 76) / 4]? = some e →
      doorMapOf (paramBytes p) n = e := by
    intro n e fourth he
    obtain ⟨rest, bytes⟩ := paramBytes_doors seven he
    obtain ⟨low, high⟩ := offsets e (List.mem_of_getElem? he)
    rw [fourth, ← doorMapOf_drop, bytes, doorMapOf_bytes rest low high]
  clear small smallLast offsets h
  generalize paramBytes p = b at first last door
  obtain ⟨_, _, _, _, _, _, _, _, _, _, _, _, _, _, _, _, _, glc, _, _, ⟨⟨_, _⟩, ⟨_, _⟩, ⟨_, _⟩, ⟨_, _⟩⟩, _, _, _, _,
    ⟨_, _, _, _⟩⟩ := p
  match glc, seven with
  | [_, _, _, _, _, _, _], _ =>
  unfold paramsOf valveOf
  congr
  any_goals exact first _ _ rfl rfl
  any_goals exact last _ _ rfl rfl
  all_goals exact door _ _ rfl rfl

/-- The codes of the record's own bytes are codes of their fields. -/
theorem doorCodesGood_paramBytes (seven : p.glc.length = 7) (i : Nat) (h : i < 4) :
    doorCodesGood (paramBytes p) (76 + 4 * i) = true := by
  have bound : i < p.doorMap.toList.length := h
  obtain ⟨rest, bytes⟩ := paramBytes_doors seven (List.getElem?_eq_getElem bound)
  rw [← doorCodesGood_drop, bytes, doorCodesGood_bytes]

end

/-! ### The block taken -/

/-- Whether the code bytes of each door map entry are codes of their fields. -/
def doorCodes (body : List Byte) : Quad Bool :=
  ⟨doorCodesGood body 76, doorCodesGood body 80, doorCodesGood body 84, doorCodesGood body 88⟩

theorem doorCodes_paramBytes {p : Params} (seven : p.glc.length = 7) : doorCodes (paramBytes p) = Quad.all true := by
  have codes := doorCodesGood_paramBytes seven
  rw [doorCodes, codes 0 (by decide), codes 1 (by decide), codes 2 (by decide), codes 3 (by decide), Quad.all]

/-- What is wrong with a parameter block, by its mark, its CRC and the record of its first 100 bytes (R42). -/
theorem readParams_block (mark : Byte) {body : List Byte} (rest : List Byte) (c d : Byte) {b : List Byte}
    (h : body.length = 100) (hb : b = mark :: body ++ rest ++ [c, d]) :
    (mark ≠ 0x69 → readParams b = .inl (.validMark, .none)) ∧
      (mark = 0x69 → [c, d] ≠ crcField (mark :: body ++ rest) → readParams b = .inl (.blockCrc, .none)) ∧
      (mark = 0x69 → [c, d] = crcField (mark :: body ++ rest) →
        (∀ f, firstOutOfRange (paramsOf body) (doorCodes body) = some f →
          readParams b = .inl (.range, .field f.1 f.2)) ∧
        (firstOutOfRange (paramsOf body) (doorCodes body) = none →
          (∀ n, brokenConstraint (paramsOf body) = some n → readParams b = .inl (.constraint, .constraint n)) ∧
          (brokenConstraint (paramsOf body) = none → readParams b = .inr (paramsOf body)))) := by
  subst hb
  have m : byteAt (mark :: body ++ rest ++ [c, d]) 0 ≠ 0x69 ↔ mark ≠ 0x69 := not_congr (byte_eq_iff (by decide))
  have crc : (!crcGood (mark :: body ++ rest ++ [c, d])) = true ↔ [c, d] ≠ crcField (mark :: body ++ rest) := by
    rw [Bool.not_eq_true', ← Bool.not_eq_true, crcGood_append]
  have drop : (mark :: body ++ rest ++ [c, d]).drop 1 = body ++ (rest ++ [c, d]) := by
    simp only [List.cons_append, List.drop_succ_cons, List.drop_zero, List.append_assoc]
  have code : ∀ i, i + 3 < body.length → doorCodesGood (body ++ (rest ++ [c, d])) i = doorCodesGood body i :=
    fun i hi => doorCodesGood_left _ hi
  have codes : (⟨doorCodesGood (body ++ (rest ++ [c, d])) 76, doorCodesGood (body ++ (rest ++ [c, d])) 80,
      doorCodesGood (body ++ (rest ++ [c, d])) 84, doorCodesGood (body ++ (rest ++ [c, d])) 88⟩ : Quad Bool) =
      doorCodes body := by
    rw [code 76 (by omega), code 80 (by omega), code 84 (by omega), code 88 (by omega), doorCodes]
  unfold readParams
  simp only [drop, codes, paramsOf_left _ h, m, crc]
  refine ⟨fun hm => if_pos hm, fun hm bad => by rw [if_neg (not_not.mpr hm), if_pos bad], fun hm good => ?_⟩
  rw [if_neg (not_not.mpr hm), if_neg (not_not.mpr good)]
  exact ⟨fun f found => by rw [found], fun none => ⟨fun n broken => by rw [none, broken],
    fun whole => by rw [none, whole]⟩⟩

theorem takeParams_failed {b : List Byte} {s : State} {f : LoadReason × LoadDetail} (h : readParams b = .inl f) :
    SegmentsBegun { s.store with failure := some ⟨.parameters, f.1, f.2⟩ } s (takeParams b s) := by
  rw [takeParams, h]
  exact beginSegments_begun _ s

theorem takeParams_read {b : List Byte} {s : State} {p : Params} (h : readParams b = .inr p) :
    SegmentsBegun { s.store with params := p, paramSource := .memory } s (takeParams b s) := by
  rw [takeParams, h]
  exact beginSegments_begun _ s

end Sys2Proof.Machine
end

section
/-!
The segment block: its records read from their bytes (`recordsOf_segments`), the first of them that fails
(`firstBadRecord_append`), and the block taken (R37, R43, R45).
-/

namespace Sys2Proof.Machine

/-! ### Segments that join -/

theorem contiguous_cons_iff {g : Segment} {l : List Segment} :
    contiguous (g :: l) ↔ (∀ x, l.head? = some x → x.start = g.start + g.length) ∧ contiguous l := by
  refine ⟨fun h => ⟨fun x hx => h 0 g x rfl ?_, fun i x y hx hy => h (i + 1) x y hx hy⟩,
    fun ⟨first, rest⟩ => contiguous_cons first rest⟩
  rwa [List.head?_eq_getElem?] at hx

/-- The up-line end of the last of some segments, or else the one before them (R37). -/
def endAfter (prev : Option Nat) (l : List Segment) : Option Nat :=
  (l.getLast?.map fun x => x.start + x.length).or prev

theorem endAfter_cons (prev : Option Nat) (g : Segment) (l : List Segment) :
    endAfter prev (g :: l) = endAfter (some (g.start + g.length)) l := by
  rw [endAfter, endAfter, List.getLast?_cons]
  cases l.getLast? <;> rfl

/-- A segment that goes on from the last of those that join joins them (R37). -/
theorem contiguous_concat {l : List Segment} {g : Segment} (h : contiguous l) (follows : Follows (endAfter none l) g) :
    contiguous (l ++ [g]) := by
  induction l with
  | nil => exact contiguous_cons (fun _ hx => by cases hx) contiguous_nil
  | cons x rest ih =>
    obtain ⟨first, joined⟩ := contiguous_cons_iff.mp h
    cases rest with
    | nil =>
      exact contiguous_cons (fun y hy => by cases hy; exact (follows _ rfl).symm) (ih joined fun _ hx => by cases hx)
    | cons y rest =>
      rw [endAfter_cons, endAfter_cons] at follows
      exact contiguous_cons first (ih joined (by rwa [endAfter_cons]))

/-! ### The records of a block -/

theorem recordsOf_getElem? {n i : Nat} (b : List Byte) (hi : i < n) :
    (recordsOf n b)[i]? = some (rawSegment ((b.drop (1 + 19 * i)).take 19)) := by
  rw [recordsOf, List.getElem?_map, List.getElem?_range hi, Option.map_some]

/-- The record of a segment stands in a block where its index says (Formats). -/
theorem recordsOf_segment {b m : List Byte} {l : List Segment} {n : Nat} (tail : b.drop 1 = l.flatMap segmentBytes ++ m)
    (fits : ∀ g ∈ l, g.start < 16777216 ∧ g.length < 65536 ∧ SegmentFits g) {i : Nat} {g : Segment}
    (hg : l[i]? = some g) (hi : i < n) : (recordsOf n b)[i]? = some (carried g) := by
  obtain ⟨rest, bytes⟩ := drop_flatMap segmentBytes_length hg m
  obtain ⟨start, length, fit⟩ := fits g (List.mem_of_getElem? hg)
  have cut : ((b.drop (1 + 19 * i)).take 19) = segmentBytes g := by
    rw [← List.drop_drop, tail, bytes, List.take_left' (segmentBytes_length g)]
  rw [recordsOf_getElem? b hi, cut, rawSegment_bytes start length fit]

theorem recordsOf_take {b m : List Byte} {l : List Segment} {n : Nat} (tail : b.drop 1 = l.flatMap segmentBytes ++ m)
    (fits : ∀ g ∈ l, g.start < 16777216 ∧ g.length < 65536 ∧ SegmentFits g) (count : l.length ≤ n) :
    (recordsOf n b).take l.length = l.map carried := by
  refine List.ext_getElem? fun i => ?_
  by_cases hi : i < l.length
  · rw [List.getElem?_take_of_lt hi, List.getElem?_map, List.getElem?_eq_getElem hi]
    exact recordsOf_segment tail fits (List.getElem?_eq_getElem hi) (hi.trans_le count)
  · rw [List.getElem?_eq_none (by rw [List.length_take]; omega), List.getElem?_eq_none (by rw [List.length_map]; omega)]

theorem recordsOf_length (n : Nat) (b : List Byte) : (recordsOf n b).length = n := by
  rw [recordsOf, List.length_map, List.length_range]

/-- The first record that fails among some records and those after them (R43). -/
theorem firstBadRecord_segments {l : List Segment} (fits : ∀ g ∈ l, SegmentFits g) (good : ∀ g ∈ l, SegmentGood g)
    (joined : contiguous l) {k : Nat} {prev : Option Nat} (follows : ∀ g, l.head? = some g → Follows prev g)
    (rest : List RawSegment) :
    firstBadRecord k prev (l.map carried ++ rest) = firstBadRecord (k + l.length) (endAfter prev l) rest := by
  induction l generalizing k prev with
  | nil => rfl
  | cons g l ih =>
    obtain ⟨first, others⟩ := contiguous_cons_iff.mp joined
    obtain ⟨fit, fits⟩ := List.forall_mem_cons.mp fits
    obtain ⟨passes, good⟩ := List.forall_mem_cons.mp good
    rw [List.map_cons, List.cons_append, firstBadRecord, recordFault_good fit passes (follows g rfl), endAfter_cons]
    refine (ih fits good others fun x hx y hy => ?_).trans ?_
    · cases hy
      exact (first x hx).symm
    · rw [List.length_cons, Nat.add_right_comm, Nat.add_assoc]
      rfl

theorem take_cons_drop {α : Type} {l : List α} {i : Nat} {x : α} (h : l[i]? = some x) :
    l.take i ++ x :: l.drop (i + 1) = l := by
  obtain ⟨hi, rfl⟩ := List.getElem?_eq_some_iff.mp h
  rw [← List.drop_eq_getElem_cons hi, List.take_append_drop]

/-- A segment's record that fails after records that pass (R43). -/
theorem firstBadRecord_bad {l : List Segment} {g : Segment} {i : Nat} (fits : ∀ x ∈ l, SegmentFits x)
    (hg : l[i]? = some g) (good : ∀ x ∈ l.take i, SegmentGood x) (joined : contiguous (l.take i))
    (bad : ¬SegmentGood g ∨ ¬contiguous (l.take (i + 1))) :
    firstBadRecord 0 none (l.map carried) = some (i, reasonOf (endAfter none (l.take i)) g) := by
  have hi : i < l.length := (List.getElem?_eq_some_iff.mp hg).1
  have fails : ¬(SegmentGood g ∧ Follows (endAfter none (l.take i)) g) := by
    rintro ⟨passes, follows⟩
    rcases bad with bad | bad
    · exact bad passes
    · rw [List.take_add_one, hg] at bad
      exact bad (contiguous_concat joined follows)
  conv_lhs => rw [← take_cons_drop hg]
  rw [List.map_append, List.map_cons, firstBadRecord_segments (fun x hx =>
    fits x (List.mem_of_mem_take hx)) good joined (fun _ _ _ none => by cases none), firstBadRecord,
    recordFault_bad (fits g (List.mem_of_getElem? hg)) fails, List.length_take_of_le hi.le, Nat.zero_add]

/-! ### The block taken -/

/-- A segment block by its mark, its CRC and the first of its records that fails (R43, R45). -/
theorem takeSegments_block {mark c d : Byte} {covered m b : List Byte} {s : State} {records : List RawSegment}
    (hc : covered = mark :: m) (hb : b = covered ++ [c, d]) (hr : records = recordsOf s.store.headerCount b) :
    (mark ≠ 0x96 → NoSegments .validMark .none s.store s (takeSegments b s)) ∧
      (mark = 0x96 → [c, d] ≠ crcField covered → NoSegments .blockCrc .none s.store s (takeSegments b s)) ∧
      (mark = 0x96 → [c, d] = crcField covered →
        (∀ i why, firstBadRecord 0 none records = some (i, why) →
          NoSegments why (.record i) s.store s (takeSegments b s)) ∧
        (firstBadRecord 0 none records = none →
          LoadEnded (if s.store.paramSource = .memory then .profileLoaded else .paramsDefault)
            { s.store with segments := records.map RawSegment.toSegment } s (takeSegments b s))) := by
  subst hb hr
  have marked : byteAt (covered ++ [c, d]) 0 ≠ 0x96 ↔ mark ≠ 0x96 := by
    subst hc
    exact not_congr (byte_eq_iff (by decide))
  have crc : (!crcGood (covered ++ [c, d])) = true ↔ [c, d] ≠ crcField covered := by
    rw [Bool.not_eq_true', ← Bool.not_eq_true, crcGood_append]
  unfold takeSegments
  simp only [marked, crc]
  refine ⟨fun hm => ?_, fun hm bad => ?_, fun hm good => ?_⟩
  · rw [if_pos hm]
    exact endNoSegments_ended _ _ s.store s
  · rw [if_neg (not_not.mpr hm), if_pos bad]
    exact endNoSegments_ended _ _ s.store s
  · rw [if_neg (not_not.mpr hm), if_neg (not_not.mpr good)]
    refine ⟨fun i why fails => ?_, fun passes => ?_⟩
    · rw [fails]
      exact endNoSegments_ended _ _ s.store s
    · rw [passes]
      exact endLoad_ended _ _ s

theorem segKindArg_none {n : Nat} (h : 1 < n) : segKindArg n = none := by
  unfold segKindArg
  split <;> first | omega | rfl

/-- A side byte of a known value (Formats). -/
theorem sideByte_known {x : Byte} (h : x.toNat = 255 ∨ x.toNat ≤ 2) : x ∈ [0, 1, 2, 0xFF] := by
  have values : x.toNat = 0 ∨ x.toNat = 1 ∨ x.toNat = 2 ∨ x.toNat = 255 := by omega
  rw [byte_eq_iff (by decide), byte_eq_iff (by decide), byte_eq_iff (by decide), byte_eq_iff (by decide)] at values
  simpa using values

/-- A record with a code that is none of its field's fails by its range (R43). -/
theorem recordFault_codes {record : List Byte} (prev : Option Nat)
    (h : 1 < (record.getD 7 0).toNat ∨ 3 < (record.getD 11 0).toNat ∨ record.getD 12 0 ∉ [0, 1, 2, 0xFF]) :
    recordFault prev (rawSegment record) = some .range := by
  have kind : (rawSegment record).kind = byteAt record 7 := byteAt_drop record 5 2
  have flags : (rawSegment record).flags = byteAt record 11 := byteAt_drop record 5 6
  have side : (rawSegment record).side = byteAt record 12 := byteAt_drop record 5 7
  have fails : (rawSegment record).inRange = false := by
    rw [← Bool.not_eq_true, RawSegment.inRange, kind, flags, side]
    simp only [Bool.and_eq_true, Bool.or_eq_true, decide_eq_true_eq]
    rintro ⟨⟨⟨⟨⟨_, known⟩, _⟩, _⟩, bits⟩, sides⟩
    rcases h with h | h | h
    · rw [show segKindArg (byteAt record 7) = none from segKindArg_none h] at known
      cases known
    · exact absurd bits (Nat.not_le.mpr h)
    · exact h (sideByte_known sides)
  rw [recordFault, fails]
  rfl

theorem carried_segments {l : List Segment} (fits : ∀ g ∈ l, SegmentFits g) :
    (l.map carried).map RawSegment.toSegment = l := by
  rw [List.map_map]
  exact (List.map_congr_left fun g hg => carried_toSegment (fits g hg)).trans (List.map_id l)

/-- The records of a block of segments, whatever its mark and its CRC (Formats). -/
theorem recordsOf_block {mark c d : Byte} {l : List Segment} {covered : List Byte}
    (covers : covered = mark :: l.flatMap segmentBytes)
    (fits : ∀ g ∈ l, g.start < 16777216 ∧ g.length < 65536 ∧ SegmentFits g) :
    recordsOf l.length (covered ++ [c, d]) = l.map carried := by
  have tail : (covered ++ [c, d]).drop 1 = l.flatMap segmentBytes ++ [c, d] := by
    rw [covers, List.cons_append, List.drop_succ_cons, List.drop_zero]
  rw [← recordsOf_take tail fits le_rfl, List.take_of_length_le (recordsOf_length _ _).le]

theorem block_length {mark c d : Byte} {l : List Segment} {covered : List Byte}
    (covers : covered = mark :: l.flatMap segmentBytes) :
    (covered ++ [c, d]).length = segmentBlockLength l.length := by
  rw [covers, List.length_append, List.length_cons, flatMap_length segmentBytes_length, segmentBlockLength]
  simp only [List.length_cons, List.length_nil]
  omega

/-- The first record that fails where one with a code that is none of its field's follows segments that pass (R43). -/
theorem firstBadRecord_codes {l : List Segment} {record m b : List Byte} {n : Nat}
    (tail : b.drop 1 = l.flatMap segmentBytes ++ (record ++ m)) (length : record.length = 19) (count : l.length < n)
    (codes : 1 < (record.getD 7 0).toNat ∨ 3 < (record.getD 11 0).toNat ∨ record.getD 12 0 ∉ [0, 1, 2, 0xFF])
    (fits : ∀ g ∈ l, g.start < 16777216 ∧ g.length < 65536 ∧ SegmentFits g) (good : ∀ g ∈ l, SegmentGood g)
    (joined : contiguous l) : firstBadRecord 0 none (recordsOf n b) = some (l.length, .range) := by
  have cut : (b.drop (1 + 19 * l.length)).take 19 = record := by
    rw [← List.drop_drop, tail, List.drop_left' (flatMap_length segmentBytes_length l), List.take_left' length]
  have found : (recordsOf n b)[l.length]? = some (rawSegment record) := by rw [recordsOf_getElem? b count, cut]
  rw [← take_cons_drop found, recordsOf_take tail fits count.le,
    firstBadRecord_segments (fun g hg => (fits g hg).2.2) good joined (fun _ _ _ none => by cases none), firstBadRecord,
    recordFault_codes _ codes, Nat.zero_add]

/-- Settles O52: each block by its tests in their order (`readParams_block`, `takeSegments_block`), and its records as
they stand in its bytes (`recordsOf_block`, `firstBadRecord_bad`, `firstBadRecord_codes`). -/
theorem loaderTakesTheBlocks : Obligations.LoaderTakesTheBlocks := by
  intro s
  refine ⟨fun bytes h => congrArg Host.Outcome.next (if_neg fun ⟨loader, length⟩ => h.elim (· loader) (· length)),
    fun mark body rest c d p awaited length rests read => ?_,
    fun p valid seven => ⟨paramBytes_length seven, paramsOf_paramBytes valid seven⟩,
    fun bytes h => congrArg Host.Outcome.next (if_neg fun ⟨loader, length⟩ => h.elim (· loader) (· length)),
    fun mark l c d covered awaited count covers fits => ?_,
    fun l record rest covered awaited length count codes covers fits good joined => ?_⟩
  · subst read
    have size : (mark :: body ++ rest ++ [c, d]).length = 128 := by
      simp only [List.length_append, List.length_cons, List.length_nil, length, rests]
    obtain ⟨unmarked, garbled, whole⟩ := readParams_block mark rest c d length rfl
    refine ⟨_, congrArg Host.Outcome.next (if_pos ⟨awaited, size⟩), fun hm => takeParams_failed (unmarked hm),
      fun hm bad => takeParams_failed (garbled hm bad), fun hm crc => ?_⟩
    obtain ⟨ranged, inRange⟩ := whole hm crc
    refine ⟨fun tests before x after named => ⟨fun split passed fails => ?_, fun passed name broken => ?_⟩,
      fun own valid => ?_⟩
    · exact takeParams_failed (ranged _ (firstOutOfRange_found (named.symm.trans split) passed fails))
    · exact takeParams_failed ((inRange (firstOutOfRange_none.mpr (named ▸ passed))).1 name broken)
    · obtain ⟨passed, constrained⟩ := Params.valid_iff.mp valid
      have codes : doorCodes body = Quad.all true := by
        rw [own]
        exact doorCodes_paramBytes rfl
      rw [codes, firstOutOfRange_none] at inRange
      exact takeParams_read ((inRange passed).2 constrained)
  · have fit : ∀ g ∈ l, SegmentFits g := fun g hg => (fits g hg).2.2
    have records : l.map carried = recordsOf s.store.headerCount (covered ++ [c, d]) := by
      rw [← count, recordsOf_block covers fits]
    obtain ⟨unmarked, garbled, whole⟩ := takeSegments_block covers rfl records
    refine ⟨_, congrArg Host.Outcome.next (if_pos ⟨awaited, count ▸ block_length covers⟩), unmarked, garbled,
      fun hm crc => ?_⟩
    obtain ⟨fails, passes⟩ := whole hm crc
    refine ⟨fun good joined => ?_, fun i g hg good joined bad => ?_⟩
    · have none := firstBadRecord_segments (k := 0) (prev := none) fit good joined (fun _ _ _ none => by cases none) []
      rw [List.append_nil] at none
      rw [carried_segments fit] at passes
      exact passes none
    · have stops := fails i _ (firstBadRecord_bad fit hg good joined bad)
      rwa [endAfter, Option.or_none] at stops
  · have tail : (covered ++ crcField covered).drop 1 =
        l.flatMap segmentBytes ++ (record ++ (rest ++ crcField covered)) := by
      conv_lhs => rw [covers]
      simp only [List.append_assoc, List.cons_append, List.drop_succ_cons, List.drop_zero, covers]
    have size : (covered ++ crcField covered).length = segmentBlockLength s.store.headerCount := by
      have crc : (crcField covered).length = 2 := rfl
      rw [List.length_append, crc, covers]
      simp only [List.length_append, List.length_cons, flatMap_length segmentBytes_length, length, segmentBlockLength]
      omega
    obtain ⟨_, _, whole⟩ := takeSegments_block (s := s) (b := covered ++ crcField covered) covers rfl rfl
    exact ⟨_, congrArg Host.Outcome.next (if_pos ⟨awaited, size⟩),
      (whole rfl rfl).1 _ _ (firstBadRecord_codes tail length (by omega) codes fits good joined)⟩

end Sys2Proof.Machine
end

section
/-!
A set and a lift of a restriction by their cases (`setRestriction_set`, `liftRestriction_lifted`), in a list in order
in which a key has one ACTIVE entry at most, and the two commands of the cab that make them (R56 to R63).
-/

namespace Sys2Proof.Machine

/-! ### The list -/

section
variable {k : Key} {old r : Restriction} {l : List Restriction} {occupied : Restriction → Bool} {start stop limit : Nat}

/-- In a list in order an entry is put after those of its start and before the rest (R56). -/
theorem insertEntry_placed (r : Restriction) {l : List Restriction} (h : l.Pairwise fun x y => x.start ≤ y.start) :
    insertEntry r l = placedAmong r l := by
  induction l with
  | nil => rfl
  | cons x rest ih =>
    obtain ⟨first, others⟩ := List.pairwise_cons.mp h
    unfold insertEntry
    split
    · rename_i before
      rw [ih others]
      simp [placedAmong, before]
    · rename_i after
      have beyond : ∀ y ∈ x :: rest, r.start < y.start := by
        intro y hy
        rcases List.mem_cons.mp hy with rfl | hy
        · omega
        · exact (not_le.mp after).trans_le (first y hy)
      have none : (x :: rest).filter (·.start ≤ r.start) = [] :=
        List.filter_eq_nil_iff.mpr fun y hy => by simpa using beyond y hy
      have all : (x :: rest).filter (r.start < ·.start) = x :: rest :=
        List.filter_eq_self.mpr fun y hy => by simpa using beyond y hy
      rw [placedAmong, none, all, List.nil_append]

/-- Where a key has an ACTIVE entry, no other entry of the list is one (R56). -/
theorem oneActive.activeOf_eq (h : oneActive l) (mem : old ∈ l) (active : old.activeOf k = true) (hr : r ∈ l) :
    r.activeOf k = decide (r = old) := by
  by_cases same : r = old
  · rw [same, active, decide_eq_true rfl]
  · rw [decide_eq_false same]
    exact Bool.eq_false_iff.mpr fun ha => same (h.sole hr mem ha active)

theorem oneActive.find (h : oneActive l) (mem : old ∈ l) (active : old.activeOf k = true) :
    l.find? (·.activeOf k) = some old := by
  cases found : l.find? (·.activeOf k) with
  | none => exact absurd active (List.find?_eq_none.mp found old mem)
  | some x => rw [h.sole (List.mem_of_find?_eq_some found) mem (List.find?_some found) active]

theorem oneActive.drop (h : oneActive l) (mem : old ∈ l) (active : old.activeOf k = true) :
    dropActive k l = l.filter (· ≠ old) :=
  List.filter_congr fun r hr => by rw [h.activeOf_eq mem active hr, decide_not]

theorem oneActive.lift (h : oneActive l) (mem : old ∈ l) (active : old.activeOf k = true) :
    liftActive k l = l.map fun r => if r = old then { old with state := .lifting } else r :=
  List.map_congr_left fun r hr => by
    rw [h.activeOf_eq mem active hr]
    by_cases same : r = old <;> simp [same]

theorem oneActive.replace (h : oneActive l) (mem : old ∈ l) (active : old.activeOf k = true) (new : Restriction) :
    replaceActive k new l = l.map fun r => if r = old then new else r :=
  List.map_congr_left fun r hr => by rw [h.activeOf_eq mem active hr]; simp only [decide_eq_true_eq]

theorem find_activeOf_none (free : ∀ r ∈ l, r.activeOf k = false) : l.find? (·.activeOf k) = none :=
  List.find?_eq_none.mpr fun r hr => by rw [free r hr]; decide

/-- A set of a key that has no ACTIVE entry (R58, cases 1 and 2). -/
theorem setEntries_new (h : RestrictionsInOrder l) (free : ∀ r ∈ l, r.activeOf k = false) :
    setEntries occupied k start stop limit l =
      if l.length < 16 then some (placedAmong ⟨k, start, stop, limit, .active⟩ l) else none := by
  simp only [setEntries, find_activeOf_none free, insertEntry_placed _ h.ordered, Config.restrictionSlots]

theorem mayReplace_iff : mayReplace (occupied old) old start stop limit = true ↔
    occupied old = false ∨ (limit ≤ old.limit ∧ start ≤ old.start ∧ old.stop ≤ stop) := by
  simp [mayReplace, and_assoc]

/-- A set that may replace the ACTIVE entry of its key (R58, case 3). -/
theorem setEntries_replaced (h : RestrictionsInOrder l) (mem : old ∈ l) (active : old.activeOf k = true)
    (may : occupied old = false ∨ (limit ≤ old.limit ∧ start ≤ old.start ∧ old.stop ≤ stop)) :
    setEntries occupied k start stop limit l = some (
      if start = old.start then l.map fun r => if r = old then ⟨k, start, stop, limit, .active⟩ else r
      else placedAmong ⟨k, start, stop, limit, .active⟩ (l.filter (· ≠ old))) := by
  simp only [setEntries, h.active.find mem active, mayReplace_iff.mpr may, if_true, h.active.replace mem active,
    h.active.drop mem active, insertEntry_placed _ (h.filter _).ordered]
  exact (apply_ite some ..).symm

/-- A set that leaves the ACTIVE entry of its key to be lifted (R58, cases 4 and 5). -/
theorem setEntries_beside (h : RestrictionsInOrder l) (mem : old ∈ l) (active : old.activeOf k = true)
    (met : occupied old = true) (eases : ¬(limit ≤ old.limit ∧ start ≤ old.start ∧ old.stop ≤ stop)) :
    setEntries occupied k start stop limit l =
      if l.length < 16 then some (placedAmong ⟨k, start, stop, limit, .active⟩
        (l.map fun r => if r = old then { old with state := .lifting } else r))
      else none := by
  have stays : ¬mayReplace (occupied old) old start stop limit = true := by
    rw [mayReplace_iff, met]
    rintro (free | tightens)
    · cases free
    · exact eases tightens
  have placed := insertEntry_placed ⟨k, start, stop, limit, .active⟩ (h.lift k).ordered
  rw [h.active.lift mem active] at placed
  simp only [setEntries, h.active.find mem active, if_neg stays, h.active.lift mem active, placed,
    Config.restrictionSlots]

end

/-! ### A set and a lift -/

/-- The blocks but the Restriction and Permit Table and the ports. -/
def limitless : List Block := [.mode, .odo, .store, .sup, .dem, .drive, .doors, .radio, .memory, .pending]

/-- What an act on the restriction list alone does (R61). -/
structure RestrictionsActed (s t : State) : Prop where
  limits : t.limits = { s.limits with restrictions := t.limits.restrictions }
  event : t.limits.restrictions ≠ s.limits.restrictions → raisedAll .restrictions t
  keeps : Keeps limitless s t
  ports : PortsKeep [.restrictions] none s t

theorem RestrictionsActed.refl (s : State) : RestrictionsActed s s :=
  ⟨rfl, fun h => absurd rfl h, .refl _ s, .refl _ _ s⟩

section
variable {k : Key} {start stop limit : Nat} {l : List Restriction} {s : State}

theorem putRestrictions_limits (l : List Restriction) (s : State) :
    (putRestrictions l s).limits = { s.limits with restrictions := l } := raiseIf_limits ..

theorem putRestrictions_acted (l : List Restriction) (s : State) : RestrictionsActed s (putRestrictions l s) := by
  have limits := putRestrictions_limits l s
  refine ⟨by rw [limits], fun changed => ?_, fun b hb => ?_, .raiseIf_of _ .restrictions rfl (by decide)⟩
  · rw [limits] at changed
    rw [putRestrictions, decide_eq_false changed]
    exact raisedAll_raise _ _
  · unfold putRestrictions
    cases b <;> first | exact absurd hb (by decide) | simp [Block.same]

theorem setRestriction_some (e : setEntries (entryOverlaps s) k start stop limit s.limits.restrictions = some l) :
    setRestriction k start stop limit s = (putRestrictions l s, true) := by
  simp only [setRestriction, e]

theorem setRestriction_none (e : setEntries (entryOverlaps s) k start stop limit s.limits.restrictions = none) :
    setRestriction k start stop limit s = (s, false) := by
  simp only [setRestriction, e]

theorem setRestriction_acted (k : Key) (start stop limit : Nat) (s : State) :
    RestrictionsActed s (setRestriction k start stop limit s).1 := by
  unfold setRestriction
  split
  · exact .refl s
  · exact putRestrictions_acted _ s

theorem liftRestriction_acted (k : Key) (s : State) : RestrictionsActed s (liftRestriction k s) :=
  putRestrictions_acted _ s

/-- A set that is taken leaves the list formed for it. -/
theorem setRestriction_put (e : setEntries (entryOverlaps s) k start stop limit s.limits.restrictions = some l) :
    (!(setRestriction k start stop limit s).2) = false ∧
      (setRestriction k start stop limit s).1.limits.restrictions = l := by
  rw [setRestriction_some e]
  exact ⟨rfl, congrArg LimitTable.restrictions (putRestrictions_limits l s)⟩

/-- A set that finds no room leaves the list as it was. -/
theorem setRestriction_full (e : setEntries (entryOverlaps s) k start stop limit s.limits.restrictions = none) :
    (!(setRestriction k start stop limit s).2) = true ∧
      (setRestriction k start stop limit s).1.limits.restrictions = s.limits.restrictions := by
  rw [setRestriction_none e]
  exact ⟨rfl, rfl⟩

/-- A set, by the five cases of R58. -/
theorem setRestriction_set (h : RestrictionsInOrder s.limits.restrictions) (k : Key) (start stop limit : Nat) :
    RestrictionSet k start stop limit (!(setRestriction k start stop limit s).2) s
      (setRestriction k start stop limit s).1 where
  added free room := setRestriction_put ((setEntries_new h free).trans (if_pos room))
  noRoom free full := setRestriction_full ((setEntries_new h free).trans (if_neg (not_lt.mpr full)))
  replaced _ mem active may := setRestriction_put (setEntries_replaced h mem active may)
  beside _ mem active met eases room :=
    setRestriction_put ((setEntries_beside h mem active met eases).trans (if_pos room))
  refused _ mem active met eases full :=
    setRestriction_full ((setEntries_beside h mem active met eases).trans (if_neg (not_lt.mpr full)))
  others := (setRestriction_acted k start stop limit s).limits
  event := (setRestriction_acted k start stop limit s).event

/-- A lift, by the cases of R59. -/
theorem liftRestriction_lifted (h : RestrictionsInOrder s.limits.restrictions) (k : Key) :
    RestrictionLifted k s (liftRestriction k s) := by
  have list : (liftRestriction k s).limits.restrictions =
      liftEntries (entryOverlaps s) k s.limits.restrictions :=
    congrArg LimitTable.restrictions (putRestrictions_limits ..)
  have acted := liftRestriction_acted k s
  refine ⟨fun old mem active met => ?_, fun old mem active clear => ?_, fun free => ?_, acted.limits, acted.event⟩
  · simp only [list, liftEntries, h.active.find mem active, met, if_true, h.active.lift mem active]
  · simp only [list, liftEntries, h.active.find mem active, clear, Bool.false_eq_true, if_false,
      h.active.drop mem active]
  · simp only [list, liftEntries, find_activeOf_none free]

/-- A set reads of the state the table and the envelope alone. -/
theorem RestrictionSet.within {full : Bool} {u v t : State} {may : List Event} {a : Option Port}
    (h : RestrictionSet k start stop limit full u v) (limits : u.limits = s.limits)
    (overlap : entryOverlaps u = entryOverlaps s) (after : t.limits = v.limits) (ports : PortsKeep may a v t) :
    RestrictionSet k start stop limit full s t := by
  obtain ⟨added, noRoom, replaced, beside, refused, others, event⟩ := h
  rw [limits] at added noRoom replaced beside refused others event
  rw [overlap] at replaced beside refused
  rw [← after] at added noRoom replaced beside refused others event
  exact ⟨added, noRoom, replaced, beside, refused, others, fun changed => (event changed).mono ports⟩

/-- A lift reads of the state the table and the envelope alone. -/
theorem RestrictionLifted.within {u v t : State} {may : List Event} {a : Option Port} (h : RestrictionLifted k u v)
    (limits : u.limits = s.limits) (overlap : entryOverlaps u = entryOverlaps s) (after : t.limits = v.limits)
    (ports : PortsKeep may a v t) : RestrictionLifted k s t := by
  obtain ⟨lifting, removed, unknown, others, event⟩ := h
  rw [limits] at lifting removed unknown others event
  rw [overlap] at lifting removed
  rw [← after] at lifting removed unknown others event
  exact ⟨lifting, removed, unknown, others, fun changed => (event changed).mono ports⟩

end

/-! ### The fields of a restriction -/

/-- The fields of a restriction on the wire (Formats). -/
abbrev restrictionBytes (id start stop limit : Nat) : List Byte :=
  natField 1 id ++ natField 3 start ++ natField 3 stop ++ natField 2 limit

section
variable {id start stop limit : Nat}

theorem restrictionBytes_length (id start stop limit : Nat) : (restrictionBytes id start stop limit).length = 9 := by
  simp only [restrictionBytes, List.length_append, natField_length]

/-- The fields of a restriction are read back from their bytes (R62, R64). -/
theorem restrictionBytes_read (hi : id < 256) (hs : start < 16777216) (he : stop < 16777216) (hl : limit < 65536) :
    byteAt (restrictionBytes id start stop limit) 0 = id ∧ word24 (restrictionBytes id start stop limit) 1 = start ∧
      word24 (restrictionBytes id start stop limit) 4 = stop ∧
      word16 (restrictionBytes id start stop limit) 7 = limit := by
  simp only [restrictionBytes, natField_one _ hi, natField_three _ hs, natField_three _ he, natField_two _ hl,
    List.cons_append, List.nil_append]
  exact ⟨(BitVec.toNat_ofNat ..).trans (Nat.mod_eq_of_lt hi), word24_bytes _ hs, word24_bytes _ he, word16_bytes _ hl⟩

theorem restrictionInRange_iff (hi : id < 256) : restrictionInRange id start stop limit = true ↔
    1 ≤ id ∧ start ≤ 199999 ∧ start < stop ∧ stop ≤ 200000 ∧ limit ≤ 1200 := by
  have fits : id ≤ 255 := Nat.le_of_lt_succ hi
  unfold restrictionInRange Config.lineEnd Config.maxSpeed
  simp only [Bool.and_eq_true, decide_eq_true_eq, fits, and_true, and_assoc]

end

/-! ### The commands -/

section
variable {p : Port} {id start stop limit : Nat} {s : State}

/-- RESTRICTION ADD as the holder's command (R62). -/
theorem ruleRestrictionAdd_holder (h : isHolder p s = true) (hi : id < 256) (hs : start < 16777216)
    (he : stop < 16777216) (hl : limit < 65536) : ruleRestrictionAdd p (restrictionBytes id start stop limit) s =
      if restrictionInRange id start stop limit then
        ((setRestriction ⟨.cab, 0, id⟩ start stop limit s).1,
          plainReply (if (setRestriction ⟨.cab, 0, id⟩ start stop limit s).2 then .ok else .full))
      else (s, plainReply .badArgument) := by
  obtain ⟨idRead, startRead, stopRead, limitRead⟩ := restrictionBytes_read hi hs he hl
  rw [ruleRestrictionAdd, asHolder_holder _ h]
  simp only [idRead, startRead, stopRead, limitRead]

/-- RESTRICTION LIFT as the holder's command (R63). -/
theorem ruleRestrictionLift_holder (h : isHolder p s = true) (hi : id < 256) : ruleRestrictionLift p (natField 1 id) s =
    if id = 0 then (s, plainReply .badArgument) else (liftRestriction ⟨.cab, 0, id⟩ s, okReply []) := by
  have read : byteAt (natField 1 id) 0 = id := by
    rw [natField_one _ hi, byteAt_single, BitVec.toNat_ofNat, Nat.mod_eq_of_lt hi]
  rw [ruleRestrictionLift, asHolder_holder _ h]
  simp only [read]

theorem entryOverlaps_completeTelegram (p : Port) (s : State) :
    entryOverlaps (completeTelegram p s) = entryOverlaps s := by
  obtain ⟨_, _, _, composition⟩ := completeTelegram_mode p s
  exact entryOverlaps_congr (by simp only [envelopeSpan, envelope, completeTelegram_odo, composition])

/-- A request answered with an act on the restriction list. -/
theorem RestrictionsActed.answered {code : Byte} {t : State} (h : RestrictionsActed (completeTelegram p s) t)
    (answer : Reply) : Answered p code answer limitless [.restrictions] s (holdAnswer p code (t, answer)) :=
  .of_rule (r := (t, answer)) (by decide) h.keeps (h.ports.mono (fun _ => id) (.inl rfl))

/-- Settles O29: the fields in their bytes, then a set by its cases (`setRestriction_set`) and a lift by its own
(`liftRestriction_lifted`). -/
theorem cabRestrictionsAreSetAndLifted : Obligations.CabRestrictionsAreSetAndLifted := by
  intro p id start stop limit s ready holder tables hi hs he hl
  let u := completeTelegram p s
  have asked : isHolder p u = true := by rwa [isHolder_completeTelegram]
  have order : RestrictionsInOrder u.limits.restrictions := by
    rw [completeTelegram_limits]
    exact tables.restrictionList
  have limits : u.limits = s.limits := completeTelegram_limits p s
  have overlap : entryOverlaps u = entryOverlaps s := entryOverlaps_completeTelegram p s
  have held : ∀ code t answer, PortsKeep [] (some p) t (holdAnswer p code (t, answer)) := fun code t answer =>
    .holdAnswer p code (t, answer)
  let set := setRestriction ⟨.cab, 0, id⟩ start stop limit u
  refine ⟨⟨_, !set.2, request_ready 0x40 _ 9 _ ready (restrictionBytes_length ..), fun bad => ?_, fun good => ?_⟩,
    ⟨_, request_ready 0x41 _ 1 _ ready (natField_length 1 id), fun none => ?_, fun some => ?_⟩⟩
  · exact .of_refuse ((ruleRestrictionAdd_holder asked hi hs he hl).trans
      (if_neg fun range => bad ((restrictionInRange_iff hi).mp range)))
  · rw [(ruleRestrictionAdd_holder asked hi hs he hl).trans (if_pos ((restrictionInRange_iff hi).mpr good))]
    have reply : (if !set.2 then Status.full else .ok) = if set.2 then .ok else .full := by cases set.2 <;> rfl
    rw [reply]
    exact ⟨(setRestriction_acted ..).answered _,
      (setRestriction_set order ..).within limits overlap (holdAnswer_limits ..) (held _ _ _)⟩
  · exact .of_refuse ((ruleRestrictionLift_holder asked hi).trans (if_pos none))
  · rw [(ruleRestrictionLift_holder asked hi).trans (if_neg (Nat.one_le_iff_ne_zero.mp some))]
    exact ⟨(liftRestriction_acted ..).answered _,
      (liftRestriction_lifted order _).within limits overlap (holdAnswer_limits ..) (held _ _ _)⟩

end

end Sys2Proof.Machine
end

section
/-!
PERMIT ENTER, PERMIT CLEAR and RADIO STOP OVERRIDE: each one's tests in their order, and then the permit put or dropped
and the stop table put (R65, R69 to R73).
-/

namespace Sys2Proof.Machine

variable {p : Port} {s : State}

/-! ### The permit and the stop table -/

/-- What an act on the permit alone does (R65). -/
structure PermitActed (q : Option Permit) (s t : State) : Prop where
  limits : t.limits = { s.limits with permit := q }
  event : q ≠ none ∨ s.limits.permit ≠ none → raisedAll .permit t
  keeps : Keeps limitless s t
  ports : PortsKeep [.permit] none s t

theorem putPermit_acted (q : Permit) (s : State) : PermitActed (some q) s (putPermit q s) :=
  ⟨rfl, fun _ => raisedAll_raise _ _, fun b hb => by cases b <;> first | rfl | exact absurd hb (by decide),
    .raise_of .permit rfl (by decide)⟩

theorem dropPermit_acted (s : State) : PermitActed none s (dropPermit s) := by
  obtain ⟨keeps, ports, event⟩ := dropPermit_keeps s
  exact ⟨dropPermit_limits s, fun present => event (present.resolve_left (absurd rfl)), keeps, ports⟩

/-- A request answered with an act on the permit. -/
theorem PermitActed.answered {q : Option Permit} {t : State} (h : PermitActed q (completeTelegram p s) t) (code : Byte)
    (present : q ≠ none ∨ s.limits.permit ≠ none) :
    Answered p code (okReply []) limitless [.permit] s (holdAnswer p code (t, okReply [])) ∧
    (holdAnswer p code (t, okReply [])).limits = { s.limits with permit := q } ∧
    raisedAll .permit (holdAnswer p code (t, okReply [])) := by
  obtain ⟨limits, event, keeps, ports⟩ := h
  rw [completeTelegram_limits] at limits event
  exact ⟨.of_rule (r := (t, okReply [])) (by decide) keeps (ports.mono (fun _ => id) (.inl rfl)),
    (holdAnswer_limits ..).trans limits, raisedAll.hold (r := (t, okReply [])) (event present) p code⟩

/-- The stop table becomes `l` (R71), the RADIO row and the events following (R72). -/
structure StopsActed (l : List StopKind) (s t : State) : Prop where
  limits : t.limits = { s.limits with stops := l }
  event : l ≠ s.limits.stops → raisedAll .restrictions t
  row : RowsFollow { s.dem.rows with radio := radioRow (strongestStop l) s.odo.standstill } s t
  keeps : Keeps tableless s t
  ports : PortsKeep (.restrictions :: rowEvents) none s t

theorem putStops_acted (l : List StopKind) (s : State) : StopsActed l s (putStops l s) := by
  let v : State := { s with limits := { s.limits with stops := l } }
  let u := raiseIf (!(l = s.limits.stops)) .restrictions v
  have limits : u.limits = { s.limits with stops := l } := raiseIf_limits v ..
  have dem : u.dem = s.dem := raiseIf_dem v ..
  have odo : u.odo = s.odo := raiseIf_odo v ..
  have before : Keeps tableless s u := fun b hb => by
    cases b <;> first | exact absurd hb (by decide) | simp [Block.same, u, v]
  have raised : PortsKeep (.restrictions :: rowEvents) none s u := .raiseIf_of _ .restrictions rfl (by decide)
  have written : RowsWritten { u.dem.rows with radio := radioRow (strongestStop u.limits.stops) u.odo.standstill } u
    (putStops l s) := writeRows_written _ u
  obtain ⟨follow, keeps, ports⟩ := written
  refine ⟨Eq.trans (keeps .limits (by decide)) limits, fun changed => ?_, ?_, before.trans (keeps.mono (by decide)),
    raised.trans (ports.mono (by decide) (.inl rfl))⟩
  · have event : raisedAll .restrictions u := by
      simp only [u, decide_eq_false changed]
      exact raisedAll_raise _ _
    exact event.mono ports
  · rw [dem, odo, limits] at follow
    exact follow.of_eq dem (raiseIf_drive v ..) (congrArg Odometry.standstill odo) (raiseIf_store v ..)

theorem strongestStop_none (n : Nat) : strongestStop (List.replicate n .none) = .none := by
  induction n with
  | zero => rfl
  | succ n ih => exact ih

/-! ### The tests -/

/-- A RADIO permit stands in the way of a cab permit unless the coverage is LOST (R69). -/
theorem radioPermitHolds_iff : radioPermitHolds s = true ↔
    (∃ q, s.limits.permit = some q ∧ q.origin = .radio) ∧ s.radio.coverage ≠ .lost := by
  simp [radioPermitHolds, Option.any_eq_true]

theorem radioPermitHolds_completeTelegram (p : Port) (s : State) :
    radioPermitHolds (completeTelegram p s) = radioPermitHolds s := by
  simp only [radioPermitHolds, completeTelegram_limits, completeTelegram_radio]

/-- PERMIT ENTER as the holder's command (R69). -/
theorem rulePermitEnter_holder {stop : Nat} (h : isHolder p s = true) (hs : stop < 16777216) :
    rulePermitEnter p (natField 3 stop) s =
      if 200000 < stop then (s, plainReply .badArgument)
      else if s.mode.mode ≠ .line then (s, plainReply .wrongMode)
      else if moving s then (s, plainReply .notStandstill)
      else if s.mode.direction = .none then (s, conditionReply .noDirection)
      else if radioPermitHolds s then (s, conditionReply .radioPermitPresent)
      else (putPermit ⟨.cab, 0, 0, stop, s.mode.direction⟩ s, okReply []) := by
  have read : word24 (natField 3 stop) 0 = stop := by
    rw [← List.append_nil (natField 3 stop), word24_natField _ _ hs]
  rw [rulePermitEnter, asHolder_holder _ h]
  simp only [refuseIf, read, decide_eq_true_eq, notMode_eq_true]
  rfl

/-- PERMIT CLEAR as the holder's command (R70). -/
theorem rulePermitClear_holder (h : isHolder p s = true) : rulePermitClear p s =
    if moving s then (s, plainReply .notStandstill) else (dropPermit s, okReply []) := asHolder_holder _ h

/-- RADIO STOP OVERRIDE as the holder's command (R73). -/
theorem ruleRadioStopOverride_holder (h : isHolder p s = true) : ruleRadioStopOverride p s =
    if moving s then (s, plainReply .notStandstill)
    else if s.radio.coverage ≠ .lost then (s, conditionReply .coverageNotLost)
    else (putStops (List.replicate s.limits.stops.length .none) s, okReply []) := by
  rw [ruleRadioStopOverride, asHolder_holder _ h]
  simp only [refuseIf, List.map_const', Bool.not_eq_true', decide_eq_false_iff_not, ne_eq]

/-- Settles O30: each command's tests in their order, then the permit put (`putPermit_acted`) or dropped
(`dropPermit_acted`), or the stop table put (`putStops_acted`). -/
theorem cabPermitsAndStopsAreCleared : Obligations.CabPermitsAndStopsAreCleared := by
  refine ⟨fun p stop s ready holder hs => ⟨_, request_ready 0x42 _ 3 _ ready (natField_length 3 stop), ?_⟩,
    fun p s ready holder => ⟨_, request_ready 0x43 [] 0 _ ready rfl, ?_⟩,
    fun p s ready holder => ⟨_, request_ready 0x44 [] 0 _ ready rfl, ?_⟩⟩ <;>
    have asked : isHolder p (completeTelegram p s) = true := by rwa [isHolder_completeTelegram]
  · obtain ⟨mode, _, direction, _⟩ := completeTelegram_mode p s
    rw [rulePermitEnter_holder asked hs, mode, direction, moving_completeTelegram, radioPermitHolds_completeTelegram]
    refine ⟨fun beyond => .of_refuse (if_pos beyond), fun within other => .of_refuse ?_, fun within line =>
      ⟨fun moves => .of_refuse ?_, fun still none => .of_refuse ?_, fun still some radio covered => .of_refuse ?_,
        fun still some free => ?_⟩⟩
    · rw [if_neg (not_lt.mpr within), if_pos other]
    · rw [if_neg (not_lt.mpr within), if_neg (not_not.mpr line), moves]
      rfl
    · rw [if_neg (not_lt.mpr within), if_neg (not_not.mpr line), still, none]
      rfl
    · rw [if_neg (not_lt.mpr within), if_neg (not_not.mpr line), still, if_neg (by decide), if_neg some,
        if_pos (radioPermitHolds_iff.mpr ⟨radio, covered⟩)]
    · have clear : ¬radioPermitHolds s = true := fun holds => by
        obtain ⟨⟨q, present, radio⟩, covered⟩ := radioPermitHolds_iff.mp holds
        exact covered (free q present radio)
      rw [if_neg (not_lt.mpr within), if_neg (not_not.mpr line), still, if_neg (by decide), if_neg some, if_neg clear]
      exact (putPermit_acted _ _).answered _ (.inl (Option.some_ne_none _))
  · rw [rulePermitClear_holder asked, moving_completeTelegram]
    refine ⟨fun moves => .of_refuse (by rw [moves]; rfl), fun still absent => .of_refuse ?_, fun still present => ?_⟩
    · have nothing : dropPermit (completeTelegram p s) = completeTelegram p s := by
        simp [dropPermit, absent]
      rw [still, nothing]
      rfl
    · rw [still, if_neg (by decide)]
      exact (dropPermit_acted _).answered _ (.inr present)
  · rw [ruleRadioStopOverride_holder asked, moving_completeTelegram, completeTelegram_radio, completeTelegram_limits]
    refine ⟨fun moves => .of_refuse (by rw [moves]; rfl), fun still covered => .of_refuse ?_, fun still lost => ?_⟩
    · rw [still, if_neg (by decide), if_pos covered]
    · rw [still, if_neg (by decide), if_neg (not_not.mpr lost)]
      let done : State × Reply :=
        (putStops (List.replicate s.limits.stops.length .none) (completeTelegram p s), okReply [])
      obtain ⟨limits, event, row, keeps, ports⟩ :=
        putStops_acted (List.replicate s.limits.stops.length .none) (completeTelegram p s)
      rw [completeTelegram_limits] at limits event
      rw [strongestStop_none] at row
      have table : (holdAnswer p 0x44 done).limits = _ := (holdAnswer_limits ..).trans limits
      exact ⟨.of_rule (r := done) (by decide) keeps (ports.mono (fun _ => id) (.inl rfl)), table,
        fun changed => raisedAll.hold (r := done) (event (by rwa [table] at changed)) p _, row.hold (r := done) p _⟩

end Sys2Proof.Machine
end

section
/-!
A GOOD frame that carries a bulletin: taken as new with what its kind does (`bulletin_taken`), or acknowledged again as
a duplicate (`bulletin_again`), and the restriction bulletins (R64, R152, R159 to R161, R165).
-/

namespace Sys2Proof.Machine

section
variable {f : Frame} {h : FrameHeader} {k : BulletinKind} {kind : Byte} {body : List Byte} {s a : State}
  {r : BulletinResult} {e : BulletinEntry}

/-! ### What every bulletin goes through -/

theorem addressClass_good (good : frameGood f s) : addressClass s f = .good := by
  obtain ⟨_, _, ⟨line, profiled, station, stationEnd, zone, zoneEnd⟩, train, zoned⟩ := good
  have ours : ¬(f.header.lineId.toNat ≠ s.store.lineId ∨ s.store.lineId = 0 ∨ !inThirtyOne f.header.station ∨
      !inThirtyOne f.header.zone) := by
    simp [inThirtyOne, line, profiled, station, stationEnd, zone, zoneEnd]
  have named : ¬(f.header.train ≠ 0 ∧ s.mode.composition.all (fun c => c.train ≠ f.header.train.toNat)) := by
    rintro ⟨one, other⟩
    obtain ⟨c, present, same⟩ := train one
    simp [present, same] at other
  have here : ¬(f.header.train = 0 ∧ (f.kind = 0x14 ∨ f.kind = 0x15) ∧ f.header.zone.toNat ≠ s.radio.zone) :=
    fun ⟨all, stops, elsewhere⟩ => elsewhere (zoned all stops)
  simp only [addressClass, if_neg ours, if_neg named, if_neg here]

/-- A GOOD frame is counted and handled (R152). -/
theorem receiveFrame_good (good : frameGood f s) : receiveFrame f s = handleGood f (count .goodFrames s) := by
  have silent : s.radio.transmission.isSome = false := by rw [good.1]; rfl
  simp only [receiveFrame, silent, Bool.false_eq_true, if_false, if_neg (not_lt.mpr good.2.1), addressClass_good good]

theorem handleGood_bulletin (carries : bulletinKindOf f.kind = some k) (s : State) :
    handleGood f s = handleBulletin k f.header f.body s := by
  have other : f.kind ≠ 0x01 := fun beacon => by
    have none : bulletinKindOf 0x01 = none := by decide
    rw [beacon, none] at carries
    cases carries
  simp only [handleGood, if_neg other, carries]

/-- The state in which a new bulletin is applied, the frame and the bulletin counted (R153, R159). -/
def bulletinCounted (s : State) : State := count .bulletins (count .goodFrames s)

theorem count_recent (c : Counter) (s : State) : (count c s).radio.recent = s.radio.recent := by
  rw [(count_counted c s).rest]

theorem bulletinCounted_keeps (s : State) : Keeps allButRadio s (bulletinCounted s) :=
  (count_counted .goodFrames s).keeps.trans (count_counted .bulletins _).keeps

theorem bulletinCounted_limits (s : State) : (bulletinCounted s).limits = s.limits :=
  bulletinCounted_keeps s .limits (by decide)

theorem bulletinCounted_radio (s : State) :
    (bulletinCounted s).radio = { s.radio with counters := (bulletinCounted s).radio.counters } := by
  have both := (count_counted .bulletins (count .goodFrames s)).rest
  rwa [(count_counted .goodFrames s).rest] at both

theorem addRecent_eq (e : BulletinEntry) (l : List BulletinEntry) :
    addRecent e l = l.drop (if l.length < 32 then 0 else 1) ++ [e] := by
  unfold addRecent Config.recentSlots
  split <;> rfl

/-- A new bulletin is applied, entered in the recent bulletin list and acknowledged (R159, R160). -/
theorem handleBulletin_new (new : newBulletin h s) (applied : applyBulletin k h body (count .bulletins s) = (a, r)) :
    handleBulletin k h body s = offerAck (entryOf h r) { a with radio := { a.radio with
      recent := a.radio.recent.drop (if a.radio.recent.length < 32 then 0 else 1) ++ [entryOf h r]
      lastApplied := if r = .applied then some (h.station.toNat, h.serial.toNat) else a.radio.lastApplied } } := by
  have unknown : s.radio.recent.find? (fun e => e.station = h.station.toNat && e.serial = h.serial.toNat) = none :=
    List.find?_eq_none.mpr fun e he => by simpa using new e he
  simp only [handleBulletin, unknown, applied, addRecent_eq]
  rfl

/-- A new bulletin by what its kind does (R159 to R161). -/
theorem bulletin_taken (good : frameGood ⟨h, kind, body⟩ s) (carries : bulletinKindOf kind = some k)
    (new : newBulletin h s) (applied : applyBulletin k h body (bulletinCounted s) = (a, r)) :
    BulletinTaken h r s (bulletinCounted s) a (receiveFrame ⟨h, kind, body⟩ s) where
  counted := ⟨_, count_counted .goodFrames s, count_counted .bulletins _⟩
  ended := by
    have unheard : newBulletin h (count .goodFrames s) := by rwa [newBulletin, count_recent]
    rw [receiveFrame_good good, handleGood_bulletin carries, handleBulletin_new unheard applied]
    exact offerAck_offered ..

/-- A duplicate is counted and acknowledged with its first result (R159). -/
theorem bulletin_again (good : frameGood ⟨h, kind, body⟩ s) (carries : bulletinKindOf kind = some k)
    (distinct : s.radio.recent.Pairwise fun x y => ¬(x.station = y.station ∧ x.serial = y.serial))
    (heard : e ∈ s.radio.recent) (station : e.station = h.station.toNat) (serial : e.serial = h.serial.toNat) :
    receiveFrame ⟨h, kind, body⟩ s = offerAck e (count .duplicates (count .goodFrames s)) := by
  have found : s.radio.recent.find? (fun e => e.station = h.station.toNat && e.serial = h.serial.toNat) = some e := by
    cases first : s.radio.recent.find? (fun e => e.station = h.station.toNat && e.serial = h.serial.toNat) with
    | none => exact absurd (List.find?_eq_none.mp first e heard) (by simp [station, serial])
    | some x =>
      have same := List.find?_some first
      simp only [Bool.and_eq_true, decide_eq_true_eq] at same
      by_contra apart
      have symmetric : Std.Symm fun x y : BulletinEntry => ¬(x.station = y.station ∧ x.serial = y.serial) :=
        ⟨fun _ _ differ both => differ ⟨both.1.symm, both.2.symm⟩⟩
      exact distinct.forall (List.mem_of_find?_eq_some first) heard (fun e => apart (congrArg some e))
        ⟨same.1.trans station.symm, same.2.trans serial.symm⟩
  rw [receiveFrame_good good, handleGood_bulletin carries]
  simp only [handleBulletin, count_recent, found]

end

/-! ### The restriction bulletins -/

section
variable {h : FrameHeader} {id start stop limit : Nat} {body : List Byte} {s : State}

/-- A RESTRICTION_SET of its fields (R64). -/
theorem applyRestrictionSet_fields (hi : id < 256) (hs : start < 16777216) (he : stop < 16777216) (hl : limit < 65536) :
    applyRestrictionSet h (restrictionBytes id start stop limit) s =
      if restrictionInRange id start stop limit then
        ((setRestriction ⟨.radio, h.station.toNat, id⟩ start stop limit s).1,
          if (setRestriction ⟨.radio, h.station.toNat, id⟩ start stop limit s).2 then .applied else .refusedFull)
      else (s, .refusedInvalid) := by
  obtain ⟨idRead, startRead, stopRead, limitRead⟩ := restrictionBytes_read hi hs he hl
  rw [applyRestrictionSet, if_pos (restrictionBytes_length ..)]
  simp only [idRead, startRead, stopRead, limitRead]

/-- A RESTRICTION_LIFT of an id (R64). -/
theorem applyRestrictionLift_id (id : Byte) : applyRestrictionLift h [id] s =
    if id = 0 then (s, .refusedInvalid)
    else (liftRestriction ⟨.radio, h.station.toNat, id.toNat⟩ s, .applied) := by
  by_cases none : id = 0
  · rw [none]
    rfl
  · have some : 1 ≤ id.toNat := Nat.one_le_iff_ne_zero.mpr fun zero => none (BitVec.eq_of_toNat_eq zero)
    rw [if_neg none]
    exact if_pos ⟨rfl, some⟩

/-- Settles O47: each bulletin as taken (`bulletin_taken`), a set by its cases (`setRestriction_set`) and a lift by its
own (`liftRestriction_lifted`). -/
theorem restrictionBulletinsAreApplied : Obligations.RestrictionBulletinsAreApplied := by
  intro h s tables new
  have order : RestrictionsInOrder (bulletinCounted s).limits.restrictions := by
    rw [bulletinCounted_limits]
    exact tables.restrictionList
  refine ⟨fun body long good => ⟨_, _, rfl, bulletin_taken good rfl new (if_neg long)⟩,
    fun body id start stop limit bytes hi hs he hl good => ?_,
    fun body long good => ⟨_, _, rfl, bulletin_taken good rfl new (if_neg fun fits => long fits.1)⟩,
    fun id good => ?_⟩
  · subst bytes
    have fields := applyRestrictionSet_fields (h := h) (s := bulletinCounted s) hi hs he hl
    by_cases range : 1 ≤ id ∧ start ≤ 199999 ∧ start < stop ∧ stop ≤ 200000 ∧ limit ≤ 1200
    · have applied := fields.trans (if_pos ((restrictionInRange_iff hi).mpr range))
      have acted := setRestriction_acted ⟨.radio, h.station.toNat, id⟩ start stop limit (bulletinCounted s)
      refine ⟨_, _, _, _, _, rfl, bulletin_taken good rfl new applied, absurd range, fun _ =>
        ⟨setRestriction_set order .., ?_, acted.keeps.mono (by decide), acted.ports⟩⟩
      cases (setRestriction ⟨.radio, h.station.toNat, id⟩ start stop limit (bulletinCounted s)).2 <;> rfl
    · have refused := fields.trans (if_neg fun inRange => range ((restrictionInRange_iff hi).mp inRange))
      exact ⟨_, _, _, _, false, rfl, bulletin_taken good rfl new refused, fun _ => ⟨rfl, rfl⟩,
        fun inRange => absurd inRange range⟩
  · have byte := applyRestrictionLift_id (h := h) (s := bulletinCounted s) id
    by_cases zero : id = 0
    · exact ⟨_, _, _, _, rfl, bulletin_taken good rfl new (byte.trans (if_pos zero)), fun _ => ⟨rfl, rfl⟩,
        fun some => absurd zero some⟩
    · have acted := liftRestriction_acted ⟨.radio, h.station.toNat, id.toNat⟩ (bulletinCounted s)
      exact ⟨_, _, _, _, rfl, bulletin_taken good rfl new (byte.trans (if_neg zero)), fun none => absurd none zero,
        fun _ => ⟨liftRestriction_lifted order _, rfl, acted.keeps.mono (by decide), acted.ports⟩⟩

end

end Sys2Proof.Machine
end

section
/-!
The square root of the curve speed (`floorSqrt_eq_sqrt`), the shortening test by it (`shorteningPasses_iff`), and the
permit bulletins by their tests in order (`applyPermitGrant_invalid`, `applyPermitGrant_valid`) (R65 to R68, R87).
-/

namespace Sys2Proof.Machine

/-! ### The square root -/

/-- The bits of a root that stay to be found bracket it. -/
theorem sqrtBits_brackets {n bits root : Nat} (low : root * root ≤ n)
    (high : n < (root + 2 ^ bits) * (root + 2 ^ bits)) :
    sqrtBits n bits root * sqrtBits n bits root ≤ n ∧ n < (sqrtBits n bits root + 1) * (sqrtBits n bits root + 1) := by
  induction bits generalizing root with
  | zero => exact ⟨low, high⟩
  | succ bit ih =>
    unfold sqrtBits
    split
    · rename_i fits
      refine ih fits ?_
      rwa [Nat.add_assoc, ← Nat.two_mul, ← Nat.pow_succ']
    · rename_i exceeds
      exact ih low (not_le.mp exceeds)

/-- The square root rounded down is Mathlib's (R87). -/
theorem floorSqrt_eq_sqrt (n : Nat) : floorSqrt n = n.sqrt := by
  refine Nat.eq_sqrt.mpr (sqrtBits_brackets (Nat.zero_le n) ?_)
  calc n < 2 ^ (n.log2 + 1) := Nat.lt_log2_self
    _ ≤ 2 ^ (n.log2 / 2 + 1 + (n.log2 / 2 + 1)) := Nat.pow_le_pow_right (by decide) (by omega)
    _ = (0 + 2 ^ (n.log2 / 2 + 1)) * (0 + 2 ^ (n.log2 / 2 + 1)) := by rw [Nat.zero_add, Nat.pow_add]

/-- A speed is within the curve speed for a standing target where its square is within that of the curve (R87). -/
theorem le_curveSpeed_iff (v a d : Nat) : v ≤ curveSpeed 0 a d ↔ v * v ≤ 2 * a * d := by
  rw [curveSpeed, floorSqrt_eq_sqrt, Nat.le_sqrt, Nat.zero_mul, Nat.zero_add]

/-! ### The shortening test -/

section
variable {h : FrameHeader} {stop : Nat} {body : List Byte} {s t : State}

theorem shorteningPasses_iff {sp : Span} {front d : Int} (span : envelopeSpan s = some sp)
    (hf : front = if s.mode.direction = .downLine then sp.low else sp.high)
    (hd : d = if s.mode.direction = .downLine then front - (stop : Int) else (stop : Int) - front) :
    shorteningPasses s stop = true ↔ 6000 < d ∨ s.odo.speed * s.odo.speed ≤
      2 * approachDecel s front (if d < 0 then front else stop) *
        (d - reactionDistance s.odo.speed s.store.params.tB).toNat := by
  have safe : safeFront s.mode.direction sp = front := by
    rw [hf]
    cases s.mode.direction <;> rfl
  have ahead : distanceAhead s.mode.direction front stop = d := by
    rw [hd]
    cases s.mode.direction <;> rfl
  simp only [shorteningPasses, span, safe, ahead, Config.targetWindow]
  by_cases far : 6000 < d
  · simp [far]
  · simp only [Nat.cast_ofNat, far, if_false, false_or, decide_eq_true_eq, le_curveSpeed_iff]

/-- The shortening test reads neither the radio nor the ports. -/
theorem shorteningPasses_of_radio (k : Keeps allButRadio s t) : shorteningPasses t stop = shorteningPasses s stop := by
  have mode : t.mode = s.mode := k .mode (by decide)
  have odo : t.odo = s.odo := k .odo (by decide)
  have store : t.store = s.store := k .store (by decide)
  have drive : t.drive = s.drive := k .drive (by decide)
  unfold shorteningPasses approachDecel
  rw [envelopeSpan_congr mode odo, mode, odo, store, drive]

/-! ### The permit granted -/

/-- A permit end passes where no permit is present, where it lies no nearer than the end of the permit present, and
else by the shortening test (R66). -/
def endPasses (dir : Direction) (stop : Nat) (s : State) : Bool :=
  s.limits.permit.all fun p => !nearer dir stop p.endPos || shorteningPasses s stop

theorem nearer_iff {dir : Direction} (some : dir ≠ .none) (new old : Nat) :
    nearer dir new old = true ↔ if dir = .upLine then new < old else old < new := by
  cases dir
  · exact absurd rfl some
  · exact decide_eq_true_iff
  · exact decide_eq_true_iff

theorem endPasses_iff {dir : Direction} (some : dir ≠ .none) : endPasses dir stop s = true ↔
    ∀ p, s.limits.permit = .some p →
      (if dir = .upLine then p.endPos ≤ stop else stop ≤ p.endPos) ∨ shorteningPasses s stop = true := by
  have apart : ∀ old, nearer dir stop old = false ↔ if dir = .upLine then old ≤ stop else stop ≤ old := fun old => by
    rw [← Bool.not_eq_true, nearer_iff some]
    split <;> exact not_lt
  simp only [endPasses, Option.all_eq_true, Bool.or_eq_true, Bool.not_eq_true', apart]

theorem grant_read (d : Byte) (hs : stop < 16777216) : (natField 3 stop ++ [d]).length = 4 ∧
    word24 (natField 3 stop ++ [d]) 0 = stop ∧ byteAt (natField 3 stop ++ [d]) 3 = d.toNat :=
  ⟨by rw [List.length_append, natField_length]; rfl, word24_natField stop [d] hs, byteAt_after_three stop [d] 0 hs⟩

theorem directionArg_bad {d : Byte} (one : d ≠ 1) (two : d ≠ 2) :
    directionArg d.toNat = none ∨ directionArg d.toNat = some .none := by
  by_cases zero : d = 0
  · exact .inr (by rw [zero]; rfl)
  · have beyond : 3 ≤ d.toNat := by bv_omega
    exact .inl (directionArg_none beyond)

/-- A PERMIT_GRANT of fields out of range, or to no train (R66). -/
theorem applyPermitGrant_invalid {d : Byte} (hs : stop < 16777216)
    (bad : h.train = 0 ∨ 200000 < stop ∨ (d ≠ 1 ∧ d ≠ 2)) :
    applyPermitGrant h (natField 3 stop ++ [d]) s = (s, .refusedInvalid) := by
  obtain ⟨length, stopRead, directionRead⟩ := grant_read d hs
  simp only [applyPermitGrant, length, stopRead, directionRead, Config.lineEnd, true_and]
  split
  · rename_i train
    split
    · rfl
    · rfl
    · rename_i dir some code
      have beyond : 200000 < stop := by
        refine (bad.resolve_left train).resolve_right fun ⟨one, two⟩ => ?_
        rcases directionArg_bad one two with absent | none
        · cases absent.symm.trans code
        · cases none.symm.trans code
          exact some rfl
      exact if_pos beyond
  · rfl

/-- A PERMIT_GRANT of fields in range, by the tests of R66 in their order. -/
theorem applyPermitGrant_valid {dir : Direction} (some : dir ≠ .none) (train : h.train ≠ 0) (onLine : stop ≤ 200000) :
    applyPermitGrant h (natField 3 stop ++ [dir.code]) s =
      if s.mode.mode ≠ .line then (s, .refusedMode)
      else if dir ≠ s.mode.direction then (s, .refusedDirection)
      else if endPasses dir stop s then (putPermit ⟨.radio, h.station.toNat, h.serial.toNat, stop, dir⟩ s, .applied)
      else (s, .refusedShorten) := by
  obtain ⟨length, stopRead, directionRead⟩ := grant_read dir.code (stop := stop) (by omega)
  have within : ¬200000 < stop := not_lt.mpr onLine
  simp only [applyPermitGrant, length, stopRead, directionRead, directionArg_code, Config.lineEnd, true_and,
    if_pos train, if_neg within]
  cases dir
  · exact absurd rfl some
  all_goals
    refine if_congr Iff.rfl rfl (if_congr Iff.rfl rfl (if_congr ?_ rfl rfl))
    unfold endPasses
    cases s.limits.permit <;> rfl

/-- A PERMIT_GRANT changes nothing or becomes the permit (R66). -/
theorem applyPermitGrant_cases (h : FrameHeader) (body : List Byte) (s : State) :
    (applyPermitGrant h body s).1 = s ∨ (applyPermitGrant h body s).2 = .applied := by
  unfold applyPermitGrant
  simp only
  split
  · split
    · exact .inl rfl
    · exact .inl rfl
    · split_ifs
      exacts [.inl rfl, .inl rfl, .inl rfl, .inr rfl, .inl rfl]
  · exact .inl rfl

/-- Settles O48: each bulletin as taken (`bulletin_taken`), the grant by its tests in their order, the shortening test
by its table (`shorteningPasses_iff`). -/
theorem permitBulletinsAreApplied : Obligations.PermitBulletinsAreApplied := by
  intro h s new
  have counted := bulletinCounted_keeps s
  have mode : (bulletinCounted s).mode = s.mode := counted .mode (by decide)
  have limits := bulletinCounted_limits s
  refine ⟨fun body long good => ⟨_, _, rfl, bulletin_taken good rfl new (if_neg fun fits => long fits.1)⟩,
    fun body stop d bytes hs good => ?_, fun stop sp front d span hf hd => shorteningPasses_iff span hf hd,
    fun body long good => ⟨_, _, rfl, bulletin_taken good rfl new
      (if_neg fun fits => long (List.length_eq_zero_iff.mp fits))⟩,
    fun good => ?_⟩
  · subst bytes
    let x := applyPermitGrant h (natField 3 stop ++ [d]) (bulletinCounted s)
    refine ⟨_, _, x.1, x.2, rfl, bulletin_taken good rfl new rfl, (applyPermitGrant_cases ..).resolve_right,
      fun bad => congrArg Prod.snd (applyPermitGrant_invalid hs bad), fun dir some code train onLine => ?_⟩
    subst code
    have grant : x = _ := applyPermitGrant_valid some train onLine
    have passes := endPasses_iff (stop := stop) (s := bulletinCounted s) some
    rw [mode] at grant
    rw [limits, shorteningPasses_of_radio counted] at passes
    refine ⟨fun other => ?_, fun line other => ?_, fun line same ends => ?_, fun p line same present closer fails => ?_⟩
    · rw [grant, if_pos other]
    · rw [grant, if_neg (not_not.mpr line), if_pos other]
    · rw [grant, if_neg (not_not.mpr line), if_neg (not_not.mpr same), if_pos (passes.mpr ends)]
      obtain ⟨granted, event, keeps, ports⟩ :=
        putPermit_acted ⟨.radio, h.station.toNat, h.serial.toNat, stop, dir⟩ (bulletinCounted s)
      exact ⟨rfl, granted, event (.inl (Option.some_ne_none _)), keeps.mono (by decide), ports⟩
    · have shortens : ¬endPasses dir stop (bulletinCounted s) = true := fun ends => by
        rcases passes.mp ends p present with apart | passed
        · split_ifs at closer apart <;> omega
        · exact absurd passed (by rw [fails]; decide)
      rw [grant, if_neg (not_not.mpr line), if_neg (not_not.mpr same), if_neg shortens]
  · obtain ⟨dropped, event, keeps, ports⟩ := dropPermit_acted (bulletinCounted s)
    refine ⟨_, _, _, rfl, bulletin_taken good rfl new rfl, dropped, fun present => event (.inr ?_),
      keeps.mono (by decide), ports⟩
    rwa [limits]

end

end Sys2Proof.Machine
end

section
/-!
The stop bulletins, the text bulletin by its fields (`applyText_fields`), and the duplicates of every kind
(R71, R72, R159 to R164).
-/

namespace Sys2Proof.Machine

variable {h : FrameHeader} {p n : Byte} {text : List Byte} {s : State}

theorem stronger_service (k : StopKind) :
    k.stronger .serviceStop = if k = .emergencyStop then .emergencyStop else .serviceStop := by
  cases k <;> rfl

theorem stronger_emergency (k : StopKind) : k.stronger .emergencyStop = .emergencyStop := by
  cases k <;> rfl

theorem stopOf_bulletinCounted (s : State) (station : Nat) : stopOf (bulletinCounted s) station = stopOf s station := by
  rw [stopOf, bulletinCounted_limits, stopOf]

/-- A STOP_ORDER for the service stop leaves an emergency stop (R71). -/
theorem applyStopOrder_service {body : List Byte} (one : body = [1]) :
    applyStopOrder h body (bulletinCounted s) = (putStop h.station.toNat
      (if stopOf s h.station.toNat = .emergencyStop then .emergencyStop else .serviceStop) (bulletinCounted s),
      .applied) := by
  rw [applyStopOrder, if_pos one, stronger_service, stopOf_bulletinCounted]

theorem applyStopOrder_emergency {body : List Byte} (two : body = [2]) :
    applyStopOrder h body s = (putStop h.station.toNat .emergencyStop s, .applied) := by
  rw [applyStopOrder, two, if_neg (by decide), if_pos rfl, stronger_emergency]

theorem priorityArg_some {v : Nat} (known : v ≤ 1) : priorityArg v = some (if v = 0 then .normal else .urgent) := by
  interval_cases v <;> rfl

theorem priorityArg_none {v : Nat} (unknown : 1 < v) : priorityArg v = none := by
  unfold priorityArg
  split <;> first | omega | rfl

/-- A TEXT too short for its fields (R162). -/
theorem applyText_short {body : List Byte} (short : body.length < 2) :
    applyText h body s = (s, .refusedInvalid) := by
  have none : byteAt body 1 = 0 := by
    rw [byteAt, List.getD_eq_default _ _ (Nat.le_of_lt_succ short)]
    rfl
  simp only [applyText, none]
  split <;> rfl

/-- A TEXT of its fields (R162, R164). -/
theorem applyText_fields : applyText h (p :: n :: text) s =
    if p.toNat ≤ 1 ∧ n ≠ 0 ∧ n.toNat = text.length then
      if 0 < s.radio.freeCount then
        (storeMessage ⟨h.station.toNat, h.serial.toNat, if p = 0 then .normal else .urgent,
          decide (96 < text.length), text.take 96, s.radio.arrivalCount⟩ s, .applied)
      else (count .inboxDrops s, .refusedFull)
    else (s, .refusedInvalid) := by
  have zero : ∀ b : Byte, b = 0 ↔ b.toNat = 0 := fun _ => BitVec.toNat_eq
  by_cases known : p.toNat ≤ 1
  · have priority : priorityArg (byteAt (p :: n :: text) 0) = some (if p = 0 then .normal else .urgent) := by
      rw [byteAt_zero, priorityArg_some known]
      simp only [zero]
    have fits : (1 ≤ byteAt (p :: n :: text) 1 ∧ (p :: n :: text).length = 2 + byteAt (p :: n :: text) 1) ↔
        p.toNat ≤ 1 ∧ n ≠ 0 ∧ n.toNat = text.length := by
      rw [byteAt_succ, byteAt_zero, List.length_cons, List.length_cons, ne_eq, zero]
      omega
    simp only [applyText, priority, fits]
    split
    · rename_i good
      rw [byteAt_succ, byteAt_zero, good.2.2]
      rfl
    · rfl
  · have priority : priorityArg (byteAt (p :: n :: text) 0) = none := priorityArg_none (not_le.mp known)
    simp only [applyText, priority, known, false_and, if_false]

/-- The frame of a command carries a bulletin, or is a beacon (Formats). -/
theorem frameOf_bulletin {i : Instr} {f : Frame} (frame : frameOf i = some f) (other : f.kind ≠ 0x01) :
    ∃ k, bulletinKindOf f.kind = some k := by
  cases i <;> cases frame <;> first | exact absurd rfl other | exact ⟨_, rfl⟩

/-- Settles O49: the stops put (`putStop_put`), the text by its fields (`applyText_fields`), each as taken
(`bulletin_taken`), and the duplicates (`bulletin_again`). -/
theorem stopsTextsAndDuplicatesAreTaken : Obligations.StopsTextsAndDuplicatesAreTaken := by
  intro h s tables
  refine ⟨fun new => ⟨fun body good => ?_, fun body good => ?_,
    fun body short good => ⟨_, _, rfl, bulletin_taken good rfl new (applyText_short short)⟩,
    fun p n text good => ?_⟩, fun i f e frame header other good heard station serial => ?_⟩
  · have unmistaken : ([1] : List Byte) ≠ [2] := by decide
    by_cases one : body = [1]
    · exact ⟨_, _, _, _, rfl, bulletin_taken good rfl new (applyStopOrder_service one), fun _ => ⟨rfl, putStop_put ..⟩,
        fun two => absurd (one.symm.trans two) unmistaken, absurd one⟩
    · by_cases two : body = [2]
      · exact ⟨_, _, _, _, rfl, bulletin_taken good rfl new (applyStopOrder_emergency two), (absurd · one),
          fun _ => ⟨rfl, putStop_put ..⟩, fun _ => absurd two⟩
      · exact ⟨_, _, _, _, rfl, bulletin_taken good rfl new ((if_neg one).trans (if_neg two)),
          (absurd · one), (absurd · two), fun _ _ => ⟨rfl, rfl⟩⟩
  · by_cases empty : body = []
    · exact ⟨_, _, _, _, rfl, bulletin_taken good rfl new (if_pos (List.length_eq_zero_iff.mpr empty)),
        fun _ => ⟨rfl, putStop_put ..⟩, absurd empty⟩
    · exact ⟨_, _, _, _, rfl, bulletin_taken good rfl new (if_neg (mt List.length_eq_zero_iff.mp empty)),
        (absurd · empty), fun _ => ⟨rfl, rfl⟩⟩
  · have free : (bulletinCounted s).radio.freeCount = s.radio.freeCount := by rw [bulletinCounted_radio]
    have arrivals : (bulletinCounted s).radio.arrivalCount = s.radio.arrivalCount := by rw [bulletinCounted_radio]
    have fields := applyText_fields (h := h) (p := p) (n := n) (text := text) (s := bulletinCounted s)
    rw [free, arrivals] at fields
    by_cases fits : p.toNat ≤ 1 ∧ n ≠ 0 ∧ n.toNat = text.length
    · have taken := fields.trans (if_pos fits)
      have sound : ¬(1 < p.toNat ∨ n = 0 ∨ n.toNat ≠ text.length) := by
        rintro (unknown | none | other)
        exacts [absurd fits.1 (not_le.mpr unknown), fits.2.1 none, other fits.2.2]
      by_cases room : 0 < s.radio.freeCount
      · exact ⟨_, _, _, _, rfl, bulletin_taken good rfl new (taken.trans (if_pos room)), (absurd · sound),
          fun _ _ _ => ⟨fun full => absurd full room.ne', fun _ => ⟨rfl, storeMessage_stored ..⟩⟩⟩
      · exact ⟨_, _, _, _, rfl, bulletin_taken good rfl new (taken.trans (if_neg room)), (absurd · sound),
          fun _ _ _ => ⟨fun _ => ⟨rfl, count_counted ..⟩, (absurd · room)⟩⟩
    · exact ⟨_, _, _, _, rfl, bulletin_taken good rfl new (fields.trans (if_neg fits)), fun _ => ⟨rfl, rfl⟩,
        fun known some whole => absurd ⟨known, some, whole⟩ fits⟩
  · obtain ⟨_, kind, body⟩ := f
    obtain rfl := header
    obtain ⟨k, carries⟩ := frameOf_bulletin frame other
    exact ⟨_, _, _, exec_frame frame s, count_counted .goodFrames s, count_counted .duplicates _,
      bulletin_again good carries tables.distinct heard station serial ▸ offerAck_offered e _⟩

end Sys2Proof.Machine
end

section
/-!
The interpolations of the curves between two of their points, each as its quotient (`gravity_between`,
`gradientLimit_between`, `dutyOf_between`), and that the duty rises with the target (`dutyOf_monotone`)
(R77, R78, R113, R114).
-/

namespace Sys2Proof.Machine

/-- Gravity between two of its points, both included (R77). -/
theorem gravity_between {x k lo hi : Nat} (points : (k, lo, hi) ∈ [(0, 0, 976), (100, 976, 1924), (200, 1924, 2818)])
    (low : k ≤ x) (high : x ≤ k + 100) : gravity x = lo + ceilDiv ((hi - lo) * (x - k)) 100 := by
  simp only [List.mem_cons, Prod.mk.injEq, List.not_mem_nil, or_false] at points
  unfold gravity ceilDiv
  obtain ⟨rfl, rfl, rfl⟩ | ⟨rfl, rfl, rfl⟩ | ⟨rfl, rfl, rfl⟩ := points <;> split_ifs <;> omega

/-- A quotient rounded up is the least whose product reaches the dividend. -/
theorem ceilDiv_brackets (n : Nat) {d : Nat} (pos : 0 < d) : n ≤ d * ceilDiv n d ∧ d * ceilDiv n d < n + d := by
  have floor := Nat.div_add_mod (n + (d - 1)) d
  have rest := Nat.mod_lt (n + (d - 1)) pos
  unfold ceilDiv
  omega

/-! ### The gradient limit -/

/-- The interpolation between two limits that are not negative is not negative. -/
theorem interpolation_nonneg {lo hi n : Int} (low : 0 ≤ lo) (high : 0 ≤ hi) (from0 : 0 ≤ n) (to100 : n ≤ 100) :
    0 ≤ lo + (hi - lo) * n / 100 := by
  have weighed : 0 ≤ lo * (100 - n) + hi * n :=
    add_nonneg (mul_nonneg low (by omega)) (mul_nonneg high from0)
  have same : lo * (100 - n) + hi * n = 100 * lo + (hi - lo) * n := by ring
  omega

/-- The gradient limit between two of its points, both included (R78). -/
theorem gradientLimit_between {glc : List Nat} {i lo hi : Nat} {g : Int} (loAt : glc[i]? = some lo)
    (hiAt : glc[i + 1]? = some hi) (low : 100 * (i : Int) - 300 ≤ g) (high : g ≤ 100 * (i : Int) - 200) :
    (gradientLimit glc g : Int) = lo + ((hi : Int) - lo) * (g - (100 * (i : Int) - 300)) / 100 := by
  have loIs : glc.getD i 0 = lo := by simp [List.getD, loAt]
  have hiIs : glc.getD (i + 1) 0 = hi := by simp [List.getD, hiAt]
  obtain rfl | below := high.eq_or_lt
  · have index : ((100 * (i : Int) - 200 + 300) / 100).toNat = i + 1 := by omega
    have point : 100 * (i : Int) - 200 = 100 * ((i + 1 : Nat) : Int) - 300 := by push_cast; ring
    have whole : 100 * (i : Int) - 200 - (100 * (i : Int) - 300) = 100 := by ring
    simp only [gradientLimit, index, hiIs]
    rw [if_pos point, whole, Int.mul_ediv_cancel _ (by decide)]
    omega
  · have index : ((g + 300) / 100).toNat = i := by omega
    simp only [gradientLimit, index, loIs, hiIs]
    split
    · rename_i point
      simp [← point]
    · exact Int.toNat_of_nonneg (interpolation_nonneg (by omega) (by omega) (by omega) (by omega))

/-! ### The duty -/

/-- The duty between two points of which the second lies no lower (R114). -/
theorem dutyBetween_eq {a b : Nat × Nat} (rises : a.2 ≤ b.2) (apart : a.1 < b.1) {x : Nat} (low : a.1 ≤ x) :
    dutyBetween a b x = a.2 + (b.2 - a.2) * (x - a.1) / (b.1 - a.1) := by
  unfold dutyBetween
  rw [← Nat.cast_sub rises, ← Nat.cast_sub low, ← Nat.cast_sub apart.le, ← Nat.cast_mul, ← Int.natCast_ediv,
    ← Nat.cast_add, Int.toNat_natCast]

theorem dutyBetween_low {a b : Nat × Nat} (rises : a.2 ≤ b.2) (apart : a.1 < b.1) : dutyBetween a b a.1 = a.2 := by
  simp [dutyBetween_eq rises apart]

theorem dutyBetween_high {a b : Nat × Nat} (rises : a.2 ≤ b.2) (apart : a.1 < b.1) : dutyBetween a b b.1 = b.2 := by
  rw [dutyBetween_eq rises apart apart.le, Nat.mul_div_cancel _ (Nat.sub_pos_of_lt apart), Nat.add_sub_cancel' rises]

/-- The points of a valve curve are of ascending pressures, and their duties do not descend (R38). -/
structure ValveRises (v : Quad (Nat × Nat)) : Prop where
  apart1 : v.d1.1 < v.d2.1
  apart2 : v.d2.1 < v.d3.1
  apart3 : v.d3.1 < v.d4.1
  rises1 : v.d1.2 ≤ v.d2.2
  rises2 : v.d2.2 ≤ v.d3.2
  rises3 : v.d3.2 ≤ v.d4.2

theorem valveStep_iff {a b : Nat × Nat} : valveStep a b = true ↔ a.1 < b.1 ∧ a.2 ≤ b.2 := by
  simp [valveStep]

theorem ValveRises.of_steps {v : Quad (Nat × Nat)} (first : valveStep v.d1 v.d2 = true)
    (second : valveStep v.d2 v.d3 = true) (third : valveStep v.d3 v.d4 = true) : ValveRises v := by
  obtain ⟨apart1, rises1⟩ := valveStep_iff.mp first
  obtain ⟨apart2, rises2⟩ := valveStep_iff.mp second
  obtain ⟨apart3, rises3⟩ := valveStep_iff.mp third
  exact ⟨apart1, apart2, apart3, rises1, rises2, rises3⟩

section
variable {v : Quad (Nat × Nat)} {a b : Nat × Nat} {x : Nat}

/-- Below the first point the duty is 0 (R114). -/
theorem dutyOf_below (below : x < v.d1.1) : dutyOf v x = 0 := by
  simp [dutyOf, below]

/-- At the last point and above it the duty is that point's (R114). -/
theorem ValveRises.dutyOf_above (h : ValveRises v) (above : v.d4.1 ≤ x) : dutyOf v x = v.d4.2 := by
  obtain ⟨apart1, apart2, apart3, -, -, -⟩ := h
  unfold dutyOf
  split_ifs <;> first | rfl | omega

theorem ValveRises.step (h : ValveRises v) (points : (a, b) ∈ [(v.d1, v.d2), (v.d2, v.d3), (v.d3, v.d4)]) :
    a.1 < b.1 ∧ a.2 ≤ b.2 := by
  obtain ⟨apart1, apart2, apart3, rises1, rises2, rises3⟩ := h
  simp only [List.mem_cons, Prod.mk.injEq, List.not_mem_nil, or_false] at points
  obtain ⟨rfl, rfl⟩ | ⟨rfl, rfl⟩ | ⟨rfl, rfl⟩ := points
  exacts [⟨apart1, rises1⟩, ⟨apart2, rises2⟩, ⟨apart3, rises3⟩]

/-- The duty between two neighbouring points, both included (R114). -/
theorem ValveRises.dutyOf_between (h : ValveRises v) (points : (a, b) ∈ [(v.d1, v.d2), (v.d2, v.d3), (v.d3, v.d4)])
    (pos : x ≠ 0) (low : a.1 ≤ x) (high : x ≤ b.1) :
    dutyOf v x = a.2 + (b.2 - a.2) * (x - a.1) / (b.1 - a.1) := by
  obtain ⟨apart, rises⟩ := h.step points
  rw [← dutyBetween_eq rises apart low]
  obtain ⟨apart1, apart2, apart3, rises1, rises2, rises3⟩ := h
  simp only [List.mem_cons, Prod.mk.injEq, List.not_mem_nil, or_false] at points
  unfold dutyOf
  obtain rfl | below := high.eq_or_lt
  · rw [dutyBetween_high rises apart]
    obtain ⟨rfl, rfl⟩ | ⟨rfl, rfl⟩ | ⟨rfl, rfl⟩ := points
    · rw [if_neg pos, if_neg (by omega), if_neg (by omega), if_pos apart2, dutyBetween_low rises2 apart2]
    · rw [if_neg pos, if_neg (by omega), if_neg (by omega), if_neg (by omega), if_pos apart3,
        dutyBetween_low rises3 apart3]
    · rw [if_neg pos, if_neg (by omega), if_neg (by omega), if_neg (by omega), if_neg (by omega)]
  · obtain ⟨rfl, rfl⟩ | ⟨rfl, rfl⟩ | ⟨rfl, rfl⟩ := points <;> split_ifs <;> first | rfl | omega

/-- No duty is above that of the next kPa (R114). -/
theorem ValveRises.dutyOf_le_succ (h : ValveRises v) (x : Nat) : dutyOf v x ≤ dutyOf v (x + 1) := by
  have within : ∀ {a b}, (a, b) ∈ [(v.d1, v.d2), (v.d2, v.d3), (v.d3, v.d4)] → a.1 ≤ x → x < b.1 →
      dutyOf v x ≤ dutyOf v (x + 1) := by
    intro a b points low high
    obtain rfl | pos := eq_or_ne x 0
    · exact Nat.zero_le _
    · rw [h.dutyOf_between points pos low high.le, h.dutyOf_between points x.succ_ne_zero (by omega) high]
      gcongr
      exact x.le_succ
  by_cases below : x < v.d1.1
  · rw [dutyOf_below below]
    exact Nat.zero_le _
  by_cases first : x < v.d2.1
  · exact within (a := v.d1) (b := v.d2) (by simp) (not_lt.mp below) first
  by_cases second : x < v.d3.1
  · exact within (a := v.d2) (b := v.d3) (by simp) (not_lt.mp first) second
  by_cases third : x < v.d4.1
  · exact within (a := v.d3) (b := v.d4) (by simp) (not_lt.mp second) third
  · rw [h.dutyOf_above (not_lt.mp third), h.dutyOf_above (by omega)]

/-- The duty does not fall as the target rises (R114). -/
theorem ValveRises.dutyOf_monotone (h : ValveRises v) : Monotone (dutyOf v) :=
  monotone_nat_of_le_succ h.dutyOf_le_succ

end

/-! ### The target and its band -/

/-- The target of a level: from P_LO toward P_HI by thousandths (R113). -/
theorem targetOf_level {p : Params} {level : Nat} (bound : p.pHi ≤ 5000) (some : 1 ≤ level) (most : level ≤ 1000)
    (order : p.pLo < p.pHi) : targetOf p level = p.pLo + (p.pHi - p.pLo) * level / 1000 := by
  have within : (p.pHi - p.pLo) * level / 1000 ≤ p.pHi - p.pLo :=
    Nat.div_le_of_le_mul (by rw [Nat.mul_comm 1000]; exact Nat.mul_le_mul_left _ most)
  unfold targetOf
  rw [if_neg (by omega), Nat.min_eq_right (by omega)]

/-- A reading in the band of a target (R116). -/
theorem inBand_iff (target v : Nat) : (bandOf target).1 ≤ v ∧ v ≤ (bandOf target).2 ↔
    if target = 0 then v < 150
    else target ≤ v + max 150 (target / 10) ∧ v ≤ target + max 150 (target / 10) := by
  unfold bandOf
  split
  · simp only
    omega
  · simp only [Nat.sub_le_iff_le_add]

/-- Settles O53: each curve by the quotient of its interpolation (`gravity_between`, `gradientLimit_between`,
`targetOf_level`, `ValveRises.dutyOf_between`), whose roundings bracket it. -/
theorem curvesAreInterpolated : Obligations.CurvesAreInterpolated := by
  refine ⟨fun x k lo hi points low high => ?_, fun glc i lo hi g a _ loAt hiAt base low high => ?_,
    fun p level order bound some most => ⟨rfl, ?_⟩, fun v first second third => ?_,
    fun _ => ⟨rfl, rfl, rfl, fun _ => rfl⟩, rfl, rfl, fun target v => ⟨fun zero => ?_, fun pos => ?_⟩⟩
  · have brackets := ceilDiv_brackets ((hi - lo) * (x - k)) (d := 100) (by decide)
    rw [gravity_between points low high]
    omega
  · subst base
    rw [gradientLimit_between loAt hiAt low (by omega)]
    omega
  · rw [targetOf_level bound some most order]
    omega
  · have h := ValveRises.of_steps first second third
    refine ⟨rfl, fun x => dutyOf_below, fun x above => h.dutyOf_above above.le, fun x y le => h.dutyOf_monotone le,
      fun a b x points pos low high => ?_⟩
    have apart : 0 < b.1 - a.1 := Nat.sub_pos_of_lt (h.step points).1
    rw [h.dutyOf_between points pos low high, Nat.add_sub_cancel_left]
    exact ⟨Nat.le_add_right .., Nat.div_mul_le_self .., Nat.lt_div_mul_add apart⟩
  · rw [inBand_iff, if_pos zero]
  · rw [inBand_iff, if_neg pos.ne']

end Sys2Proof.Machine
end

section
/-!
A supervision cycle: the level put (`putLevel_put`), the first of the lowest curves (`lowestCurve_found`,
`lowestCurve_kept`), and the level of a speed by its bounds (`nextLevel_running`) (R88 to R90).
-/

namespace Sys2Proof.Machine

variable {s : State}

/-! ### The level put -/

/-- Every block but the supervisor, the demands, the brake drive and the ports. -/
def levelless : List Block := [.mode, .odo, .store, .limits, .doors, .radio, .memory, .pending]

/-- The level becomes `l`, with the event of a change and the SUPERVISION row (R90). -/
structure LevelPut (l : Level) (s t : State) : Prop where
  sup : t.sup = { s.sup with level := l }
  event : l ≠ s.sup.level → raisedAll .supervision t
  row : RowsFollow { s.dem.rows with supervision := supervisionRow l } s t
  keeps : Keeps levelless s t
  ports : PortsKeep (.supervision :: rowEvents) none s t

theorem putLevel_put (l : Level) (s : State) : LevelPut l s (putLevel l s) := by
  let v : State := { s with sup := { s.sup with level := l } }
  let u := raiseIf (!(l = s.sup.level)) .supervision v
  have dem : u.dem = s.dem := raiseIf_dem v ..
  have before : Keeps levelless s u := fun b hb => by
    cases b <;> first | exact absurd hb (by decide) | simp [Block.same, u, v]
  have raised : PortsKeep (.supervision :: rowEvents) none s u := .raiseIf_of _ .supervision rfl (by decide)
  have written : RowsWritten { u.dem.rows with supervision := supervisionRow l } u (putLevel l s) :=
    writeRows_written _ u
  obtain ⟨follow, keeps, ports⟩ := written
  refine ⟨Eq.trans (keeps .sup (by decide)) (raiseIf_sup v ..), fun changed => ?_, ?_,
    before.trans (keeps.mono (by decide)), raised.trans (ports.mono (by decide) (.inl rfl))⟩
  · have event : raisedAll .supervision u := by
      simp only [u, decide_eq_false changed]
      exact raisedAll_raise _ _
    exact event.mono ports
  · rw [dem] at follow
    exact follow.of_eq dem (raiseIf_drive v ..) (congrArg Odometry.standstill (raiseIf_odo v ..)) (raiseIf_store v ..)

/-! ### The cycle -/

/-- The permitted speed of a cycle and what governs it (R88). -/
def cyclePermit (s : State) : Nat × Governing := permittedSpeed s (staticLimitNow s).2 (targetList s)

/-- The level that a cycle decides (R89). -/
def cycleLevel (s : State) : Level :=
  nextLevel s.sup.level s.odo.standstill s.odo.speed (cyclePermit s).1 s.store.params.mSb
    (emergencyMargin s.store.params)

/-- What a cycle does: each item of the supervisor by the stage that forms it, the event of a change of the level, and
the row (R75, R90). -/
structure Cycled (s t : State) : Prop where
  sup : t.sup = ⟨0, cycleLevel s, (cyclePermit s).1, (staticLimitNow s).2, (staticLimitNow s).1, targetList s,
    (cyclePermit s).2⟩
  event : cycleLevel s ≠ s.sup.level → raisedAll .supervision t
  row : RowsFollow { s.dem.rows with supervision := supervisionRow (cycleLevel s) } s t
  keeps : Keeps levelless s t
  ports : PortsKeep (.supervision :: rowEvents) none s t

theorem superviseOnce_cycled (s : State) : Cycled s (superviseOnce s) := by
  obtain ⟨sup, event, row, keeps, ports⟩ : LevelPut _ _ (superviseOnce s) := putLevel_put ..
  have before : ∀ x, Keeps levelless s { s with sup := x } := fun x b hb => by
    cases b <;> first | rfl | exact absurd hb (by decide)
  exact ⟨sup, event, row.of_eq rfl rfl rfl rfl, (before _).trans keeps, .trans (.of_eq (by rfl)) ports⟩

/-! ### The permitted speed -/

/-- An entry is the first of those of the lowest curve speed of a list, at its index (R88). -/
structure FirstLowest (l : List Target) (k : Nat) (x : Target) : Prop where
  stands : l[k]? = some x
  lowest : ∀ y ∈ l, x.vCurve ≤ y.vCurve
  first : ∀ j y, j < k → l[j]? = some y → x.vCurve < y.vCurve

theorem FirstLowest.head {t : Target} {l : List Target} (lowest : ∀ y ∈ l, t.vCurve ≤ y.vCurve) :
    FirstLowest (t :: l) 0 t :=
  ⟨rfl, List.forall_mem_cons.mpr ⟨le_rfl, lowest⟩, fun j _ before => absurd before j.not_lt_zero⟩

theorem FirstLowest.cons {t x : Target} {l : List Target} {k : Nat} (h : FirstLowest l k x)
    (lower : x.vCurve < t.vCurve) : FirstLowest (t :: l) (k + 1) x where
  stands := h.stands
  lowest := List.forall_mem_cons.mpr ⟨lower.le, h.lowest⟩
  first j y before there := by
    cases j with
    | zero => exact Option.some.inj there ▸ lower
    | succ j => exact h.first j y (Nat.lt_of_succ_lt_succ before) there

/-- The bound stands where no curve speed is below it, and else the first lowest curve speed is taken (R88). -/
theorem lowestCurve_cases (l : List Target) (i bound : Nat) (best : Option Nat) :
    (lowestCurve i bound best l = (bound, best) ∧ ∀ y ∈ l, bound ≤ y.vCurve) ∨
    ∃ k x, lowestCurve i bound best l = (x.vCurve, some (i + k)) ∧ x.vCurve < bound ∧ FirstLowest l k x := by
  induction l generalizing i bound best with
  | nil => exact .inl ⟨rfl, fun _ none => absurd none List.not_mem_nil⟩
  | cons t l ih =>
    unfold lowestCurve
    split
    · rename_i below
      obtain ⟨taken, lowest⟩ | ⟨k, x, taken, lower, first⟩ := ih (i + 1) t.vCurve (some i)
      · exact .inr ⟨0, t, taken, below, .head lowest⟩
      · exact .inr ⟨k + 1, x, by rw [taken, Nat.add_right_comm, Nat.add_assoc], lower.trans below, first.cons lower⟩
    · rename_i notBelow
      have above : bound ≤ t.vCurve := not_lt.mp notBelow
      obtain ⟨taken, lowest⟩ | ⟨k, x, taken, lower, first⟩ := ih (i + 1) bound best
      · exact .inl ⟨taken, List.forall_mem_cons.mpr ⟨above, lowest⟩⟩
      · exact .inr ⟨k + 1, x, by rw [taken, Nat.add_right_comm, Nat.add_assoc], lower,
          first.cons (lower.trans_le above)⟩

theorem permittedSpeed_noPermit {limit : Nat} {l : List Target} (line : s.mode.mode = .line)
    (absent : s.limits.permit = none) : permittedSpeed s limit l = (0, .noPermit) :=
  if_pos ⟨line, absent⟩

/-- The permitted speed but in LINE with no permit: the static limit, or the first lowest curve speed below it
(R88). -/
theorem permittedSpeed_cases {limit : Nat} {l : List Target}
    (other : s.mode.mode ≠ .line ∨ s.limits.permit ≠ none) :
    (permittedSpeed s limit l = (limit, .static) ∧ ∀ y ∈ l, limit ≤ y.vCurve) ∨
    ∃ k x, permittedSpeed s limit l = (x.vCurve, .target k) ∧ x.vCurve < limit ∧ FirstLowest l k x := by
  unfold permittedSpeed
  rw [if_neg (not_and_or.mpr other)]
  obtain ⟨taken, lowest⟩ | ⟨k, x, taken, lower, first⟩ := lowestCurve_cases l 0 limit none
  · exact .inl ⟨by simp only [taken], lowest⟩
  · exact .inr ⟨k, x, by simp only [taken, Nat.zero_add], lower, first⟩

/-! ### The level -/

/-- The service margin is within the emergency margin as used (R39). -/
theorem mSb_le_emergencyMargin (p : Params) : p.mSb ≤ emergencyMargin p :=
  (Nat.le_add_right _ _).trans (le_max_right _ _)

/-- The level but from EMERGENCY, by the speed against the permitted speed and its margins (R89). -/
theorem nextLevel_running {l : Level} {still : Bool} {v vPerm mSb mEb : Nat} (running : l ≠ .emergency)
    (margins : mSb ≤ mEb) :
    (vPerm + mEb < v → nextLevel l still v vPerm mSb mEb = .emergency) ∧
    (v ≤ vPerm + mEb → vPerm + mSb < v → nextLevel l still v vPerm mSb mEb = .service) ∧
    (v ≤ vPerm + mSb → vPerm < v →
      nextLevel l still v vPerm mSb mEb = if l = .service then .service else .warning) ∧
    (v ≤ vPerm → nextLevel l still v vPerm mSb mEb = .normal) := by
  have tests : nextLevel l still v vPerm mSb mEb =
      if vPerm + mEb < v then .emergency
      else if vPerm + mSb < v then .service
      else if vPerm < v then if l = .service then .service else .warning
      else .normal := by
    cases l with
    | emergency => exact absurd rfl running
    | normal => rfl
    | warning => rfl
    | service =>
      simp only [nextLevel, true_and, if_true]
      split_ifs <;> rfl
  rw [tests]
  refine ⟨fun beyond => if_pos beyond, fun within beyond => ?_, fun within above => ?_, fun within => ?_⟩
  · rw [if_neg (by omega), if_pos beyond]
  · rw [if_neg (by omega), if_neg (by omega), if_pos above]
  · rw [if_neg (by omega), if_neg (by omega), if_neg (by omega)]

/-- Settles O41: the cycle whole (`superviseOnce_cycled`), the permitted speed by its cases (`permittedSpeed_cases`),
the level by its bounds (`nextLevel_running`). -/
theorem supervisionDecidesTheLevel : Obligations.SupervisionDecidesTheLevel := by
  rintro v e s rfl rfl
  obtain ⟨sup, event, row, keeps, ports⟩ := superviseOnce_cycled s
  refine ⟨superviseOnce s, rfl, ?_⟩
  rw [sup]
  refine ⟨rfl, fun line absent => ?_, fun other => ?_, fun emergency => ?_, fun running => ?_, event, row, keeps, ports⟩
  · have permit : cyclePermit s = (0, .noPermit) := permittedSpeed_noPermit line absent
    exact ⟨congrArg Prod.fst permit, congrArg Prod.snd permit⟩
  · obtain ⟨permit, lowest⟩ | ⟨k, x, permit, lower, stands, lowest, first⟩ :
      (cyclePermit s = _ ∧ _) ∨ ∃ k x, cyclePermit s = _ ∧ _ := permittedSpeed_cases other
    · rw [permit]
      exact ⟨le_rfl, lowest, .inl ⟨rfl, rfl⟩⟩
    · rw [permit]
      exact ⟨lower.le, lowest, .inr ⟨k, x, rfl, stands, rfl, lower, first⟩⟩
  · simp only [cycleLevel, emergency, nextLevel]
  · exact nextLevel_running running (mSb_le_emergencyMargin _)

end Sys2Proof.Machine
end

section
/-!
The static limit of a supervision cycle, the first of the lowest components (`staticLimitNow_first`), and its target
list: what each entry is (`targetAt_good`) and which candidates stand in it (`mem_targetList_of_enters`)
(R79 to R87).
-/

namespace Sys2Proof.Machine

variable {s : State} {sp : Span} {front : Int}

/-! ### The stretch of the cycle -/

theorem cycleSpan_none (nowhere : s.odo.posState = .unknown ∨ s.store.segments = []) : cycleSpan s = none := by
  obtain unknown | empty := nowhere
  · simp [cycleSpan, envelopeSpan, envelope, unknown]
  · simp [cycleSpan, empty]

theorem cycleSpan_some (span : envelopeSpan s = some sp) (table : s.store.segments ≠ []) : cycleSpan s = some sp := by
  rw [cycleSpan, if_neg (by simpa using table), span]

theorem safeFront_eq (dir : Direction) (sp : Span) :
    safeFront dir sp = if dir = .downLine then sp.low else sp.high := by
  cases dir <;> rfl

theorem overlaps_iff {start stop : Int} : overlaps start stop sp = true ↔ start ≤ sp.high ∧ sp.low < stop := by
  simp [overlaps]

/-- A position in no segment of a table is a gap of it. -/
theorem hasGap_of_segmentAt {l : List Segment} {lo hi y : Int} (nowhere : segmentAt l y = none) (low : lo ≤ y)
    (high : y ≤ hi) : hasGap lo hi l = true :=
  hasGap_of l lo hi y (fun g hg => Bool.eq_false_iff.mpr (List.find?_eq_none.mp nowhere g hg)) low high

/-! ### The static limit -/

theorem modeLimit_eq (s : State) : modeLimit s = modeLimitOf s := by
  unfold modeLimit modeLimitOf
  cases s.mode.mode <;> rfl

theorem segmentLimit_le_lineLimit (p : Params) (dir : Direction) (g : Segment) :
    segmentLimit p dir g ≤ g.lineLimit := by
  cases dir <;> exact min_le_left _ _

/-- A component is the first of the lowest of some: all before it are higher, and none behind it is lower (R80). -/
def FirstOfLowest (c : StaticReason × Nat) (l : List (StaticReason × Nat)) : Prop :=
  ∃ before after, l = before ++ c :: after ∧ (∀ x ∈ before, c.2 < x.2) ∧ ∀ x ∈ after, c.2 ≤ x.2

theorem FirstOfLowest.le {c x : StaticReason × Nat} {l : List (StaticReason × Nat)} (h : FirstOfLowest c l)
    (mem : x ∈ l) : c.2 ≤ x.2 := by
  obtain ⟨before, after, rfl, higher, above⟩ := h
  obtain earlier | rfl | later := List.mem_append.mp mem |>.imp_right List.mem_cons.mp
  exacts [(higher x earlier).le, le_rfl, above x later]

theorem lowestComponent_first (c : StaticReason × Nat) (l : List (StaticReason × Nat)) :
    FirstOfLowest (lowestComponent c l) (c :: l) := by
  induction l generalizing c with
  | nil => exact ⟨[], [], rfl, by simp, by simp⟩
  | cons y l ih =>
    unfold lowestComponent
    split
    · rename_i lower
      have first := ih y
      have least := first.le List.mem_cons_self
      obtain ⟨before, after, parts, higher, above⟩ := first
      exact ⟨c :: before, after, by rw [parts, List.cons_append],
        List.forall_mem_cons.mpr ⟨least.trans_lt lower, higher⟩, above⟩
    · rename_i notLower
      have stays : c.2 ≤ y.2 := not_lt.mp notLower
      obtain ⟨before, after, parts, higher, above⟩ := ih c
      cases before with
      | nil =>
        obtain ⟨same, rest⟩ := List.cons.inj parts
        rw [← same] at above ⊢
        exact ⟨[], y :: l, rfl, by simp, List.forall_mem_cons.mpr ⟨stays, rest ▸ above⟩⟩
      | cons b before =>
        obtain ⟨rfl, rest⟩ := List.cons.inj parts
        obtain ⟨lower, higher⟩ := List.forall_mem_cons.mp higher
        exact ⟨c :: y :: before, after, congrArg (c :: y :: ·) rest,
          List.forall_mem_cons.mpr ⟨lower, List.forall_mem_cons.mpr ⟨lower.trans_le stays, higher⟩⟩, above⟩

/-- A component applies over an envelope, at its limit: the table of R80. -/
inductive Applies (s : State) (sp : Span) : StaticReason × Nat → Prop
  | segment {g : Segment} (mem : g ∈ s.store.segments) (starts : (g.start : Int) ≤ sp.high)
    (ends : sp.low < g.start + g.length) : Applies s sp (.segment, segmentLimit s.store.params s.mode.direction g)
  | unprofiled {y : Int} (table : s.store.segments ≠ []) (low : sp.low ≤ y) (high : y ≤ sp.high)
    (nowhere : segmentAt s.store.segments y = none) : Applies s sp (.unprofiled, s.store.params.shuntLimit)
  | restriction {r : Restriction} (mem : r ∈ s.limits.restrictions) (starts : (r.start : Int) ≤ sp.high)
    (ends : sp.low < r.stop) : Applies s sp (.restriction, r.limit)
  | mode : Applies s sp (.mode, modeLimitOf s)
  | radioLoss (line : s.mode.mode = .line) (lost : s.radio.coverage = .lost) :
    Applies s sp (.radioLoss, s.store.params.radioLossLimit)
  | creep (lost : s.odo.posState = .lost) : Applies s sp (.creep, s.store.params.creepLimit)
  | cabPermit {q : Permit} (present : s.limits.permit = some q) (cab : q.origin = .cab) :
    Applies s sp (.cabPermit, s.store.params.cabPermitLimit)

/-- Each component that applies is among those of the envelope (R80). -/
theorem Applies.mem_staticComponents {c : StaticReason × Nat} (h : Applies s sp c) : c ∈ staticComponents s sp := by
  simp only [staticComponents, component, List.mem_append, List.mem_map, List.mem_filter, List.mem_ite_nil_right,
    List.mem_singleton, or_assoc]
  cases h with
  | segment mem starts ends => exact .inl ⟨_, ⟨mem, overlaps_iff.mpr ⟨starts, ends⟩⟩, rfl⟩
  | unprofiled table low high nowhere =>
    exact .inr (.inl ⟨by simp [table, hasGap_of_segmentAt nowhere low high], rfl⟩)
  | restriction mem starts ends => exact .inr (.inr (.inl ⟨_, ⟨mem, overlaps_iff.mpr ⟨starts, ends⟩⟩, rfl⟩))
  | mode => simp [modeLimit_eq]
  | radioLoss line lost => simp [line, lost]
  | creep lost => simp [lost]
  | cabPermit present cab => simp [present, cab]

theorem staticLimitNow_nowhere (nowhere : cycleSpan s = none) : staticLimitNow s = (.mode, modeLimitOf s) := by
  rw [staticLimitNow, nowhere, modeLimit_eq]

/-- The static limit over an envelope is the first of the lowest components (R80). -/
theorem staticLimitNow_first (span : cycleSpan s = some sp) :
    FirstOfLowest (staticLimitNow s) (staticComponents s sp) := by
  have mode := (Applies.mode (s := s) (sp := sp)).mem_staticComponents
  simp only [staticLimitNow, span]
  cases parts : staticComponents s sp with
  | nil => exact absurd (parts ▸ mode) List.not_mem_nil
  | cons c rest => exact lowestComponent_first c rest

/-! ### The net deceleration -/

theorem leastOf_le {z x : Nat} {l : List Nat} (mem : x ∈ l) : leastOf z l ≤ x := by
  cases l with
  | nil => exact absurd mem List.not_mem_nil
  | cons y l => exact (List.min?_eq_some_iff.mp (List.min?_cons' (x := y) (xs := l))).2 x mem

section
variable {p : Params} {f : FaultState} {dir : Direction} {l : List Segment} {lo hi y : Int}

/-- No segment that holds a position of the stretch undercuts the net deceleration (R86). -/
theorem netDecel_le_profiled {g : Segment} (mem : g ∈ l) (starts : (g.start : Int) ≤ y) (ends : y < g.start + g.length)
    (low : lo ≤ y) (high : y ≤ hi) :
    netDecel p f dir l lo hi ≤ brakeDecel p f g.kind - gravity (descentOf dir g.gradient) := by
  have met : overlaps g.start g.upEnd ⟨lo, hi⟩ = true :=
    overlaps_iff.mpr ⟨starts.trans high, low.trans_lt ends⟩
  exact leastOf_le (List.mem_append_left _ (List.mem_map_of_mem (List.mem_filter.mpr ⟨mem, met⟩)))

/-- Nor does the steepest adhesion descent, where some position of the stretch lies in no segment (R86). -/
theorem netDecel_le_unprofiled (nowhere : segmentAt l y = none) (low : lo ≤ y) (high : y ≤ hi) :
    netDecel p f dir l lo hi ≤ brakeDecel p f .adhesion - 781 := by
  refine leastOf_le (List.mem_append_right _ ?_)
  rw [if_pos (hasGap_of_segmentAt nowhere low high)]
  exact List.mem_singleton.mpr rfl

end

/-! ### An entry -/

/-- The positions ahead up to a point are those between the front and it (R86). -/
theorem ahead_iff {dir : Direction} {point y : Int} {d : Nat} (distance : distanceAhead dir front point = d) :
    0 ≤ distanceAhead dir front y ∧ distanceAhead dir front y ≤ d ↔ min front point ≤ y ∧ y ≤ max front point := by
  cases dir <;> simp only [distanceAhead] at * <;> omega

/-- The curve speed is the root of the sum of its squares, rounded down (R87). -/
theorem curveSpeed_brackets (v a d : Nat) :
    curveSpeed v a d * curveSpeed v a d ≤ v * v + 2 * a * d ∧
    v * v + 2 * a * d < (curveSpeed v a d + 1) * (curveSpeed v a d + 1) := by
  rw [curveSpeed, floorSqrt_eq_sqrt]
  exact ⟨Nat.sqrt_le _, Nat.lt_succ_sqrt _⟩

/-- An entry formed for a distance in the window, toward its point or, held, toward the front itself, is as R85 to R87
have it. -/
theorem targetAt_good {c : Candidate} {d : Nat} {held : Bool} (window : d ≤ 6000)
    (distance : distanceAhead s.mode.direction front (if held then front else c.point) = d) :
    TargetGood front s (targetAt s front c d held) where
  window := window
  reaction := ceilDiv_brackets _ (by decide)
  effective := rfl
  curve := curveSpeed_brackets _ _ _
  profiled g mem y starts ends low high := by
    obtain ⟨low, high⟩ := (ahead_iff distance).mp ⟨low, high⟩
    exact netDecel_le_profiled mem starts ends low high
  unprofiled y nowhere low high := by
    obtain ⟨low, high⟩ := (ahead_iff distance).mp ⟨low, high⟩
    exact netDecel_le_unprofiled nowhere low high
  met lengths joined := by
    obtain ⟨y, low, high, term⟩ := netDecel_met s.store.params s.drive.faultState s.mode.direction s.store.segments
      _ _ (min_le_max (a := front) (b := if held then front else (c.point : Int))) lengths joined
    obtain ⟨low, high⟩ := (ahead_iff distance).mpr ⟨low, high⟩
    exact ⟨y, low, high, term⟩

/-! ### The list -/

/-- Sorting neither drops nor adds an entry (R84). -/
theorem mem_sortTargets {x : Target} {l : List Target} : x ∈ sortTargets l ↔ x ∈ l := by
  have same := congrArg (x ∈ ·) ((sortTargets_at l).2 x.distance)
  simpa using same

theorem targetList_nowhere (nowhere : cycleSpan s = none) : targetList s = [] := by
  rw [targetList, nowhere]

theorem targetList_sorted (s : State) : (targetList s).Pairwise fun x y => x.distance ≤ y.distance := by
  unfold targetList
  split
  · exact .nil
  · exact (sortTargets_at _).1

theorem inWindow_eq_some {c : Candidate} {x : Target} (entered : inWindow s front c = some x) :
    ∃ d : Nat, distanceAhead s.mode.direction front c.point = d ∧ d ≤ 6000 ∧ x = targetAt s front c d false := by
  unfold inWindow at entered
  obtain ⟨⟨ahead, near⟩, formed⟩ := Option.ite_none_right_eq_some.mp entered
  have window : (Config.targetWindow : Int) = 6000 := rfl
  exact ⟨_, (Int.toNat_of_nonneg ahead).symm, by omega, (Option.some.inj formed).symm⟩

theorem mem_permitTarget {x : Target} (mem : x ∈ permitTarget s front) : ∃ (q : Permit) (d : Int),
    d = distanceAhead s.mode.direction front q.endPos ∧ d ≤ 6000 ∧
    x = targetAt s front ⟨.permitEnd, q.endPos, 0⟩ d.toNat (decide (d < 0)) := by
  unfold permitTarget at mem
  split at mem
  · rename_i q _ _
    obtain ⟨near, formed⟩ := List.mem_ite_nil_right.mp mem
    exact ⟨q, _, rfl, near, List.mem_singleton.mp formed⟩
  · exact absurd mem List.not_mem_nil

theorem distanceAhead_self (dir : Direction) (front : Int) : distanceAhead dir front front = 0 := by
  cases dir <;> exact Int.sub_self front

/-- Each entry of the list is one formed for a distance in the window (R83). -/
theorem targetList_good (span : cycleSpan s = some sp) :
    ∀ x ∈ targetList s, TargetGood (safeFront s.mode.direction sp) s x := by
  intro x mem
  simp only [targetList, span, mem_sortTargets, List.mem_append, List.mem_filterMap] at mem
  obtain ⟨c, -, entered⟩ | permit := mem
  · obtain ⟨d, distance, near, rfl⟩ := inWindow_eq_some entered
    exact targetAt_good near distance
  · obtain ⟨q, d, rfl, near, rfl⟩ := mem_permitTarget permit
    refine targetAt_good (by omega) ?_
    split
    · rename_i behind
      rw [distanceAhead_self, Int.toNat_of_nonpos (of_decide_eq_true behind).le, Nat.cast_zero]
    · rename_i ahead
      exact (Int.toNat_of_nonneg (by simpa using ahead)).symm

/-- A candidate that enters at a distance of the window stands in the list there (R83). -/
theorem mem_targetList_of_enters {c : TargetKind × Nat × Nat} {n : Nat} (span : cycleSpan s = some sp)
    (candidate : c ∈ candidatesOf s) (near : n ≤ 6000)
    (enters : entersAt s.mode.direction (safeFront s.mode.direction sp) n c = true) :
    ∃ x ∈ targetList s, x.kind = c.1 ∧ x.point = c.2.1 ∧ x.speed = c.2.2 ∧ x.distance = n := by
  have mem := targetList_at s sp n span near ▸ List.mem_filter.mpr ⟨candidate, enters⟩
  obtain ⟨x, filtered, rfl⟩ := List.mem_map.mp mem
  obtain ⟨listed, distance⟩ := List.mem_filter.mp filtered
  exact ⟨x, listed, rfl, rfl, rfl, of_decide_eq_true distance⟩

/-- A candidate ahead within the window is listed (R83). -/
theorem targetListed_of_candidate {t : State} {kind : TargetKind} {point speed : Nat} (span : cycleSpan s = some sp)
    (list : t.sup.targets = targetList s) (candidate : (kind, point, speed) ∈ candidatesOf s) :
    TargetListed (safeFront s.mode.direction sp) kind point speed s t := by
  intro ahead near
  obtain ⟨n, distance⟩ := Int.eq_ofNat_of_zero_le ahead
  obtain ⟨x, listed, kindIs, pointIs, speedIs, rfl⟩ := mem_targetList_of_enters (n := n) span candidate (by omega)
    (by simp [entersAt, distance])
  exact ⟨x, list ▸ listed, kindIs, pointIs, speedIs, distance.symm⟩

/-! ### The candidates by their kinds -/

theorem segment_candidate {i : Nat} {g : Segment} (there : s.store.segments[i]? = some g) :
    (.segment i, if s.mode.direction = .downLine then g.start + g.length else g.start,
      segmentLimit s.store.params s.mode.direction g) ∈ candidatesOf s := by
  refine List.mem_append_left _ (List.mem_append_left _ (List.mem_append_left _ (List.mem_map.mpr ⟨(g, i), ?_, rfl⟩)))
  exact List.mem_zipIdx_iff_getElem?.mpr there

theorem edge_candidate {first last : Segment} (head : s.store.segments.head? = some first)
    (tail : s.store.segments.getLast? = some last) :
    (.tableEdge, if s.mode.direction = .downLine then first.start else last.start + last.length,
      s.store.params.shuntLimit) ∈ candidatesOf s := by
  refine List.mem_append_left _ (List.mem_append_left _ (List.mem_append_right _ ?_))
  rw [head, tail]
  split <;> exact List.mem_singleton.mpr rfl

theorem restriction_candidate {r : Restriction} (mem : r ∈ s.limits.restrictions) :
    (.restriction r.key r.state, if s.mode.direction = .downLine then r.stop else r.start, r.limit) ∈ candidatesOf s :=
  List.mem_append_left _ (List.mem_append_right _ (List.mem_map.mpr ⟨r, mem, rfl⟩))

theorem permit_candidate {q : Permit} (line : s.mode.mode = .line) (present : s.limits.permit = some q) :
    (.permitEnd, q.endPos, 0) ∈ candidatesOf s := by
  refine List.mem_append_right _ ?_
  rw [if_pos line, present]
  exact List.mem_singleton.mpr rfl

/-- Settles O42: the static limit (`staticLimitNow_first`) below each component (`Applies.mem_staticComponents`), the
list at each distance (`targetList_at`) in its order (`targetList_sorted`), its entries (`targetList_good`) and its
candidates (`targetListed_of_candidate`). -/
theorem staticLimitAndTargetsAreFormed : Obligations.StaticLimitAndTargetsAreFormed := by
  intro s
  have sup := (superviseOnce_cycled s).sup
  have list : (superviseOnce s).sup.targets = targetList s := congrArg Supervisor.targets sup
  refine ⟨superviseOnce s, rfl, fun nowhere => ?_, fun sp front p dir envelope table hp hd hf => ?_⟩
  · have absent := cycleSpan_none nowhere
    rw [sup, targetList_nowhere absent, staticLimitNow_nowhere absent]
    exact ⟨rfl, rfl, rfl⟩
  · subst hp hd
    have span := cycleSpan_some envelope table
    obtain rfl : front = safeFront s.mode.direction sp := hf.trans (safeFront_eq ..).symm
    have first := staticLimitNow_first span
    have least {c} (applies : Applies s sp c) : (staticLimitNow s).2 ≤ c.2 := first.le applies.mem_staticComponents
    rw [sup]
    refine ⟨first, fun g mem starts ends => ?_, fun r mem starts ends => least (.restriction mem starts ends),
      fun y low high nowhere => least (.unprofiled table low high nowhere), least .mode,
      fun line lost => least (.radioLoss line lost), fun lost => least (.creep lost),
      fun q present cab => least (.cabPermit present cab), targetList_sorted s,
      fun n near => targetList_at s sp n span near, targetList_good span,
      fun i g there => targetListed_of_candidate span list (segment_candidate there),
      fun f l head tail => targetListed_of_candidate span list (edge_candidate head tail),
      fun r mem => targetListed_of_candidate span list (restriction_candidate mem), fun q line present near => ?_⟩
    · have within := least (.segment mem starts ends)
      exact ⟨within.trans (segmentLimit_le_lineLimit ..), within⟩
    · have forward :
          (max 0 (distanceAhead s.mode.direction (safeFront s.mode.direction sp) q.endPos)).toNat ≤ 6000 := by
        omega
      obtain ⟨x, listed, kind, point, speed, distance⟩ :=
        mem_targetList_of_enters span (permit_candidate line present) forward (by simp [entersAt])
      exact ⟨x, listed, kind, point, speed, by omega⟩

end Sys2Proof.Machine
end

section
/-!
SUPPORT. What hearing a telegram leaves of the demands and of the brakes (R13, R14), and what a port's row is when one
of its parts is written (R94 to R97).
-/

namespace Sys2Proof.Machine

variable {p : Port} {s : State}

/-! ### The demands after a telegram -/

theorem linkRow_ne_emergency (lost still : Bool) : linkRow lost still ≠ .emergency := by
  cases lost <;> cases still <;> decide

/-- The demands and the brake drive after a telegram was heard, which may move the LINK row, never to EMERGENCY. -/
structure BrakesHeard (s t : State) : Prop where
  rows : t.dem.rows = { s.dem.rows with link := t.dem.rows.link }
  latch : t.dem.latch = s.dem.latch
  alarm : t.dem.alarm = s.dem.alarm
  drive : DriveKeeps s.drive t.drive

theorem completeTelegram_brakes (p : Port) (s : State) : BrakesHeard s (completeTelegram p s) := by
  have heard := completeTelegram_heard p s
  by_cases up : ∀ l, trainlineOf p = some l → (linkOf l s.mode).state = .up
  · obtain ⟨dem, drive, _⟩ := heard.quiet up
    exact ⟨by rw [dem], by rw [dem], by rw [dem], drive ▸ .refl _⟩
  · push Not at up
    obtain ⟨l, port, down⟩ := up
    obtain ⟨dem, drive, _⟩ := heard.follow l port down
    have calm : becomesEmergency s.dem.rows
        { s.dem.rows with link := linkRow (holderLinkLost (completeTelegram p s).mode) s.odo.standstill } = false := by
      refine (becomesEmergency_following _ s.dem.rows.doors s.dem.rows.radio _ s.dem.rows.alarm
        s.dem.rows.odometry).trans ?_
      simp only [flares_self, Bool.or_false, Bool.false_or]
      simp [flares, linkRow_ne_emergency]
    exact ⟨by rw [dem.rows], by rw [dem.latch, calm, Bool.or_false], dem.alarm, drive⟩

/-- No port's row is the LINK row. -/
theorem ofPort_completeTelegram (p q : Port) (s : State) :
    (completeTelegram p s).dem.rows.ofPort q = s.dem.rows.ofPort q := by
  rw [(completeTelegram_brakes p s).rows]
  cases q <;> rfl

/-- A command of the holder from another port is refused (R175). -/
theorem Answered.of_stranger (code : Byte) (rule : Rule) (other : isHolder p s = false) :
    Answered p code (plainReply (if p = .c then .notPermitted else .notAuthority)) allButPorts [] s
      (holdAnswer p code (asHolder p rule (completeTelegram p s))) := by
  refine .of_refuse ?_
  rw [asHolder_refused rule (by rwa [isHolder_completeTelegram]), notHolderReply_eq, apply_ite plainReply]

/-! ### A port's own row -/

/-- Writing a port's row can bring that row alone to EMERGENCY. -/
theorem becomesEmergency_updPort (p : Port) (f : CabRow → CabRow) (r : Rows) :
    becomesEmergency r (r.updPort p f) = flares (r.ofPort p).kind (f (r.ofPort p)).kind := by
  have each : ∀ new : Rows, becomesEmergency r new = allRows.any fun x => flares (r.kind x) (new.kind x) := fun _ => rfl
  cases p <;> simp [each, allRows, Rows.kind, Rows.updPort, Rows.ofPort, flares_self]

theorem kind_updPort (p : Port) (f : CabRow → CabRow) (r : Rows) :
    (r.updPort p f).kind (rowOfPort p) = (f (r.ofPort p)).kind := by
  cases p <;> rfl

theorem legalService_rank {k : Kind} (legal : legalService k = true) : k.rank < Kind.emergency.rank := by
  cases k with
  | service n =>
    simp only [legalService, Bool.and_eq_true, decide_eq_true_eq] at legal
    simp only [Kind.rank]
    omega
  | none | full => decide
  | hold | emergency => cases legal

theorem legalService_ne_emergency {k : Kind} (legal : legalService k = true) : k ≠ .emergency := by
  rintro rfl
  cases legal

/-- A row whose emergency part is NONE is its service part. -/
theorem CabRow.kind_service {r : CabRow} (clear : r.emergency = false) : r.kind = r.service := by
  simp [CabRow.kind, clear, emergencyPart, Kind.stronger, Kind.rank]

/-- A row whose service part may stand is at EMERGENCY by its emergency part alone. -/
theorem CabRow.kind_emergency_iff {r : CabRow} (legal : legalService r.service = true) :
    r.kind = .emergency ↔ r.emergency = true := by
  cases part : r.emergency with
  | false => simp [CabRow.kind_service part, legalService_ne_emergency legal]
  | true => simp [CabRow.kind, part, emergencyPart, Kind.stronger, legalService_rank legal]

theorem DemandsFollow.legal (h : DemandsFollow s) (p : Port) : legalService (s.dem.rows.ofPort p).service = true := by
  cases p with
  | a => exact h.cabA
  | b => exact h.cabB
  | c => exact h.panel ▸ rfl

end Sys2Proof.Machine
end

section
/-!
The demands of a port on its own row: BRAKE DEMAND, EMERGENCY and EMERGENCY WITHDRAW (R99 to R101).
-/

namespace Sys2Proof.Machine

variable {p : Port} {s t : State} {new : Rows}

/-! ### BRAKE DEMAND -/

@[simp] theorem endHold_dem (s : State) : (endHold s).dem = s.dem := by
  unfold endHold
  split <;> simp

theorem endHold_cascade (s : State) : Cascade s (endHold s) := by
  unfold endHold
  split
  · exact takeMapping_cascade s
  · exact .refl s

theorem endHold_unheld (h : s.drive.source ≠ .abortHold) : endHold s = s := if_neg h

theorem endHold_held (h : s.drive.source = .abortHold) : endHold s = takeMapping s := if_pos h

theorem endHold_unstuck (h : s.drive.springStuck = true) (k : (endHold s).drive.springStuck = false) :
    raisedAll .brakeState (endHold s) := by
  by_cases held : s.drive.source = .abortHold
  · rw [endHold_held held] at k ⊢
    exact takeMapping_unstuck s h k
  · rw [endHold_unheld held, h] at k
    cases k

/-- A writing of the rows leaves the outputs with the mapping. -/
theorem RowsFollow.mapping (h : RowsFollow new s t) (mapping : s.drive.source = .mapping) :
    t.drive.source = .mapping := by
  by_cases same : t.dem.driven = s.dem.driven
  · rw [h.unmoved same (by rw [mapping]; decide), mapping]
  · exact (h.outputs.mapping same mapping).test.1.trans mapping

/-- A writing of the rows, and then the end of an abort hold, which a change of the driven kind has ended already
(R125, R127). -/
theorem endHold_taken (h : RowsFollow new s t) (still : t.odo = s.odo) (store : t.store = s.store)
    (held : s.drive.source = .abortHold) :
    MappingTaken s.store.params (mappedOutputs t.dem.driven s.odo.standstill) s.drive (endHold t).drive := by
  by_cases same : t.dem.driven = s.dem.driven
  · have drive : t.drive = s.drive := h.unmoved same (by rw [held]; decide)
    have taken := takeMapping_taken t
    rw [still, store, drive] at taken
    rwa [endHold_held (by rw [drive, held])]
  · have taken := h.outputs.hold same held
    rwa [endHold_unheld (by rw [taken.test.1]; decide)]

/-- What the holder's demand leaves of the state that the telegram left (R99, R125, R127). -/
structure DemandTaken (new : Rows) (s t : State) : Prop where
  demands : DemandsTake new s t
  drive : DriveKeeps s.drive t.drive
  mapping : s.drive.source = .mapping → RowsFollow new s t
  hold : s.drive.source = .abortHold →
    MappingTaken s.store.params (mappedOutputs t.dem.driven s.odo.standstill) s.drive t.drive
  unstuck : s.drive.springStuck = true → t.drive.springStuck = false → raisedAll .brakeState t
  test : s.drive.source = .test → becomesEmergency s.dem.rows new = false → t.drive = s.drive
  keeps : Keeps (.mode :: restBlocks) s t
  ports : PortsKeep rowEvents none s t

theorem endHold_writeRows (new : Rows) (s : State) : DemandTaken new s (endHold (writeRows new s)) := by
  obtain ⟨follow, keeps, ports⟩ := writeRows_written new s
  have hold := endHold_cascade (writeRows new s)
  refine ⟨follow.dem.then_eq (endHold_dem _) hold.ports, follow.drive.trans hold.drive, fun mapping => ?_,
    fun held => ?_, fun stuck free => ?_, fun test calm => ?_, keeps.trans (hold.keeps.mono (by decide)),
    ports.trans hold.ports⟩
  · rwa [endHold_unheld (by rw [follow.mapping mapping]; decide)]
  · rw [endHold_dem]
    exact endHold_taken follow (keeps .odo (by decide)) (keeps .store (by decide)) held
  · cases still : (writeRows new s).drive.springStuck with
    | true => exact endHold_unstuck still free
    | false => exact (follow.unstuck stuck still).mono hold.ports
  · have drive := follow.outputs.test test calm
    rw [endHold_unheld (by rw [drive, test]; decide), drive]

/-- A service part that may stand brings no row to EMERGENCY that is not there already. -/
theorem DemandsFollow.service_calm {k : Kind} (h : DemandsFollow s) (p : Port) (legal : legalService k = true) :
    becomesEmergency s.dem.rows (s.dem.rows.updPort p fun r => { r with service := k }) = false := by
  have kept : CabRow.kind { s.dem.rows.ofPort p with service := k } = .emergency ↔
      (s.dem.rows.ofPort p).kind = .emergency :=
    (CabRow.kind_emergency_iff legal).trans (CabRow.kind_emergency_iff (h.legal p)).symm
  rw [becomesEmergency_updPort]
  simp [flares, kept]

/-- BRAKE DEMAND as the holder's command (R99). -/
theorem ruleBrakeDemand_holder {level : Nat} (h : isHolder p s = true) (small : level < 65536) :
    ruleBrakeDemand p (natField 2 level) s =
      (endHold (writeRows (s.dem.rows.updPort p fun r => { r with service := servicePart level }) s), okReply []) := by
  have read : word16 (natField 2 level) 0 = level := by
    rw [← List.append_nil (natField 2 level), word16_natField _ _ small]
  rw [ruleBrakeDemand, asHolder_holder _ h, read]

theorem demandsFollow_completeTelegram (p : Port) (h : DemandsFollow s) : DemandsFollow (completeTelegram p s) :=
  (demandsFollow_iff _).mpr (((demandsFollow_iff s).mp h).heard p)

/-- Settles O17: from the holder the row is written and an abort hold ended (`endHold_writeRows`), a running test going
on since no row becomes EMERGENCY (`DemandsFollow.service_calm`); another port is refused. -/
theorem brakeDemandWritesTheServicePart : Obligations.BrakeDemandWritesTheServicePart := by
  refine ⟨fun p level s ready holder small => ?_, fun p level s ready other _ =>
    ⟨_, request_ready 0x20 _ 2 _ ready (natField_length 2 level), .of_stranger _ _ other⟩⟩
  let u := completeTelegram p s
  let new := u.dem.rows.updPort p fun r => { r with service := servicePart level }
  let done : State × Reply := (endHold (writeRows new u), okReply [])
  have rule : ruleBrakeDemand p (natField 2 level) u = done :=
    ruleBrakeDemand_holder (by rwa [isHolder_completeTelegram]) small
  have taken : DemandTaken new u done.1 := endHold_writeRows new u
  have held : PortsKeep (may := []) (some p) done.1 (holdAnswer p 0x20 done) := .holdAnswer ..
  have dem : (holdAnswer p 0x20 done).dem = done.1.dem := holdAnswer_dem ..
  have drive : (holdAnswer p 0x20 done).drive = done.1.drive := holdAnswer_drive ..
  refine ⟨holdAnswer p 0x20 done, servicePart level, new, ?_, rfl, rfl, .of_rule (by decide) taken.keeps
    (taken.ports.mono (fun _ => id) (.inl rfl)), taken.demands.then_eq dem held, ?_⟩
  · rw [← rule]
    exact request_ready 0x20 _ 2 _ ready (natField_length 2 level)
  rw [dem, drive, ← completeTelegram_store p s, ← completeTelegram_odo p s]
  exact ⟨taken.drive, fun mapping => (taken.mapping mapping).hold p _, taken.hold,
    fun stuck free => (taken.unstuck stuck free).hold p _, fun test stands => taken.test test
      ((demandsFollow_completeTelegram p stands).service_calm p (Stands.legalService_servicePart level))⟩

/-! ### EMERGENCY and EMERGENCY WITHDRAW -/

/-- The emergency part asked for stands already. -/
theorem putEmergency_same {e : Bool} (same : (s.dem.rows.ofPort p).emergency = e) :
    putEmergency p e s = (s, okReply []) := if_pos same

theorem putEmergency_put {e : Bool} (differs : (s.dem.rows.ofPort p).emergency ≠ e) : putEmergency p e s =
    (raise .emergency (writeRows (s.dem.rows.updPort p fun r => { r with emergency := e }) s), okReply []) :=
  if_neg differs

/-- A request answered with the emergency part of the port's row put (R100, R101). -/
theorem Answered.of_emergency {e : Bool} (code : Byte) (differs : (s.dem.rows.ofPort p).emergency ≠ e) :
    Answered p code (okReply []) (.mode :: restBlocks) rowEvents s
      (holdAnswer p code (putEmergency p e (completeTelegram p s))) ∧
    raisedAll .emergency (holdAnswer p code (putEmergency p e (completeTelegram p s))) ∧
    RowsFollow ((completeTelegram p s).dem.rows.updPort p fun r => { r with emergency := e }) (completeTelegram p s)
      (holdAnswer p code (putEmergency p e (completeTelegram p s))) := by
  rw [putEmergency_put (by rwa [ofPort_completeTelegram])]
  let written := writeRows ((completeTelegram p s).dem.rows.updPort p fun r => { r with emergency := e })
    (completeTelegram p s)
  let done : State × Reply := (raise .emergency written, okReply [])
  obtain ⟨follow, keeps, ports⟩ :
    RowsWritten ((completeTelegram p s).dem.rows.updPort p fun r => { r with emergency := e }) (completeTelegram p s)
      written := writeRows_written ..
  have event : PortsKeep rowEvents none written done.1 := .raise .emergency written (by decide)
  exact ⟨.of_rule (r := done) (by decide) (keeps.trans (.raise _ .emergency written (by decide)))
      ((ports.trans event).mono (fun _ => id) (.inl rfl)),
    raisedAll.hold (r := done) (raisedAll_raise _ _) p code,
    (follow.then_eq (v := done.1) rfl rfl event).hold p code⟩

/-- A row set to EMERGENCY brings the latch and the driven kind with it (R96, R97). -/
theorem DemandsTake.emergency_set (h : DemandsFollow s)
    (clear : (s.dem.rows.ofPort p).emergency = false)
    (k : DemandsTake (s.dem.rows.updPort p fun r => { r with emergency := true }) s t) :
    t.dem.latch = true ∧ t.dem.driven = .emergency ∧ t.dem.rows.kind (rowOfPort p) = .emergency := by
  have kind : CabRow.kind { s.dem.rows.ofPort p with emergency := true } = .emergency :=
    (CabRow.kind_emergency_iff (by exact h.legal p)).mpr rfl
  have fresh : becomesEmergency s.dem.rows (s.dem.rows.updPort p fun r => { r with emergency := true }) = true := by
    have other : (s.dem.rows.ofPort p).kind ≠ .emergency := by simp [CabRow.kind_emergency_iff (h.legal p), clear]
    rw [becomesEmergency_updPort]
    simp [flares, kind, other]
  have latch : t.dem.latch = true := by rw [k.latch, fresh, Bool.or_true]
  refine ⟨latch, ?_, ?_⟩
  · rw [k.driven, latch]
    rfl
  · rw [k.rows, kind_updPort]
    exact kind

/-- The emergency part taken back leaves the latch and the row's service part (R97, R101). -/
theorem DemandsTake.emergency_withdrawn (h : DemandsFollow s)
    (k : DemandsTake (s.dem.rows.updPort p fun r => { r with emergency := false }) s t) :
    t.dem.latch = s.dem.latch ∧ t.dem.rows.kind (rowOfPort p) = (s.dem.rows.ofPort p).service := by
  have kind : CabRow.kind { s.dem.rows.ofPort p with emergency := false } = (s.dem.rows.ofPort p).service :=
    CabRow.kind_service rfl
  have calm : becomesEmergency s.dem.rows (s.dem.rows.updPort p fun r => { r with emergency := false }) = false := by
    rw [becomesEmergency_updPort]
    simp [flares, kind, legalService_ne_emergency (h.legal p)]
  refine ⟨by rw [k.latch, calm, Bool.or_false], ?_⟩
  rw [k.rows, kind_updPort]
  exact kind

/-- Settles O18: a part that stands so already is left (`putEmergency_same`), and another is put
(`Answered.of_emergency`), with what the row brings (`DemandsTake.emergency_set`, `DemandsTake.emergency_withdrawn`). -/
theorem emergencyAndWithdrawActOnTheirOwnRow : Obligations.EmergencyAndWithdrawActOnTheirOwnRow := by
  refine ⟨fun p s ready => ⟨_, request_ready 0x21 [] 0 (ruleEmergency p) ready rfl, fun set => .of_refuse ?_,
    fun clear => ?_⟩, fun p s ready => ⟨_, request_ready 0x22 [] 0 (ruleEmergencyWithdraw p) ready rfl,
    fun clear => .of_refuse ?_, fun set => ?_⟩⟩
  · exact putEmergency_same (by rw [ofPort_completeTelegram, set])
  · obtain ⟨answered, event, follow⟩ := Answered.of_emergency (e := true) 0x21 (by rw [clear]; decide)
    exact ⟨answered, event, follow, fun stands =>
      follow.dem.emergency_set (demandsFollow_completeTelegram p stands) (by rw [ofPort_completeTelegram, clear])⟩
  · exact putEmergency_same (by rw [ofPort_completeTelegram, clear])
  · obtain ⟨answered, event, follow⟩ := Answered.of_emergency (e := false) 0x22 (by rw [set]; decide)
    refine ⟨answered, event, follow, fun stands => ?_⟩
    have withdrawn := follow.dem.emergency_withdrawn (demandsFollow_completeTelegram p stands)
    rwa [ofPort_completeTelegram, (completeTelegram_brakes p s).latch] at withdrawn

end Sys2Proof.Machine
end

section
/-!
EMERGENCY RESET, and the passenger alarm: its requests and its handles (R98, R103 to R107).
-/

namespace Sys2Proof.Machine

variable {p : Port} {s : State}

/-! ### EMERGENCY RESET -/

theorem handDriven_ports (s : State) : PortsKeep [.brakeState] none s (handDriven s) := by
  unfold handDriven
  split
  · exact .raiseIf_of _ .brakeState rfl (by decide)
  · exact .raiseIf_of _ .brakeState rfl (by decide)
  · exact .refl _ _ s

/-- The driven kind formed anew raises BRAKE_STATE alone (R96). -/
theorem refreshDriven_ports (s : State) : PortsKeep [.brakeState] none s (refreshDriven s) := by
  unfold refreshDriven
  simp only
  split
  · exact .refl _ _ s
  · refine PortsKeep.trans ?_ (handDriven_ports _)
    exact .raise_of .brakeState rfl (by decide)

/-- The latch cleared (R96, R98). -/
structure LatchCleared (s t : State) : Prop where
  latch : t.dem.latch = false
  event : raisedAll .emergency t
  driven : t.dem.driven = strongestOf (allRows.map s.dem.rows.kind)
  follow : RowsFollow s.dem.rows { s with dem := { s.dem with latch := false } } t
  keeps : Keeps (.mode :: restBlocks) s t
  ports : PortsKeep [.emergency, .brakeState] none s t

/-- Forming the driven kind anew is a writing of the rows as they stand. -/
theorem refreshDriven_written (s : State) : RowsWritten s.dem.rows s (refreshDriven s) := by
  have same : writeRows s.dem.rows s = refreshDriven s := by simp [writeRows, becomesEmergency_same]
  exact same ▸ writeRows_written s.dem.rows s

theorem clearLatch_cleared (s : State) : LatchCleared s (clearLatch s) := by
  let u := raise .emergency { s with dem := { s.dem with latch := false } }
  obtain ⟨follow, keeps, ports⟩ : RowsWritten s.dem.rows u (clearLatch s) := refreshDriven_written u
  have before : Keeps (.mode :: restBlocks) s u := fun b hb => by
    cases b <;> first | rfl | exact absurd hb (by decide)
  have event : PortsKeep [.emergency, .brakeState] none s u := .raise_of .emergency rfl (by decide)
  exact ⟨refreshDriven_latch u, (raisedAll_raise _ _).mono ports, refreshDriven_driven u, follow.of_eq rfl rfl rfl rfl,
    before.trans keeps, event.trans ((refreshDriven_ports u).mono (by decide) (.inl rfl))⟩

/-- EMERGENCY RESET as the holder's command (R98). -/
theorem ruleEmergencyReset_holder (h : isHolder p s = true) : ruleEmergencyReset p s =
    if !s.dem.latch then (s, okReply [])
    else if moving s then (s, plainReply .notStandstill)
    else match firstEmergency s.dem.rows with
      | some r => (s, ⟨.condition, some .rowEmergency, [r.code]⟩)
      | none =>
        if s.drive.springStatus ≠ .applied then (s, conditionReply .springNotApplied)
        else (clearLatch s, okReply []) :=
  (asHolder_holder _ h).trans (by rfl)

/-- Settles O19: the tests of the rule in their order, and then the latch cleared (`clearLatch_cleared`). -/
theorem emergencyResetByItsTable : Obligations.EmergencyResetByItsTable := by
  refine ⟨fun p s ready holder => ⟨_, request_ready 0x23 [] 0 (ruleEmergencyReset p) ready rfl, ?_⟩,
    fun p s ready other => ⟨_, request_ready 0x23 [] 0 (ruleEmergencyReset p) ready rfl, .of_stranger _ _ other⟩⟩
  have rule := ruleEmergencyReset_holder (p := p) (s := completeTelegram p s) (by rwa [isHolder_completeTelegram])
  have heard := completeTelegram_brakes p s
  rw [heard.latch, moving_completeTelegram, heard.drive.springStatus] at rule
  rw [rule]
  refine ⟨fun clear => .of_refuse ?_, fun latched moves => .of_refuse ?_, fun r latched still found => .of_refuse ?_,
    fun latched still free released => .of_refuse ?_, fun latched still free applied => ?_⟩
  · rw [clear]
    rfl
  · rw [latched, moves]
    rfl
  · rw [latched, still, found]
    rfl
  · rw [latched, still, free]
    exact if_pos released
  · rw [latched, still, free, applied]
    let done : State × Reply := (clearLatch (completeTelegram p s), okReply [])
    have cleared := clearLatch_cleared (completeTelegram p s)
    have dem : (holdAnswer p 0x23 done).dem = done.1.dem := holdAnswer_dem ..
    have answered : Answered p 0x23 (okReply []) (.mode :: restBlocks) [.emergency, .brakeState] s
        (holdAnswer p 0x23 done) :=
      .of_rule (r := done) (by decide) cleared.keeps (cleared.ports.mono (fun _ => id) (.inl rfl))
    exact ⟨answered, (congrArg Demands.latch dem).trans cleared.latch, raisedAll.hold (r := done) cleared.event p _,
      (congrArg Demands.driven dem).trans cleared.driven, cleared.follow.hold (r := done) p _⟩

/-! ### The alarm's requests -/

/-- ALARM CONFIRM or ALARM OVERRIDE as the holder's command (R105, R106). -/
theorem askAlarm_holder (a : AlarmState) (h : isHolder p s = true) : askAlarm a p s =
    if s.dem.alarm = .clear then (s, conditionReply .noAlarm) else (setAlarm a s, okReply []) := by
  rw [askAlarm, asHolder_holder _ h]
  simp [refuseIf]

/-- A request that finds no alarm (R105, R106). -/
theorem Answered.of_noAlarm {a : AlarmState} (code : Byte) (holder : isHolder p s = true)
    (clear : s.dem.alarm = .clear) :
    Answered p code (conditionReply .noAlarm) allButPorts [] s
      (holdAnswer p code (askAlarm a p (completeTelegram p s))) := by
  refine .of_refuse ?_
  rw [askAlarm_holder a (by rwa [isHolder_completeTelegram]), (completeTelegram_brakes p s).alarm]
  exact if_pos clear

/-- A request answered with the alarm set (R104 to R107). -/
theorem Answered.of_alarm {a : AlarmState} (code : Byte) (holder : isHolder p s = true)
    (raised : s.dem.alarm ≠ .clear) :
    Answered p code (okReply []) (.mode :: restBlocks) (.alarm :: rowEvents) s
      (holdAnswer p code (askAlarm a p (completeTelegram p s))) ∧
    (holdAnswer p code (askAlarm a p (completeTelegram p s))).dem.alarm = a ∧
    (s.dem.alarm ≠ a → raisedAll .alarm (holdAnswer p code (askAlarm a p (completeTelegram p s)))) ∧
    RowsFollow { (completeTelegram p s).dem.rows with alarm := alarmRow a s.odo.standstill }
      { completeTelegram p s with dem := { (completeTelegram p s).dem with alarm := a } }
      (holdAnswer p code (askAlarm a p (completeTelegram p s))) := by
  have stood := (completeTelegram_brakes p s).alarm
  obtain ⟨value, event, follow, keeps, ports⟩ := setAlarm_set a (completeTelegram p s)
  rw [stood] at event
  rw [← completeTelegram_odo p s, askAlarm_holder a (by rwa [isHolder_completeTelegram]), stood, if_neg raised]
  let done : State × Reply := (setAlarm a (completeTelegram p s), okReply [])
  exact ⟨.of_rule (r := done) (by decide) keeps (ports.mono (fun _ => id) (.inl rfl)),
    (congrArg Demands.alarm (holdAnswer_dem p code done)).trans value,
    fun changed => raisedAll.hold (r := done) (event changed.symm) p code, follow.hold (r := done) p code⟩

/-- Settles O21: both requests by what the alarm is (`Answered.of_noAlarm`, `Answered.of_alarm`). -/
theorem alarmIsConfirmedOrOverridden : Obligations.AlarmIsConfirmedOrOverridden := fun p _ ready holder =>
  ⟨⟨_, request_ready 0x33 [] 0 (ruleAlarmConfirm p) ready rfl, .of_noAlarm 0x33 holder,
      Answered.of_alarm 0x33 holder⟩,
    ⟨_, request_ready 0x34 [] 0 (ruleAlarmOverride p) ready rfl, .of_noAlarm 0x34 holder,
      Answered.of_alarm 0x34 holder⟩⟩

/-! ### The handles -/

theorem alarmNext_unpulled {a : AlarmState} (overlap : Bool) (free : a ≠ .overridden) :
    alarmNext a false overlap false = .clear := by
  cases a <;> first | rfl | exact absurd rfl free

theorem alarmNext_pulled {a : AlarmState} (overlap : Bool) (free : a ∉ [AlarmState.overridden, .confirmed]) :
    alarmNext a true overlap false = if overlap then .deferred else .active := by
  cases a <;> first | rfl | exact absurd (by decide) free

/-- Settles O28: a handle moved is recorded with its event, and the alarm evaluated then is set (`setAlarm_set`). -/
theorem handlesFormTheAlarm : Obligations.HandlesFormTheAlarm := by
  intro h pulled s
  refine ⟨_, rfl, fun same => if_pos same, fun moved => ?_⟩
  rw [if_neg moved]
  let recorded : State := { s with dem := { s.dem with handles := putHandle h pulled s.dem.handles } }
  let u := raise .alarm recorded
  have event : PortsKeep (.alarm :: rowEvents) none s u := .raise_of .alarm rfl (by decide)
  have before : Keeps (.mode :: restBlocks) s u := fun b hb => by
    cases b <;> first | rfl | exact absurd hb (by decide)
  let next := alarmNext s.dem.alarm (alarmPulled (putHandle h pulled s.dem.handles)) (noStopOverlap s) false
  obtain ⟨value, _, follow, keeps, ports⟩ := setAlarm_set next u
  have evaluated : evaluateAlarm false u = setAlarm next u := by
    have span : noStopOverlap u = noStopOverlap s := noStopOverlap_congr rfl rfl rfl
    rw [evaluateAlarm, span]
    rfl
  have handles : (setAlarm next u).dem.handles = putHandle h pulled s.dem.handles := follow.dem.handles
  rw [evaluated, value, handles]
  refine ⟨(raisedAll_raise .alarm recorded).mono ports, rfl, fun overridden => ?_, fun free unpulled => ?_,
    fun confirmed pulled => ?_, fun free pulled => ?_, follow.of_eq rfl rfl rfl rfl, before.trans keeps,
    event.trans ports⟩ <;> simp only [next]
  · rw [overridden]
    rfl
  · rw [unpulled, alarmNext_unpulled _ free]
  · rw [confirmed, pulled]
    rfl
  · rw [pulled, alarmNext_pulled _ free]

end Sys2Proof.Machine
end

section
/-!
The brakes' own timers: a check missed sets its fault, and a step missed fails the test (R116 to R121, R124).
-/

namespace Sys2Proof.Machine

variable {s : State}

/-! ### Timers that are up -/

theorem ServiceCheck.timeUp_iff {c : ServiceCheck} : c.timeUp = true ↔ c.outcome = .running ∧ c.limit ≤ c.timer := by
  simp [ServiceCheck.timeUp]

theorem SpringCheck.releaseUp_iff {c : SpringCheck} :
    c.releaseUp = true ↔ c.outcome = .releaseRunning ∧ c.limit ≤ c.timer := by
  simp [SpringCheck.releaseUp]

theorem SpringCheck.applyUp_iff {c : SpringCheck} :
    c.applyUp = true ↔ c.outcome = .applyRunning ∧ c.limit ≤ c.timer := by
  simp [SpringCheck.applyUp]

theorem TestStep.timeUp_iff {x : TestStep} : x.timeUp = true ↔ x.limit ≤ x.timer := decide_eq_true_iff

/-- A check that does not run, or has not reached its limit, is not due. -/
theorem not_due {runs : Prop} {limit timer : Nat} (idle : ¬runs ∨ timer < limit) : ¬(runs ∧ limit ≤ timer) :=
  fun ⟨running, due⟩ => idle.elim (fun stopped => stopped running) fun early => absurd due (not_le.mpr early)

/-! ### Faults set -/

theorem setFaults_same {slow fail : Bool} (hs : slow = s.drive.serviceSlow) (hf : fail = s.drive.springFail) :
    setFaults slow fail s = s := if_pos ⟨hs, hf⟩

theorem faultStateOf_slow (fail : Bool) : faultStateOf true fail = if fail then .failed else .degraded := by
  cases fail <;> rfl

theorem faultStateOf_fail (slow : Bool) : faultStateOf slow true = if slow then .failed else .degraded := by
  cases slow <;> rfl

/-- Putting a brake drive keeps every block but it and the ports. -/
theorem drive_allButDrive (d : BrakeDrive) (s : State) : Keeps allButDrive s { s with drive := d } :=
  fun b hb => by cases b <;> first | rfl | exact absurd hb (by decide)

/-- A change of the faults that comes with another change of the brake drive (R102, R117, R120, R121). -/
theorem setFaults_after {slow fail : Bool} (d : BrakeDrive)
    (differs : ¬(slow = d.serviceSlow ∧ fail = d.springFail)) :
    RowsFollow { s.dem.rows with brakeCheck := brakeCheckRow slow fail }
      { s with drive :=
        { d with serviceSlow := slow, springFail := fail, faultState := faultStateOf slow fail } }
      (setFaults slow fail { s with drive := d }) ∧
    raisedAll .brakeState (setFaults slow fail { s with drive := d }) ∧
    Keeps (.mode :: restBlocks) s (setFaults slow fail { s with drive := d }) ∧
    PortsKeep rowEvents none s (setFaults slow fail { s with drive := d }) := by
  obtain ⟨follow, event, keeps, ports⟩ := setFaults_set slow fail { s with drive := d } differs
  exact ⟨follow, event, ((drive_allButDrive d s).mono (by decide)).trans keeps,
    .trans (t := { s with drive := d }) (.of_eq rfl) ports⟩

/-- Settles O44: each expiry by whether its timer is up, a missed check by its fault (`setFaults_after`), and a missed
step by the end of the test (`endTest_ended`). -/
theorem missedChecksSetTheBrakeFaults : Obligations.MissedChecksSetTheBrakeFaults := by
  intro s
  refine ⟨?_, ?_, ?_, ?_⟩
  · let u : State :=
      { s with drive := { s.drive with serviceCheck := { s.drive.serviceCheck with outcome := .missed } } }
    refine ⟨_, u, rfl, rfl, fun idle => if_neg fun up => not_due idle (ServiceCheck.timeUp_iff.mp up),
      fun running due slow => ?_, fun running due sound => ?_⟩ <;>
      rw [if_pos (ServiceCheck.timeUp_iff.mpr ⟨running, due⟩)]
    · exact setFaults_same (s := u) slow.symm rfl
    · rw [← faultStateOf_slow]
      exact setFaults_after u.drive fun same => Bool.false_ne_true (same.1.trans sound).symm
  · refine ⟨_, rfl, fun idle => if_neg fun up => not_due idle (SpringCheck.releaseUp_iff.mp up), fun running due => ?_⟩
    rw [if_pos (SpringCheck.releaseUp_iff.mpr ⟨running, due⟩)]
    refine ⟨raiseIf_drive .., fun free => ?_, ?_, .raiseIf_of _ .brakeState rfl (by decide)⟩
    · rw [free]
      exact raisedAll_raise _ _
    · exact (drive_allButDrive _ s).trans (.raiseIf _ _ _ _ (by decide))
  · let u : State :=
      { s with drive := { s.drive with springCheck := { s.drive.springCheck with outcome := .missed } } }
    refine ⟨_, u, rfl, rfl, fun idle => if_neg fun up => not_due idle (SpringCheck.applyUp_iff.mp up),
      fun running due fail => ?_, fun running due sound => ?_⟩ <;>
      rw [if_pos (SpringCheck.applyUp_iff.mpr ⟨running, due⟩)]
    · exact setFaults_same (s := u) rfl fail.symm
    · rw [← faultStateOf_fail]
      exact setFaults_after u.drive fun same => Bool.false_ne_true (same.2.trans sound).symm
  · refine ⟨_, rfl, fun early => ?_, fun x running due => ?_⟩
    · cases step : s.drive.testStep with
      | none => rfl
      | some x => exact if_neg fun up => absurd (TestStep.timeUp_iff.mp up) (not_le.mpr (early x step))
    · rw [running]
      simp only [if_pos (TestStep.timeUp_iff.mpr due)]
      obtain ⟨keeps, ports, drive⟩ := endTest_keeps (.failed x.step) s
      exact ⟨endTest_ended _ s, drive, keeps, ports⟩

end Sys2Proof.Machine
end

section
/-!
What of a state the brake invariant speaks of (R112, R123, R125): `OutputsStand` is what it asks of the drive under a
driven kind, with the kinds whose outputs the mapping has yet to form anew, and each act that commands the outputs is
shown to leave them standing.
-/

namespace Sys2Proof.Machine

/-! ### The outputs under a driven kind -/

/-- The outputs stand as their source has them, but for those of the mapping under the kinds `w`. -/
structure OutputsStand (still : Bool) (w : List Kind) (k : Kind) (d : BrakeDrive) : Prop where
  mapping : d.source = .mapping → k ∉ w → (d.level, d.valve) = mappedOutputs k still
  hold : d.source = .abortHold → d.level = 1000 ∧ d.valve = .deEnergized
  test : d.source = .test → ∃ t, d.testStep = some t ∧ 1 ≤ t.step ∧ t.step ≤ 5 ∧
    (d.level, d.valve) = stepOutputs t.step
  step : d.testStep.isSome = true → d.source = .test

/-- The brake side stands: under the latch the driven kind is EMERGENCY and no test runs, and the outputs stand. -/
structure BrakesStand (still : Bool) (w : List Kind) (b : BrakeSide) : Prop where
  latch : b.latch = true → b.driven = .emergency ∧ b.drive.source ≠ .test
  outputs : OutputsStand still w b.driven b.drive

theorem brakesFollow_iff (s : State) : BrakesFollow s ↔ BrakesStand s.odo.standstill [] (brakeSide s) :=
  ⟨fun h => ⟨h.latch, fun x _ => h.mapping x, h.hold, h.test, h.step⟩,
    fun h => ⟨h.latch, fun x => h.outputs.mapping x List.not_mem_nil, h.outputs.hold, h.outputs.test, h.outputs.step⟩⟩

/-- Standstill matters to the outputs of HOLD alone (R112). -/
theorem mappedOutputs_still {k : Kind} (h : k ≠ .hold) (a b : Bool) : mappedOutputs k a = mappedOutputs k b := by
  cases k <;> first | rfl | exact absurd rfl h

namespace OutputsStand

variable {p : Params} {still moved fresh : Bool} {w v : List Kind} {k l : Kind} {d e : BrakeDrive}

/-- Where the mapping does not command the outputs, the driven kind is not asked for. -/
theorem unmapped (h : OutputsStand still w k d) (free : d.source ≠ .mapping) : OutputsStand moved v l d :=
  ⟨fun x => absurd x free, h.hold, h.test, h.step⟩

/-- A change of standstill leaves the outputs of HOLD to be formed anew. -/
theorem turned (h : OutputsStand still [] k d) (moved : Bool) : OutputsStand moved [.hold] k d := by
  refine ⟨fun mapping other => ?_, h.hold, h.test, h.step⟩
  rw [h.mapping mapping List.not_mem_nil]
  exact mappedOutputs_still (fun same => other (by simp [same])) _ _

theorem of_taken (h : MappingTaken p (mappedOutputs l still) d e) : OutputsStand still w l e := by
  obtain ⟨source, step, _⟩ := h.test
  refine ⟨fun _ _ => h.formed.outputs, fun x => ?_, fun x => ?_, fun x => ?_⟩
  · rw [source] at x
    cases x
  · rw [source] at x
    cases x
  · rw [step] at x
    cases x

theorem of_followed (h : MappingFollowed p (mappedOutputs l still) d e) (mapping : d.source = .mapping)
    (stood : OutputsStand moved v k d) : OutputsStand still w l e := by
  obtain ⟨source, step, _⟩ := h.test
  refine ⟨fun _ _ => h.formed.outputs, fun x => ?_, fun x => ?_, fun x => ?_⟩
  · rw [source, mapping] at x
    cases x
  · rw [source, mapping] at x
    cases x
  · rw [source]
    exact stood.step (step ▸ x)

theorem of_held {r : TestRecord} (h : HoldTaken p r d e) : OutputsStand still w l e := by
  obtain ⟨source, step, _⟩ := h.test
  obtain ⟨level, valve⟩ := Prod.mk.inj h.formed.outputs
  refine ⟨fun x => ?_, fun _ => ⟨level, valve⟩, fun x => ?_, fun x => ?_⟩
  · rw [source] at x
    cases x
  · rw [source] at x
    cases x
  · rw [step] at x
    cases x

/-- What the drive does with a driven kind leaves its outputs standing (R112, R125). -/
theorem follow (h : OutputsStand still w k d) (f : DriveFollows p still fresh k l d e) : OutputsStand still w l e := by
  cases source : d.source with
  | mapping =>
    by_cases same : l = k
    · rw [f.unmoved same (by rw [source]; decide), same]
      exact h
    · exact of_followed (f.mapping same source) source h
  | abortHold =>
    by_cases same : l = k
    · rw [f.unmoved same (by rw [source]; decide), same]
      exact h
    · exact of_taken (f.hold same source)
  | test =>
    cases fresh with
    | false =>
      rw [f.test source rfl]
      exact h.unmapped (by rw [source]; decide)
    | true =>
      rcases f.aborted source rfl with held | ⟨_, _, taken⟩
      · exact of_held held
      · exact of_taken taken

end OutputsStand

/-- A test goes on under a driven kind only where no row has become EMERGENCY (R125). -/
theorem DriveFollows.goes_on {p : Params} {still fresh : Bool} {k l : Kind} {d e : BrakeDrive}
    (h : DriveFollows p still fresh k l d e) (test : e.source = .test) : d.source = .test ∧ fresh = false := by
  obtain ⟨ran, _⟩ := h.carried.running test
  refine ⟨ran, ?_⟩
  cases fresh with
  | false => rfl
  | true =>
    rcases h.aborted ran rfl with held | ⟨_, _, taken⟩
    · rw [held.test.1] at test
      cases test
    · rw [taken.test.1] at test
      cases test

namespace BrakesStand

variable {p : Params} {still : Bool} {w : List Kind} {a b : BrakeSide}

/-- A writing of the rows (R96, R97, R112, R125). -/
theorem bring {new : Rows} (h : BrakesStand still w a) (k : RowsBring p still new a b) : BrakesStand still w b := by
  refine ⟨fun latched => ⟨by rw [k.driven, latched]; rfl, fun test => ?_⟩, h.outputs.follow k.drive⟩
  obtain ⟨ran, calm⟩ := k.drive.goes_on test
  have before : a.latch = true := by rwa [k.latch, calm, Bool.or_false] at latched
  exact (h.latch before).2 ran

theorem inTurn {writes : List (Rows → Rows)} (h : BrakesStand still w a) (k : RowsInTurn p still writes a b) :
    BrakesStand still w b := by
  induction writes generalizing a with
  | nil => exact k ▸ h
  | cons f rest ih =>
    obtain ⟨c, brought, later⟩ := k
    exact ih (h.bring brought) later

/-- The outputs of a HOLD formed anew (R112). -/
theorem remapped (h : BrakesStand still [.hold] a) (k : HoldRemapped p still a b) : BrakesStand still [] b := by
  obtain ⟨latch, _, driven⟩ := k.demands
  by_cases anew : a.drive.source = .mapping ∧ a.driven = .hold
  · obtain ⟨mapping, hold⟩ := anew
    have formed := k.formed mapping hold
    refine ⟨fun latched => ?_, ?_⟩
    · rw [driven, formed.test.1]
      exact h.latch (latch ▸ latched)
    · rw [driven, hold]
      exact .of_followed formed mapping h.outputs
  · have drive : b.drive = a.drive := k.stand (not_and_or.mp anew)
    refine ⟨fun latched => ?_, ?_⟩
    · rw [driven, drive]
      exact h.latch (latch ▸ latched)
    · rw [driven, drive]
      exact ⟨fun mapping _ => h.outputs.mapping mapping fun hold => anew ⟨mapping, List.mem_singleton.mp hold⟩,
        h.outputs.hold, h.outputs.test, h.outputs.step⟩

end BrakesStand

/-! ### What the invariant speaks of -/

/-- What the brake invariant reads of a state. -/
structure BrakeView where
  latch : Bool
  driven : Kind
  still : Bool
  source : OutputSource
  level : Nat
  valve : Valve
  step : Option Nat

/-- The view as a state has it. -/
def viewOf (s : State) : BrakeView where
  latch := s.dem.latch
  driven := s.dem.driven
  still := s.odo.standstill
  source := s.drive.source
  level := s.drive.level
  valve := s.drive.valve
  step := s.drive.testStep.map TestStep.step

theorem viewOf_congr {s t : State} (dem : t.dem = s.dem) (still : t.odo.standstill = s.odo.standstill)
    (drive : t.drive = s.drive) : viewOf t = viewOf s := by
  simp only [viewOf, dem, still, drive]

theorem Keeps.view {l : List Block} {s t : State} (k : Keeps l s t) (dem : .dem ∈ l := by decide)
    (odo : .odo ∈ l := by decide) (drive : .drive ∈ l := by decide) : viewOf t = viewOf s :=
  viewOf_congr (k .dem dem) (congrArg Odometry.standstill (k .odo odo)) (k .drive drive)

theorem Aside.view {s t : State} (a : Aside s t) (drive : t.drive = s.drive) : viewOf t = viewOf s :=
  viewOf_congr a.dem a.standstill drive

theorem raise_view (e : Event) (s : State) : viewOf (raise e s) = viewOf s := rfl

theorem raiseIf_view (c : Bool) (e : Event) (s : State) : viewOf (raiseIf c e s) = viewOf s := by cases c <;> rfl

theorem updPort_view (p : Port) (f : PortRec → PortRec) (s : State) : viewOf (updPort p f s) = viewOf s := by
  cases p <;> rfl

namespace BrakesFollow

variable {s t : State}

theorem of_view (h : BrakesFollow s) (k : viewOf t = viewOf s) : BrakesFollow t := by
  simp only [viewOf, BrakeView.mk.injEq] at k
  obtain ⟨latch, driven, still, source, level, valve, step⟩ := k
  refine ⟨?_, ?_, ?_, fun running => ?_, fun held => ?_⟩
  · rw [latch, driven, source]
    exact h.latch
  · rw [source, level, valve, driven, still]
    exact h.mapping
  · rw [source, level, valve]
    exact h.hold
  · obtain ⟨x, present, least, most, outputs⟩ := h.test (source ▸ running)
    rw [present] at step
    obtain ⟨y, found, same⟩ := Option.map_eq_some_iff.mp step
    exact ⟨y, found, same ▸ least, same ▸ most, by rw [level, valve, same]; exact outputs⟩
  · rw [source]
    refine h.step ?_
    rwa [← Option.isSome_map (f := TestStep.step), ← step, Option.isSome_map]

/-- The brake drive put anew under the same demands. -/
theorem driven (h : BrakesFollow s) (dem : t.dem = s.dem) (odo : t.odo = s.odo)
    (free : s.dem.latch = true → t.drive.source ≠ .test)
    (stands : OutputsStand s.odo.standstill [] s.dem.driven t.drive) : BrakesFollow t := by
  refine (brakesFollow_iff t).mpr ⟨fun latched => ?_, ?_⟩
  · have latch : s.dem.latch = true := by rw [← dem]; exact latched
    exact ⟨(congrArg Demands.driven dem).trans (h.latch latch).1, free latch⟩
  · rw [odo]
    show OutputsStand _ _ t.dem.driven _
    rw [dem]
    exact stands

/-! ### Writings of the rows -/

theorem follow {new : Rows} (h : BrakesFollow s) (k : RowsFollow new s t)
    (still : t.odo.standstill = s.odo.standstill) : BrakesFollow t := by
  rw [brakesFollow_iff] at h ⊢
  rw [still]
  exact h.bring k.bring

theorem written {new : Rows} (h : BrakesFollow s) (k : RowsWritten new s t) : BrakesFollow t :=
  h.follow k.follow (congrArg Odometry.standstill (k.keeps .odo (by decide)))

theorem rows (h : BrakesFollow s) (new : Rows) : BrakesFollow (writeRows new s) := h.written (writeRows_written new s)

theorem alarmSet (h : BrakesFollow s) (a : AlarmState) : BrakesFollow (setAlarm a s) := by
  obtain ⟨_, _, follow, keeps, _⟩ := setAlarm_set a s
  have put : BrakesFollow { s with dem := { s.dem with alarm := a } } := h.of_view rfl
  exact put.follow follow (congrArg Odometry.standstill (keeps .odo (by decide)))

theorem faultsSet (h : BrakesFollow s) (slow fail : Bool) : BrakesFollow (setFaults slow fail s) := by
  by_cases same : slow = s.drive.serviceSlow ∧ fail = s.drive.springFail
  · rwa [setFaults_same same.1 same.2]
  · obtain ⟨follow, _, keeps, _⟩ := setFaults_set slow fail s same
    have put : BrakesFollow { s with drive := { s.drive with
        serviceSlow := slow, springFail := fail, faultState := faultStateOf slow fail } } := h.of_view rfl
    exact put.follow follow (congrArg Odometry.standstill (keeps .odo (by decide)))

theorem stopsPut (h : BrakesFollow s) (l : List StopKind) : BrakesFollow (putStops l s) := by
  have acted := putStops_acted l s
  exact h.follow acted.row (congrArg Odometry.standstill (acted.keeps .odo (by decide)))

theorem doorMoved (h : BrakesFollow s) (d : DoorId) (f : Door → Door) : BrakesFollow (updDoor d f s) := by
  have acted := updDoor_acted d f s
  exact h.follow acted.formed.row (congrArg Odometry.standstill (acted.keeps .odo (by decide)))

theorem doorsPut (h : BrakesFollow s) (q : Quad Door) (left right : Bool) : BrakesFollow (putDoors q left right s) := by
  obtain ⟨formed, _, _, _, keeps, _⟩ := putDoors_formed q left right s
  exact h.follow formed.row (congrArg Odometry.standstill (keeps .odo (by decide)))

theorem passed (h : BrakesFollow s) (heir : Holder) : BrakesFollow (passAuthority heir s) := by
  obtain ⟨passed, _, _⟩ := passAuthority_passed heir s
  refine h.follow passed.rows ?_
  rw [passed.odo]
  split <;> rfl

theorem heard (h : BrakesFollow s) (p : Port) : BrakesFollow (completeTelegram p s) := by
  have heard := completeTelegram_heard p s
  have odo := completeTelegram_odo p s
  by_cases up : ∀ l, trainlineOf p = some l → (linkOf l s.mode).state = .up
  · obtain ⟨dem, drive, _⟩ := heard.quiet up
    exact h.of_view (viewOf_congr dem (by rw [odo]) drive)
  · push Not at up
    obtain ⟨l, port, down⟩ := up
    exact h.follow (heard.follow l port down) (by rw [odo])

theorem silent (h : BrakesFollow s) (l : LinkPort) : BrakesFollow (silenceOn l s) := by
  have put : BrakesFollow (putLink l ⟨.lost, none⟩ s) := h.of_view (by cases l <;> rfl)
  unfold silenceOn
  split
  · exact rows (put.of_view (raise_view .link _)) _
  · exact h

theorem supervised (h : BrakesFollow s) : BrakesFollow (superviseOnce s) := by
  have cycled : ∀ x, BrakesFollow { s with sup := x } := fun _ => h.of_view rfl
  have levelled : ∀ {t} l, BrakesFollow t → BrakesFollow (putLevel l t) := fun {t} l k =>
    have put : BrakesFollow { t with sup := { t.sup with level := l } } := k.of_view rfl
    rows (put.of_view (raiseIf_view _ _ _)) _
  exact levelled _ (cycled _)

theorem unlatched (h : BrakesFollow s) : BrakesFollow (clearLatch s) := by
  have cleared := clearLatch_cleared s
  have put : BrakesFollow { s with dem := { s.dem with latch := false } } :=
    ⟨fun x => (by cases x), h.mapping, h.hold, h.test, h.step⟩
  exact put.follow cleared.follow (congrArg Odometry.standstill (cleared.keeps .odo (by decide)))

/-! ### The mapping, the abort hold and the test -/

theorem taken (h : BrakesFollow s) : BrakesFollow (takeMapping s) := by
  have taken := takeMapping_taken s
  exact h.driven (takeMapping_dem s) ((takeMapping_cascade s).keeps .odo (by decide))
    (fun _ => by rw [taken.test.1]; decide) (.of_taken taken)

theorem holdEnded (h : BrakesFollow s) : BrakesFollow (endHold s) := by
  unfold endHold
  split
  · exact h.taken
  · exact h

theorem aborted (h : BrakesFollow s) (c : AbortCause) : BrakesFollow (abortTest c s) := by
  by_cases test : s.drive.source = .test
  · have held := abortTest_held c s test
    exact h.driven (abortTest_dem c s) ((abortTest_cascade c s).keeps .odo (by decide))
      (fun _ => by rw [held.test.1]; decide) (.of_held held)
  · rwa [abortTest_untested c s test]

theorem ended (h : BrakesFollow s) (r : TestRecord) : BrakesFollow (endTest r s) := by
  obtain ⟨keeps, _, _⟩ := endTest_keeps r s
  have taken := (endTest_ended r s).drive
  exact h.driven (keeps .dem (by decide)) (keeps .odo (by decide)) (fun _ => by rw [taken.test.1]; decide)
    (.of_taken taken)

end BrakesFollow

/-- The drive in which step 1 of a test begins (R122). -/
def BrakeDrive.tested (d : BrakeDrive) : BrakeDrive :=
  { d with
    testRecord := .notRun false, source := .test
    serviceCheck := d.serviceCheck.dropped, springCheck := d.springCheck.dropped }

/-- The state in which step 1 of a test begins (R122). -/
def testOpened (s : State) : State := { writeRecord (.notRun false) s with drive := s.drive.tested }

theorem beginTest_eq (s : State) : beginTest s = beginStep 1 (testOpened s) := by
  have drive : (writeRecord (.notRun false) s).drive = { s.drive with testRecord := .notRun false } := raiseIf_drive ..
  simp only [beginTest, testOpened, BrakeDrive.tested, drive]

theorem testOpened_keeps (s : State) : Keeps allButDrive s (testOpened s) := fun b hb => by
  cases b <;> first | exact absurd hb (by decide) | simp [Block.same, testOpened, writeRecord]

/-- The outputs of a step begun are those of its table (R123). -/
theorem StepBegun.stands {n : Nat} {s t : State} {still : Bool} {w : List Kind} {k : Kind} (h : StepBegun n s t)
    (least : 1 ≤ n) (most : n ≤ 5) (test : s.drive.source = .test) : OutputsStand still w k t.drive := by
  obtain ⟨level, valve, step⟩ := h.outputs
  have source : t.drive.source = .test := h.source.trans test
  refine ⟨fun x => ?_, fun x => ?_, fun _ => ⟨_, step, least, most, ?_⟩, fun _ => source⟩
  · rw [source] at x
    cases x
  · rw [source] at x
    cases x
  · rw [level, valve]
    interval_cases n <;> rfl

namespace BrakesFollow

variable {s : State}

/-- A step begun in a running test (R123). -/
theorem stepped (h : BrakesFollow s) {n : Nat} (least : 1 ≤ n) (most : n ≤ 5) (test : s.drive.source = .test) :
    BrakesFollow (beginStep n s) := by
  obtain ⟨keeps, _, _⟩ := beginStep_keeps n s
  exact h.driven (keeps .dem (by decide)) (keeps .odo (by decide)) (fun latched => absurd test (h.latch latched).2)
    ((beginStep_begun n s least most).stands least most test)

theorem met (h : BrakesFollow s) {x : TestStep} (step : s.drive.testStep = some x) :
    BrakesFollow (meetStep x.step s) := by
  have test : s.drive.source = .test := h.step (by rw [step]; rfl)
  unfold meetStep
  split
  · exact h.stepped (by omega) (by omega) test
  · exact h.ended _

/-- A test begun without the latch (R122). -/
theorem begun (h : BrakesFollow s) (free : s.dem.latch = false) : BrakesFollow (beginTest s) := by
  rw [beginTest_eq]
  have begun := beginStep_begun 1 (testOpened s) (by decide) (by decide)
  have keeps := (testOpened_keeps s).trans (beginStep_keeps 1 (testOpened s)).1
  exact h.driven (keeps .dem (by decide)) (keeps .odo (by decide))
    (fun latched => by rw [free] at latched; cases latched) (begun.stands (by decide) (by decide) rfl)

theorem composed (h : BrakesFollow s) (c : Composition) : BrakesFollow (putComposition c s) := by
  have put := putComposition_put c s
  by_cases test : s.drive.source = .test
  · have held := put.tested test
    exact h.driven (put.keeps .dem (by decide)) (put.keeps .odo (by decide)) (fun _ => by rw [held.test.1]; decide)
      (.of_held held)
  · have drive := put.untested test
    have dem : (putComposition c s).dem = s.dem := put.keeps .dem (by decide)
    have odo : (putComposition c s).odo = s.odo := put.keeps .odo (by decide)
    exact h.of_view (by simp only [viewOf, dem, odo, drive])

/-! ### Standstill -/

/-- The rows written in turn after a change of standstill, and the outputs of a HOLD formed anew (R112). -/
theorem of_standstill {begins : Bool} {writes : List (Rows → Rows)} {p : Params} {a : BrakeSide} {t : State}
    (h : BrakesStand begins [.hold] a) (k : StandstillBrakes begins writes p a t)
    (still : t.odo.standstill = begins) : BrakesFollow t := by
  obtain ⟨x, turn, remapped⟩ := k
  rw [brakesFollow_iff, still]
  exact (h.inTurn turn).remapped remapped

theorem standstillBegun (h : BrakesFollow s) : BrakesFollow (beginStandstill s) := by
  have begun := beginStandstill_begun s
  rw [brakesFollow_iff] at h
  exact of_standstill ⟨h.latch, h.outputs.turned true⟩ begun.brakes (by rw [begun.odo]; rfl)

theorem standstillEnded (h : BrakesFollow s) : BrakesFollow (endStandstill s) := by
  have ended := endStandstill_ended s
  obtain ⟨d, held, free, brakes⟩ := ended.brakes
  have still : (endStandstill s).odo.standstill = false := by rw [ended.odo]; rfl
  rw [brakesFollow_iff] at h
  by_cases test : s.drive.source = .test
  · have hold := held test
    exact of_standstill (a := { brakeSide s with drive := d })
      ⟨fun latched => ⟨(h.latch latched).1, by rw [hold.test.1]; decide⟩, .of_held hold⟩ brakes still
  · rw [free test] at brakes
    exact of_standstill (a := brakeSide s) ⟨h.latch, h.outputs.turned false⟩ brakes still

end BrakesFollow

end Sys2Proof.Machine
end

section
/-!
What leaves all that the brake invariant reads (`viewOf`): the acts on the radio, the tables, the store and the position
record.
-/

namespace Sys2Proof.Machine

/-! ### The radio -/

theorem count_view (k : Counter) (s : State) : viewOf (count k s) = viewOf s := (count_counted k s).keeps.view

theorem formCoverage_view (s : State) : viewOf (formCoverage s) = viewOf s := (formCoverage_formed s).2.2.1.view

theorem formZone_view (s : State) : viewOf (formZone s) = viewOf s := (formZone_formed s).2.1.view

theorem storeMessage_view (m : Message) (s : State) : viewOf (storeMessage m s) = viewOf s :=
  (storeMessage_stored m s).keeps.view

theorem beginTransmission_view (s : State) : viewOf (beginTransmission s) = viewOf s := by
  unfold beginTransmission
  split
  · split
    · split <;> rfl
    · rfl
  · rfl

theorem offerAck_view (e : BulletinEntry) (s : State) : viewOf (offerAck e s) = viewOf s := by
  unfold offerAck
  split
  · split
    · exact beginTransmission_view _
    · exact count_view _ s
  · rfl

theorem openWindow_view (s : State) : viewOf (openWindow s) = viewOf s := by
  unfold openWindow
  split
  · exact beginTransmission_view _
  · rfl

theorem handleBeacon_view (f : FrameHeader) (b : List Byte) (s : State) : viewOf (handleBeacon f b s) = viewOf s := by
  have covered : ∀ g, viewOf (formCoverage (updRadio g (count .beacons s))) = viewOf s := fun g =>
    (formCoverage_view _).trans (count_view .beacons s)
  unfold handleBeacon
  split
  · simp only
    split
    · split
      · exact (openWindow_view _).trans (covered _)
      · exact covered _
    · exact count_view _ s
  · rfl

/-! ### The tables and the direction -/

theorem putRestrictions_view (l : List Restriction) (s : State) : viewOf (putRestrictions l s) = viewOf s :=
  (putRestrictions_acted l s).keeps.view

theorem setRestriction_view (k : Key) (start stop limit : Nat) (s : State) :
    viewOf (setRestriction k start stop limit s).1 = viewOf s := (setRestriction_acted k start stop limit s).keeps.view

theorem dropPermit_view (s : State) : viewOf (dropPermit s) = viewOf s := (dropPermit_acted s).keeps.view

theorem changeDirection_view (d : Direction) (s : State) : viewOf (changeDirection d s) = viewOf s := by
  have changed := changeDirection_changed d s
  refine viewOf_congr (changed.keeps .dem (by decide)) ?_ (changed.keeps .drive (by decide))
  rw [changed.odo]
  split <;> rfl

theorem changeMode_view (m : CarMode) (s : State) : viewOf (changeMode m s) = viewOf s := by
  unfold changeMode
  split
  · exact dropPermit_view _
  · rfl

/-! ### The store -/

theorem LoadEnded.view {r : LoadResult} {x : Store} {s t : State} (h : LoadEnded r x s t) : viewOf t = viewOf s :=
  h.keeps.view

theorem takeHeader_view (b : List Byte) (s : State) : viewOf (takeHeader b s) = viewOf s := by
  unfold takeHeader
  split
  · exact (endNoProfile_ended _ _ s.store s).view
  · simp only
    split
    · exact (endNoProfile_ended _ _ _ s).view
    · rfl

theorem beginSegments_view (s : State) : viewOf (beginSegments s) = viewOf s := by
  unfold beginSegments
  simp only
  split
  · exact (endNoSegments_ended _ _ _ s).view
  split
  · exact (endNoSegments_ended _ _ _ s).view
  · rfl

theorem takeParams_view (b : List Byte) (s : State) : viewOf (takeParams b s) = viewOf s := by
  unfold takeParams
  split <;> exact beginSegments_view _

theorem takeSegments_view (b : List Byte) (s : State) : viewOf (takeSegments b s) = viewOf s := by
  unfold takeSegments
  simp only
  split
  · exact (endNoSegments_ended _ _ s.store s).view
  split
  · exact (endNoSegments_ended _ _ s.store s).view
  split
  · exact (endNoSegments_ended _ _ s.store s).view
  · exact (endLoad_ended _ _ s).view

theorem endPage_view (page : Nat) (s : State) : viewOf (endPage page s) = viewOf s := by
  unfold endPage
  simp only
  split <;> rfl

/-! ### The position record -/

theorem countPulse_view (t : Tacho) (forward : Bool) (s : State) : viewOf (countPulse t forward s) = viewOf s := by
  cases t <;> rfl

theorem crossFormed_view (s : State) : viewOf (crossFormed s) = viewOf s := by
  have kept := (crossFormed_stands s).1
  refine viewOf_congr (kept .dem (by decide)) ?_ (kept .drive (by decide))
  calc (crossFormed s).odo.standstill
      = (speedsFormed s).odo.standstill := (sampleCross_aside (speedsFormed s)).standstill
    _ = s.odo.standstill := (movePosition_aside (unappliedCount s.odo) s).standstill

theorem reverseCounted_view (s : State) : viewOf (reverseCounted s) = viewOf s := by
  unfold reverseCounted
  rfl

theorem selectSource_view (s : State) : viewOf (selectSource s) = viewOf s := by
  unfold selectSource
  simp only
  split <;> rfl

theorem sampleClear_view (s : State) : viewOf (sampleClear s) = viewOf s := rfl

theorem sampleAwaited_view (s : State) : viewOf (sampleAwaited s) = viewOf s := by
  unfold sampleAwaited
  simp only
  split
  · rfl
  split
  · rfl
  split <;> rfl

theorem detectMark_view (s : State) : viewOf (detectMark s) = viewOf s := by
  refine (detectMark_aside s).view ?_
  by_cases unknown : s.odo.posState = .unknown
  · rw [detectMark, if_pos unknown]
    rfl
  · rw [detectMark_known unknown]
    exact Eq.trans ((answerMark_noted _ _).keeps .drive (by decide)) ((pulsesApplied_moved s).1 .drive (by decide))

end Sys2Proof.Machine
end

section
/-!
Every rule, every event and so every step keeps the brake outputs as their source has them (R112, R123, R125): what
leaves all that the invariant reads goes by `BrakesFollow.of_view`, and the others by their act.
-/

namespace Sys2Proof.Machine

namespace BrakesFollow

variable {p : Port} {args : List Byte} {s t : State}

/-! ### The rules -/

theorem eventSet (h : BrakesFollow s) (f : EventSet → PortRec → PortRec) :
    BrakesFollow (withEventSet p args f s).1 := by
  unfold withEventSet
  split
  · exact h
  · exact h.of_view (updPort_view _ _ _)

theorem takeAuthority (h : BrakesFollow s) : BrakesFollow (ruleTakeAuthority p s).1 := by
  unfold ruleTakeAuthority
  split_ifs
  · exact h
  · exact h.of_view rfl
  · exact h
  · exact h
  · exact h
  · exact h.passed _

theorem releaseAuthority (h : BrakesFollow s) : BrakesFollow (ruleReleaseAuthority p s).1 :=
  asHolder_keeps h fun _ => refuseIf_keeps h fun _ => h.passed _

theorem setDirection (h : BrakesFollow s) : BrakesFollow (ruleSetDirection p args s).1 := by
  refine asHolder_keeps h fun _ => ?_
  split
  · exact h
  split
  · exact h
  · exact h.of_view (changeDirection_view _ _)

theorem setComposition (h : BrakesFollow s) : BrakesFollow (ruleSetComposition p args s).1 := by
  refine asHolder_keeps h fun _ => ?_
  split
  · exact h
  split
  · exact h
  split
  · exact h
  · exact h.composed _

theorem setPosition (h : BrakesFollow s) : BrakesFollow (ruleSetPosition p args s).1 := by
  refine asHolder_keeps h fun _ => ?_
  simp only
  split
  · exact h
  split
  · exact h
  · exact h.of_view (formZone_view _)

theorem selectMode (h : BrakesFollow s) : BrakesFollow (ruleSelectMode p args s).1 := by
  refine asHolder_keeps h fun _ => ?_
  split
  · exact h
  split
  · exact h
  split
  · exact h
  split
  · exact h
  split
  · split
    · exact h
    · exact h.of_view (changeMode_view _ _)
  · exact h.of_view (changeMode_view _ _)

/-- After a reset the latch is set and the mapping commands the spring brake and the full service brake (R93, R110). -/
theorem fresh {i : CarInputs} (k : viewOf t = viewOf (freshState i)) : BrakesFollow t := by
  have reset : BrakesFollow (freshState i) :=
    ⟨fun _ => ⟨rfl, fun x => (by cases x)⟩, fun _ => rfl, fun x => (by cases x), fun x => (by cases x), fun x => (by cases x)⟩
  exact reset.of_view k

theorem restarted (s : State) : BrakesFollow (restartedState s) := .fresh (i := inputsNow s) rfl

theorem restart (h : BrakesFollow s) : BrakesFollow (ruleRestart p s).1 := by
  unfold ruleRestart
  split_ifs
  · exact .restarted s
  · exact h
  · exact h
  · exact .restarted s

theorem brakeDemand (h : BrakesFollow s) : BrakesFollow (ruleBrakeDemand p args s).1 :=
  asHolder_keeps h fun _ => (h.rows _).holdEnded

theorem putEmergency (h : BrakesFollow s) (e : Bool) : BrakesFollow (putEmergency p e s).1 := by
  unfold Machine.putEmergency
  split
  · exact h
  · exact (h.rows _).of_view (raise_view _ _)

theorem emergencyReset (h : BrakesFollow s) : BrakesFollow (ruleEmergencyReset p s).1 := by
  refine asHolder_keeps h fun _ => ?_
  split
  · exact h
  split
  · exact h
  split
  · exact h
  split
  · exact h
  · exact h.unlatched

/-- The test begins only where the latch is found clear (R122). -/
theorem brakeTestStart (h : BrakesFollow s) : BrakesFollow (ruleBrakeTestStart p s).1 :=
  asHolder_keeps h fun _ => refuseIf_keeps h fun _ => refuseIf_keeps h fun _ => refuseIf_keeps h fun _ =>
    refuseIf_keeps h fun free => refuseIf_keeps h fun _ => h.begun free

theorem brakeTestAbort (h : BrakesFollow s) : BrakesFollow (ruleBrakeTestAbort p s).1 :=
  asHolder_keeps h fun _ => refuseIf_keeps h fun _ => h.aborted .request

theorem doorRelease (h : BrakesFollow s) : BrakesFollow (ruleDoorRelease p args s).1 := by
  have placed : BrakesFollow { s with doors := { s.doors with door := placeDoors s } } := h.of_view rfl
  refine asHolder_keeps h fun _ => ?_
  split
  · split
    · exact h
    split
    · exact h
    · unfold tryRelease
      simp only
      split
      · exact placed.doorsPut _ _ _
      · exact placed
  · exact h

theorem doorClose (h : BrakesFollow s) : BrakesFollow (ruleDoorClose p args s).1 := by
  refine asHolderOrPanel_keeps h ?_
  split
  · exact h
  · exact h.doorsPut _ _ _

theorem doorRetry (h : BrakesFollow s) : BrakesFollow (ruleDoorRetry p args s).1 := by
  refine asHolderOrPanel_keeps h ?_
  split
  · exact h
  split
  · exact h.doorMoved _ _
  · exact h

theorem askAlarm (h : BrakesFollow s) (a : AlarmState) : BrakesFollow (askAlarm a p s).1 :=
  asHolder_keeps h fun _ => refuseIf_keeps h fun _ => h.alarmSet _

theorem restrictionAdd (h : BrakesFollow s) : BrakesFollow (ruleRestrictionAdd p args s).1 := by
  refine asHolder_keeps h fun _ => ?_
  simp only
  split
  · exact h.of_view (setRestriction_view _ _ _ _ _)
  · exact h

theorem restrictionLift (h : BrakesFollow s) : BrakesFollow (ruleRestrictionLift p args s).1 := by
  refine asHolder_keeps h fun _ => ?_
  split
  · exact h
  · exact h.of_view (putRestrictions_view _ _)

theorem permitEnter (h : BrakesFollow s) : BrakesFollow (rulePermitEnter p args s).1 :=
  asHolder_keeps h fun _ => refuseIf_keeps h fun _ => refuseIf_keeps h fun _ => refuseIf_keeps h fun _ =>
    refuseIf_keeps h fun _ => refuseIf_keeps h fun _ => h.of_view rfl

theorem permitClear (h : BrakesFollow s) : BrakesFollow (rulePermitClear p s).1 :=
  asHolder_keeps h fun _ => refuseIf_keeps h fun _ => h.of_view (dropPermit_view _)

theorem radioStopOverride (h : BrakesFollow s) : BrakesFollow (ruleRadioStopOverride p s).1 :=
  asHolder_keeps h fun _ => refuseIf_keeps h fun _ => refuseIf_keeps h fun _ => h.stopsPut _

theorem readTable (h : BrakesFollow s) : BrakesFollow (ruleReadTable p args s).1 := by
  unfold ruleReadTable
  split
  · exact h
  split <;> exact h

theorem inboxTake (h : BrakesFollow s) : BrakesFollow (ruleInboxTake s).1 := by
  unfold ruleInboxTake
  split
  · exact h
  · exact h.of_view rfl

theorem counterDecrement (h : BrakesFollow s) : BrakesFollow (ruleCounterDecrement args s).1 := by
  unfold ruleCounterDecrement
  split
  · exact h
  · exact h.of_view rfl

theorem profileWrite (h : BrakesFollow s) : BrakesFollow (ruleProfileWrite p args s).1 := by
  refine asHolder_keeps h fun _ => ?_
  simp only
  split
  · exact h
  split
  · exact h
  · exact editing_keeps h (h.of_view rfl)

theorem parameterWrite (h : BrakesFollow s) : BrakesFollow (ruleParameterWrite p args s).1 := by
  have cut : ∀ id u, viewOf (updOdo (fun o => if isGeometry id then { o with remainder := 0 } else o) u) = viewOf u := by
    intro id u
    cases isGeometry id <;> rfl
  refine asHolder_keeps h fun _ => ?_
  simp only
  split
  · exact h
  split
  · exact h
  · exact editing_keeps h (h.of_view ((cut _ _).trans rfl))

theorem profileCommit (h : BrakesFollow s) : BrakesFollow (ruleProfileCommit p s).1 :=
  asHolder_keeps h fun _ => refuseIf_keeps h fun _ => refuseIf_keeps h fun _ => refuseIf_keeps h fun _ =>
    refuseIf_keeps h fun _ => h.of_view rfl

/-- Every rule keeps the outputs as their source has them (R174). -/
theorem rule {code : Byte} {n : Nat} {r : Rule} (hr : ruleOf code p args = some (n, r)) (h : BrakesFollow s) :
    BrakesFollow (r s).1 := by
  unfold ruleOf at hr
  split at hr <;> cases hr
  · exact h
  · exact h.readTable
  · exact h
  · exact h.eventSet _
  · exact h.eventSet _
  · exact h.eventSet _
  · exact h.takeAuthority
  · exact h.releaseAuthority
  · exact h.setDirection
  · exact h.setComposition
  · exact h.setPosition
  · exact h.selectMode
  · exact h.restart
  · exact h.brakeDemand
  · exact h.putEmergency true
  · exact h.putEmergency false
  · exact h.emergencyReset
  · exact h.brakeTestStart
  · exact h.brakeTestAbort
  · exact h.doorRelease
  · exact h.doorClose
  · exact h.doorRetry
  · exact h.askAlarm .confirmed
  · exact h.askAlarm .overridden
  · exact h.restrictionAdd
  · exact h.restrictionLift
  · exact h.permitEnter
  · exact h.permitClear
  · exact h.radioStopOverride
  · exact h.inboxTake
  · exact h.counterDecrement
  · exact h.profileWrite
  · exact h.parameterWrite
  · exact h.profileCommit

theorem telegram (h : BrakesFollow s) (p : Port) (code : Byte) (args : List Byte) :
    BrakesFollow (takeTelegram p code args s) :=
  takeTelegram_keeps (h.heard p) (fun _ k => k.of_view (updPort_view _ _ _))
    (fun _ k => k.of_view (updPort_view _ _ _)) fun _ _ _ hr _ k => k.rule hr

theorem byteReceived (h : BrakesFollow s) (p : Port) (b : Byte) : BrakesFollow (receiveByte p b s) := by
  have put : ∀ f, BrakesFollow (updPort p f s) := fun f => h.of_view (updPort_view _ f _)
  unfold receiveByte
  split
  · split
    · exact put _
    · exact h
  · split <;> exact put _
  · simp only
    split
    · exact put _
    · unfold endTelegram
      split
      · split
        · exact h.telegram _ _ _
        · exact put _
      · exact put _

/-! ### The frames -/

theorem counted (h : BrakesFollow s) (k : Counter) : BrakesFollow (Machine.count k s) := h.of_view (count_view k s)

theorem bulletinApplied (h : BrakesFollow s) (k : BulletinKind) (f : FrameHeader) (b : List Byte) :
    BrakesFollow (applyBulletin k f b s).1 := by
  cases k with
  | restrictionSet =>
    simp only [applyBulletin, applyRestrictionSet]
    split
    · split
      · exact h.of_view (setRestriction_view _ _ _ _ _)
      · exact h
    · exact h
  | restrictionLift =>
    simp only [applyBulletin, applyRestrictionLift]
    split
    · exact h.of_view (putRestrictions_view _ _)
    · exact h
  | permitGrant =>
    simp only [applyBulletin, applyPermitGrant]
    split
    · split
      · exact h
      · exact h
      · split_ifs <;> exact h.of_view rfl
    · exact h
  | permitRevoke =>
    simp only [applyBulletin, applyPermitRevoke]
    split
    · exact h.of_view (dropPermit_view _)
    · exact h
  | stopOrder =>
    simp only [applyBulletin, applyStopOrder]
    split
    · exact h.stopsPut _
    split
    · exact h.stopsPut _
    · exact h
  | stopRelease =>
    simp only [applyBulletin, applyStopRelease]
    split
    · exact h.stopsPut _
    · exact h
  | text =>
    simp only [applyBulletin, applyText]
    split
    · exact h
    split
    · split
      · exact h.of_view (storeMessage_view _ _)
      · exact h.counted _
    · exact h

theorem bulletinHandled (h : BrakesFollow s) (k : BulletinKind) (f : FrameHeader) (b : List Byte) :
    BrakesFollow (handleBulletin k f b s) := by
  unfold handleBulletin
  simp only
  split
  · exact (h.counted _).of_view (offerAck_view _ _)
  · exact ((h.counted .bulletins).bulletinApplied k f b).of_view (offerAck_view _ _)

theorem frameReceived (h : BrakesFollow s) (f : Frame) : BrakesFollow (receiveFrame f s) := by
  unfold receiveFrame
  split
  · exact h
  split
  · exact h.counted _
  split
  · exact h.counted _
  · exact h.counted _
  · unfold handleGood
    split
    · exact (h.counted _).of_view (handleBeacon_view _ _ _)
    split
    · exact (h.counted _).bulletinHandled _ _ _
    · exact h.counted _

theorem bytesReceived (h : BrakesFollow s) (b : List Byte) : BrakesFollow (receiveBytes b s) := by
  unfold receiveBytes
  split_ifs
  · exact h
  · exact h.counted _
  · exact h.frameReceived _
  · exact h.counted _
  · exact h.counted _

/-! ### Motion -/

theorem rolledBack (h : BrakesFollow s) : BrakesFollow (rollBack s) :=
  rows (h.of_view (t := notice .rollback (updOdo (fun o => { o with rollback := true }) s)) rfl) _

theorem pinionFailed (h : BrakesFollow s) : BrakesFollow (setPinionFault s) :=
  rows (h.of_view (t := notice .pinionFault (updOdo (fun o => { o with pinionFault := true }) s)) rfl) _

theorem reverseSampled (h : BrakesFollow s) : BrakesFollow (sampleReverse s) := by
  have counted : BrakesFollow (reverseCounted s) := h.of_view (reverseCounted_view s)
  rw [sampleReverse_eq]
  split
  · split
    · exact counted.rolledBack
    · exact counted
  · exact h

theorem pinionSampled (h : BrakesFollow s) : BrakesFollow (samplePinion s) := by
  have timed : ∀ x, BrakesFollow (updOdo (fun o => { o with pinionFaultTime := x }) s) := fun _ => h.of_view rfl
  rw [samplePinion_eq]
  split
  · exact h
  split
  · exact (timed _).pinionFailed
  · exact timed _

theorem quietSampled (h : BrakesFollow s) : BrakesFollow (sampleQuiet s) := by
  have ran : BrakesFollow (quietRunOn s) := h.of_view rfl
  rw [sampleQuiet_eq]
  split
  · split
    · split
      · exact ran.standstillBegun
      · exact ran
    split
    · exact h
    · exact h.of_view rfl
  · exact h.of_view rfl

/-- A sampling expiry, stage by stage (R23, R30, R31, R103, R155). -/
theorem sampled (h : BrakesFollow s) : BrakesFollow (sample s) := by
  have cross : BrakesFollow (crossFormed s) := h.of_view (crossFormed_view s)
  have source : BrakesFollow (sourceFormed s) := cross.reverseSampled.of_view (selectSource_view (reverseFormed s))
  have awaited : BrakesFollow (awaitedFormed s) := source.pinionSampled.of_view (sampleAwaited_view (pinionFormed s))
  have record : BrakesFollow (recordFormed s) := awaited.quietSampled.of_view (sampleClear_view (quietFormed s))
  have lifted : BrakesFollow (removeLifted (recordFormed s)) := record.of_view (putRestrictions_view _ _)
  have zoned : BrakesFollow (formZone (removeLifted (recordFormed s))) := lifted.of_view (formZone_view _)
  rw [sample_eq]
  exact zoned.alarmSet _

/-! ### The readings of the brakes -/

theorem serviceRead (h : BrakesFollow s) (v : Nat) : BrakesFollow (useServiceReading v s) := by
  have read : BrakesFollow (updDrive (fun d => { d with serviceReading := some v }) s) := h.of_view rfl
  unfold useServiceReading
  simp only
  split
  · split
    · exact read.met ‹_›
    · exact read
  · exact read.of_view rfl

theorem releaseRead (h : BrakesFollow s) (v : Nat) : BrakesFollow (useReleaseReading v s) := by
  have read : BrakesFollow (updDrive (fun d => { d with releaseReading := some v }) s) := h.of_view rfl
  have formed : ∀ u, viewOf (formSpringStatus v (clearStuck v u)) = viewOf u := by
    intro u
    refine (raiseIf_view _ _ _).trans ?_
    unfold clearStuck
    split
    · exact raiseIf_view _ _ _
    · rfl
  unfold useReleaseReading
  refine of_view ?_ (formed _)
  split
  · split
    · exact read.met ‹_›
    · exact read
  · exact read.of_view rfl

/-! ### The commands and the steps -/

theorem timed (h : BrakesFollow s) : BrakesFollow (advance s) := by
  refine h.of_view ?_
  have step : (s.drive.testStep.map fun x => { x with timer := x.timer + 1 }).map TestStep.step =
      s.drive.testStep.map TestStep.step := by
    rw [Option.map_map]
    rfl
  simp only [viewOf, advance, BrakeDrive.tick, step]

/-- The commands that are no telegram and no frame keep the outputs as their source has them. -/
theorem event {i : Instr} (ht : telegramOf i = none) (hf : frameOf i = none) (h : BrakesFollow s) :
    ∃ t, exec i s = .next t ∧ BrakesFollow t := by
  cases i <;> first | (cases ht; done) | (cases hf; done) | refine ⟨_, rfl, ?_⟩
  case powerOn i => exact .fresh (i := i) rfl
  case telegramCrcError => exact h.of_view (updPort_view _ _ _)
  case framingError => exact h.of_view (updPort_view _ _ _)
  case gapTimeExpiry => exact h.of_view (updPort_view _ _ _)
  case answerSent => exact h.of_view (updPort_view _ _ _)
  case linkSilenceExpiry => exact h.silent _
  case tachometerPulse =>
    have counted : ∀ x forward, BrakesFollow (countPulse x forward s) := fun _ _ => h.of_view (countPulse_view _ _ _)
    simp only
    split
    · exact (counted _ _).standstillEnded
    · exact counted _ _
  case samplingExpiry => exact h.sampled
  case standstillBegin =>
    split
    · exact h.standstillBegun
    · exact h
  case pinionFault =>
    split
    · exact pinionFailed (h.of_view rfl)
    · exact h
  case trackMarkDetection => exact h.of_view (detectMark_view s)
  case supervisionCycle => exact h.supervised
  case periodStart => exact h.of_view rfl
  case servicePressureReading => exact h.serviceRead _
  case releasePressureReading => exact h.releaseRead _
  case serviceCheckTimerExpiry =>
    split
    · exact faultsSet (s := updDrive _ s) (h.of_view rfl) _ _
    · exact h
  case releaseCheckTimerExpiry =>
    split
    · exact h.of_view (raiseIf_view _ _ _)
    · exact h
  case applyCheckTimerExpiry =>
    split
    · exact faultsSet (s := updDrive _ s) (h.of_view rfl) _ _
    · exact h
  case brakeTestStepTimerExpiry =>
    split
    · split
      · exact h.ended _
      · exact h
    · exact h
  case doorTimerExpiry => exact h.doorMoved _ _
  case doorLockedInput => exact doorMoved (h.of_view (raiseIf_view _ _ _)) _ _
  case doorClosedInput => exact doorMoved (h.of_view (raiseIf_view _ _ _)) _ _
  case doorOpenLimitInput => exact h.doorMoved _ _
  case doorObstacleInput => exact h.doorMoved _ _
  case passengerButton => exact h.doorMoved _ _
  case isolationSwitch => exact h.doorMoved _ _
  case handleChange =>
    split
    · exact h
    · have handled : ∀ q, BrakesFollow (raise .alarm { s with dem := { s.dem with handles := q } }) := fun _ =>
        h.of_view rfl
      exact (handled _).alarmSet _
  case discardedFrame =>
    split
    · exact h
    · exact h.bytesReceived _
  case transmissionEnd =>
    split
    · exact h.of_view (beginTransmission_view _)
    · exact h
  case windowTimerExpiry =>
    split
    · exact h.of_view rfl
    · exact h
  case silenceTimerTick =>
    split
    · exact h.of_view (formCoverage_view _)
    · exact h
  case reportTimerExpiry =>
    split
    · exact h.of_view (beginTransmission_view _)
    · exact h
  case loaderStatusAnswer =>
    split
    · exact h.of_view rfl
    · exact h
  case loaderBusyTimeout =>
    split
    · exact h.of_view (endNoProfile_ended _ _ s.store s).view
    · exact h
  case headerReadEnd =>
    split
    · exact h.of_view (takeHeader_view _ _)
    · exact h
  case parameterBlockReadEnd =>
    split
    · exact h.of_view (takeParams_view _ _)
    · exact h
  case segmentBlockReadEnd =>
    split
    · exact h.of_view (takeSegments_view _ _)
    · exact h
  case commitStatusAnswer =>
    split
    · split
      · exact h
      · exact h.of_view (endPage_view _ _)
    · exact h
  case pageTimerExpiry =>
    split
    · split
      · exact h.of_view rfl
      · exact h
    · exact h
  case telegramByteArrival => exact h.byteReceived _ _
  case commitTransferEnd =>
    split
    · exact h.of_view rfl
    · exact h.of_view rfl
    · exact h

theorem afterStep (h : BrakesFollow s) (hs : Machine.step s = .next t) : BrakesFollow t :=
  step_keeps (fun _ k => k.timed.of_view rfl) (fun _ _ k => k.of_view rfl)
    (fun _ _ _ k he => exec_keeps (fun p code args _ l => l.telegram p code args) (fun f _ l => l.frameReceived f)
      (fun _ _ _ ht hf l hx => by
        obtain ⟨w, e, hw⟩ := l.event ht hf
        rw [e] at hx
        cases hx
        exact hw) k he) h hs

end BrakesFollow

/-- Settles O56: the telegrams, the frames, the events and the passing of time each keep the outputs as their source has
them, whatever the rows (`BrakesFollow.afterStep`). -/
theorem everyStepKeepsTheBrakes : Obligations.EveryStepKeepsTheBrakes := by
  unfold Obligations.EveryStepKeepsTheBrakes
  intro s t _ h hs
  exact h.afterStep hs

end Sys2Proof.Machine
end

section
/-!
BRAKE TEST START and BRAKE TEST ABORT: what a telegram heard leaves of a test, how a test begins, and the tables of the
two requests (R122, R123, R125, R126).
-/

namespace Sys2Proof.Machine

variable {p : Port} {s : State}

/-! ### A test and a telegram -/

/-- The LINK row brings no row to EMERGENCY (R14). -/
theorem becomesEmergency_link (r : Rows) (lost still : Bool) :
    becomesEmergency r { r with link := linkRow lost still } = false := by
  refine (becomesEmergency_following r r.doors r.radio _ r.alarm r.odometry).trans ?_
  simp [flares, linkRow_ne_emergency]

/-- A telegram heard neither begins nor ends a test (R125). -/
theorem testing_completeTelegram (p : Port) (s : State) : testing (completeTelegram p s) = testing s := by
  have heard := completeTelegram_heard p s
  have same : (completeTelegram p s).drive.source = .test ↔ s.drive.source = .test := by
    refine ⟨fun runs => ((completeTelegram_carried p s).running runs).1, fun runs => ?_⟩
    by_cases up : ∀ l, trainlineOf p = some l → (linkOf l s.mode).state = .up
    · rw [(heard.quiet up).2.1, runs]
    · push Not at up
      obtain ⟨l, port, down⟩ := up
      rw [(heard.follow l port down).outputs.test runs (becomesEmergency_link _ _ _), runs]
  simp only [testing, same]

/-! ### The beginning of a test -/

/-- A test begun: step 1 with its outputs, the record NOT_RUN and the checks of the mapping ended (R122, R123). -/
structure TestBegun (s t : State) : Prop where
  source : t.drive.source = .test
  step : t.drive.testStep = some ⟨1, 0, s.store.params.tResp⟩
  record : t.drive.testRecord = .notRun false
  level : t.drive.level = 300
  valve : t.drive.valve = .deEnergized
  target : t.drive.target = targetOf s.store.params 300
  duty : t.drive.duty = dutyOf s.store.params.valve (targetOf s.store.params 300)
  service : t.drive.serviceCheck.outcome ≠ .running
  spring : t.drive.springCheck.runs = false
  stuck : t.drive.springStuck = if s.drive.valve = .energized then false else s.drive.springStuck
  unstuck : s.drive.springStuck = true → t.drive.springStuck = false → raisedAll .brakeState t
  drive : DriveKeeps s.drive t.drive
  event : raisedAll .brakeTest t

/-- Holding an answer leaves a test as it has begun. -/
theorem TestBegun.hold {r : State × Reply} (h : TestBegun s r.1) (p : Port) (code : Byte) :
    TestBegun s (holdAnswer p code r) := by
  have drive := holdAnswer_drive p code r
  obtain ⟨source, step, record, level, valve, target, duty, service, spring, stuck, unstuck, keeps, event⟩ := h
  rw [← drive] at source step record level valve target duty service spring stuck unstuck keeps
  exact ⟨source, step, record, level, valve, target, duty, service, spring, stuck,
    fun was is => (unstuck was is).hold p code, keeps, event.hold p code⟩

theorem ServiceCheck.dropped_outcome (c : ServiceCheck) : c.dropped.outcome ≠ .running := by
  unfold ServiceCheck.dropped
  split
  · exact fun h => by cases h
  · assumption

theorem SpringCheck.dropped_runs (c : SpringCheck) : c.dropped.runs = false := by
  unfold SpringCheck.dropped
  split
  · rfl
  · rename_i idle
    simpa [SpringCheck.runs] using idle

theorem testOpened_ports (s : State) : PortsKeep [.brakeTest, .brakeState] none s (testOpened s) := by
  have written : PortsKeep [.brakeTest, .brakeState] none s (writeRecord (.notRun false) s) :=
    .raiseIf_of _ .brakeTest rfl (by decide)
  exact written.trans (.of_eq rfl)

theorem beginTest_begun (s : State) : TestBegun s (beginTest s) ∧ Keeps allButDrive s (beginTest s) ∧
    PortsKeep [.brakeTest, .brakeState] none s (beginTest s) := by
  rw [beginTest_eq]
  have begun := beginStep_begun 1 (testOpened s) (by decide) (by decide)
  obtain ⟨keeps, ports, drive⟩ := beginStep_keeps 1 (testOpened s)
  have before := testOpened_keeps s
  have store : (testOpened s).store = s.store := before .store (by decide)
  obtain ⟨⟨level, valve, step⟩, target, duty, source, record, ⟨service, spring⟩, stuck, event, unstuck⟩ := begun
  rw [store] at step target duty
  rw [level] at target
  rw [target] at duty
  have closed : (beginStep 1 (testOpened s)).drive.valve = .deEnergized := valve
  simp only [closed, and_true] at stuck
  have opened : DriveKeeps s.drive (testOpened s).drive := ⟨rfl, rfl, rfl, rfl, rfl, rfl, rfl, rfl⟩
  refine ⟨⟨source, step, record, level, closed, target, duty, ?_, ?_, stuck, unstuck, opened.trans drive, event⟩,
    before.trans keeps, (testOpened_ports s).trans ports⟩
  · rw [service]
    exact ServiceCheck.dropped_outcome _
  · rw [spring]
    exact SpringCheck.dropped_runs _

/-! ### The requests -/

/-- BRAKE TEST START as the holder's command (R122). -/
theorem ruleBrakeTestStart_holder (h : isHolder p s = true) : ruleBrakeTestStart p s =
    if notMode .shunt s then (s, plainReply .wrongMode)
    else if moving s then (s, plainReply .notStandstill)
    else if testing s then (s, plainReply .busy)
    else if s.dem.latch then (s, conditionReply .latchSet)
    else if !(s.drive.faultState = .none) then (s, conditionReply .brakeFault)
    else (beginTest s, plainReply .accepted) := asHolder_holder _ h

/-- BRAKE TEST ABORT as the holder's command (R126). -/
theorem ruleBrakeTestAbort_holder (h : isHolder p s = true) : ruleBrakeTestAbort p s =
    if !testing s then (s, conditionReply .noTest) else (abortTest .request s, okReply []) := asHolder_holder _ h

theorem testing_iff {s : State} : testing s = true ↔ s.drive.source = .test := decide_eq_true_iff

theorem testing_eq_false {s : State} : testing s = false ↔ s.drive.source ≠ .test := decide_eq_false_iff_not

/-- Holding an answer leaves a test as it has been aborted. -/
theorem TestAborted.hold {record : TestRecord} {r : State × Reply} (h : TestAborted record s r.1) (p : Port)
    (code : Byte) : TestAborted record s (holdAnswer p code r) := by
  have drive := holdAnswer_drive p code r
  obtain ⟨held, event, unstuck⟩ := h
  rw [← drive] at held unstuck
  exact ⟨held, event.hold p code, fun was is => (unstuck was is).hold p code⟩

/-- Settles O20: the tests of both rules in their order, a test begun (`beginTest_begun`), and a test aborted
(`abortTest_aborted`). -/
theorem brakeTestIsStartedAndAborted : Obligations.BrakeTestIsStartedAndAborted := by
  refine ⟨fun p s ready holder => ⟨_, request_ready 0x24 [] 0 (ruleBrakeTestStart p) ready rfl, ?_⟩,
    fun p s ready holder => ⟨_, request_ready 0x25 [] 0 (ruleBrakeTestAbort p) ready rfl, ?_⟩⟩
  · have heard := completeTelegram_brakes p s
    have rule := ruleBrakeTestStart_holder (p := p) (s := completeTelegram p s) (by rwa [isHolder_completeTelegram])
    rw [notMode_completeTelegram, moving_completeTelegram, testing_completeTelegram, heard.latch,
      heard.drive.faultState] at rule
    refine ⟨fun line => .of_refuse ?_, fun shunt => ?_⟩
    · rw [rule]
      exact if_pos (by simpa [notMode] using line)
    rw [notMode_eq_false.mpr shunt] at rule
    refine ⟨fun moves => .of_refuse ?_, fun still runs => .of_refuse ?_, fun still idle latched => .of_refuse ?_,
      fun still idle free fault => .of_refuse ?_, fun still idle free sound => ?_⟩
    · rw [rule, moves]
      rfl
    · rw [rule, still, testing_iff.mpr runs]
      rfl
    · rw [rule, still, testing_eq_false.mpr idle, latched]
      rfl
    · rw [rule, still, testing_eq_false.mpr idle, free, decide_eq_false fault]
      rfl
    · let done : State × Reply := (beginTest (completeTelegram p s), plainReply .accepted)
      have accepted : ruleBrakeTestStart p (completeTelegram p s) = done := by
        rw [rule, still, testing_eq_false.mpr idle, free, sound]
        rfl
      rw [accepted, ← completeTelegram_store p s]
      obtain ⟨begun, keeps, ports⟩ := beginTest_begun (completeTelegram p s)
      obtain ⟨source, step, record, level, valve, target, duty, service, spring, stuck, unstuck, drive, event⟩ :=
        begun.hold (r := done) p 0x24
      exact ⟨.of_rule (r := done) (by decide) keeps (ports.mono (fun _ => id) (.inl rfl)), source, step, record, level,
        valve, target, duty, service, spring, stuck, unstuck, heard.drive.trans drive, event⟩
  · have rule := ruleBrakeTestAbort_holder (p := p) (s := completeTelegram p s) (by rwa [isHolder_completeTelegram])
    refine ⟨fun idle => .of_refuse ?_, fun runs => ?_⟩
    · rw [rule, testing_completeTelegram, testing_eq_false.mpr idle]
      rfl
    · let done : State × Reply := (abortTest .request (completeTelegram p s), okReply [])
      have ended : ruleBrakeTestAbort p (completeTelegram p s) = done := by
        rw [rule, testing_iff.mpr runs]
        rfl
      rw [ended]
      obtain ⟨aborted, keeps, ports⟩ := abortTest_aborted .request (completeTelegram p s) runs
      exact ⟨.of_rule (r := done) (by decide) keeps (ports.mono (fun _ => id) (.inl rfl)), aborted.hold (r := done) p _⟩

end Sys2Proof.Machine
end

section
/-!
The pressure readings: what a check or a step of the test makes of one, and then what a release reading does to
SPRING_STUCK and to the spring brake status (R111, R116, R118 to R120, R123, R127).
-/

namespace Sys2Proof.Machine

variable {s t u w : State}

/-! ### A reading used by a check or a step -/

theorem serviceMeetsStep_iff {n v : Nat} {d : BrakeDrive} : serviceMeetsStep n d v = true ↔
    ((n = 1 ∨ n = 2) ∧ (bandOf d.target).1 ≤ v ∧ v ≤ (bandOf d.target).2) ∨ (n = 5 ∧ v < 150) := by
  unfold serviceMeetsStep
  split
  · simp
  · simp
  · simp
  · rename_i one two five
    simp [show n ≠ 1 from one, show n ≠ 2 from two, show n ≠ 5 from five]

theorem releaseMeetsStep_iff {n v : Nat} :
    releaseMeetsStep n v = true ↔ (n = 3 ∧ 2500 < v) ∨ (n = 4 ∧ v < 800) := by
  unfold releaseMeetsStep
  split
  · simp only [true_and, Nat.reduceEqDiff, false_and, or_false]
    exact decide_eq_true_iff
  · simp only [true_and, Nat.reduceEqDiff, false_and, false_or]
    exact decide_eq_true_iff
  · rename_i three four
    simp [show n ≠ 3 from three, show n ≠ 4 from four]

/-- A running release or apply check met by a reading (R119, R120). -/
theorem SpringCheck.judge_eq (v : Nat) (c : SpringCheck) : c.judge v =
    if (c.outcome = .releaseRunning ∧ 2500 < v) ∨ (c.outcome = .applyRunning ∧ v < 800) then { c with outcome := .met }
    else c := by
  unfold SpringCheck.judge
  cases running : c.outcome with
  | releaseRunning =>
    simp only [true_and, reduceCtorEq, false_and, or_false]
    rfl
  | applyRunning =>
    simp only [true_and, reduceCtorEq, false_and, false_or]
    rfl
  | idle | met | missed => simp

/-- What the check or the step that uses a reading leaves. -/
structure ReadingUsed (u w : State) : Prop where
  keeps : Keeps allButDrive u w
  ports : PortsKeep [.brakeTest, .brakeState] none u w
  drive : DriveKeeps u.drive w.drive
  unstuck : u.drive.springStuck = true → w.drive.springStuck = false → raisedAll .brakeState w

theorem ReadingUsed.refl (u : State) : ReadingUsed u u :=
  ⟨.refl _ u, .refl _ _ u, .refl _, fun was is => absurd (was.symm.trans is) (by decide)⟩

/-- A check judged changes no other block and neither the faults nor SPRING_STUCK. -/
theorem ReadingUsed.of_check {d : BrakeDrive} (drive : DriveKeeps u.drive d)
    (stuck : d.springStuck = u.drive.springStuck) : ReadingUsed u { u with drive := d } :=
  ⟨drive_allButDrive d u, .of_eq rfl, drive, fun was is => absurd ((stuck.trans was).symm.trans is) (by decide)⟩

theorem meetStep_used (n : Nat) (u : State) : ReadingUsed u (meetStep n u) := by
  unfold meetStep
  split
  · obtain ⟨keeps, ports, drive⟩ := beginStep_keeps (n + 1) u
    exact ⟨keeps, ports, drive, (beginStep_begun (n + 1) u (by omega) (by omega)).unstuck⟩
  · obtain ⟨keeps, ports, drive⟩ := endTest_keeps .passed u
    exact ⟨keeps, ports, drive, (endTest_ended .passed u).unstuck⟩

/-- A step but the last that is met begins the next (R123). -/
theorem meetStep_begins {n : Nat} (before : n < 5) (u : State) : StepBegun (n + 1) u (meetStep n u) := by
  rw [meetStep, if_pos before]
  exact beginStep_begun (n + 1) u (by omega) (by omega)

/-- The last step met ends the test PASSED (R127). -/
theorem meetStep_ends (u : State) : TestEnded .passed u (meetStep 5 u) := endTest_ended .passed u

/-! ### A service reading -/

/-- The state with a service reading kept (R111). -/
def serviceKept (v : Nat) (s : State) : State := updDrive (fun d => { d with serviceReading := some v }) s

theorem useServiceReading_untested {v : Nat} (idle : s.drive.testStep = none) : useServiceReading v s =
    updDrive (fun d => { d with serviceCheck := d.serviceCheck.judge v }) (serviceKept v s) := by
  simp [useServiceReading, serviceKept, updDrive, idle]

theorem useServiceReading_tested {v : Nat} {x : TestStep} (running : s.drive.testStep = some x) :
    useServiceReading v s =
      if serviceMeetsStep x.step (serviceKept v s).drive v then meetStep x.step (serviceKept v s) else serviceKept v s := by
  simp [useServiceReading, serviceKept, updDrive, running]

theorem useServiceReading_used (v : Nat) (s : State) : ReadingUsed (serviceKept v s) (useServiceReading v s) := by
  cases step : s.drive.testStep with
  | none =>
    rw [useServiceReading_untested step]
    exact .of_check ⟨rfl, rfl, rfl, rfl, rfl, rfl, rfl, rfl⟩ rfl
  | some x =>
    rw [useServiceReading_tested step]
    split
    · exact meetStep_used _ _
    · exact .refl _

/-! ### A release reading -/

/-- The state with a release reading kept (R111). -/
def releaseKept (v : Nat) (s : State) : State := updDrive (fun d => { d with releaseReading := some v }) s

/-- The state with a release reading used by the running check or step (R119, R120, R123). -/
def releaseJudged (v : Nat) (s : State) : State :=
  match s.drive.testStep with
  | some x => if releaseMeetsStep x.step v then meetStep x.step s else s
  | none => updDrive (fun d => { d with springCheck := d.springCheck.judge v }) s

theorem useReleaseReading_eq (v : Nat) (s : State) :
    useReleaseReading v s = formSpringStatus v (clearStuck v (releaseJudged v (releaseKept v s))) := rfl

theorem releaseJudged_untested {v : Nat} (idle : u.drive.testStep = none) :
    releaseJudged v u = updDrive (fun d => { d with springCheck := d.springCheck.judge v }) u := by
  simp [releaseJudged, idle]

theorem releaseJudged_tested {v : Nat} {x : TestStep} (running : u.drive.testStep = some x) :
    releaseJudged v u = if releaseMeetsStep x.step v then meetStep x.step u else u := by
  simp [releaseJudged, running]

theorem releaseJudged_used (v : Nat) (u : State) : ReadingUsed u (releaseJudged v u) := by
  cases step : u.drive.testStep with
  | none =>
    rw [releaseJudged_untested step]
    exact .of_check ⟨rfl, rfl, rfl, rfl, rfl, rfl, rfl, rfl⟩ rfl
  | some x =>
    rw [releaseJudged_tested step]
    split
    · exact meetStep_used _ _
    · exact .refl _

/-- SPRING_STUCK and the spring brake status formed from a release reading, with BRAKE_STATE where one changes (R118,
R119). -/
structure StatusFormed (v : Nat) (w t : State) : Prop where
  drive : t.drive = { w.drive with
    springStatus := springStatusOf v w.drive.valve, springStuck := w.drive.springStuck && !decide (2500 < v) }
  status : t.drive.springStatus ≠ w.drive.springStatus → raisedAll .brakeState t
  unstuck : w.drive.springStuck = true → t.drive.springStuck = false → raisedAll .brakeState t
  keeps : Keeps allButDrive w t
  ports : PortsKeep [.brakeState] none w t

/-- SPRING_STUCK cleared by a reading above 2,500 kPa (R119). -/
theorem clearStuck_cleared (v : Nat) (w : State) :
    (clearStuck v w).drive = { w.drive with springStuck := w.drive.springStuck && !decide (2500 < v) } ∧
    (w.drive.springStuck = true → 2500 < v → raisedAll .brakeState (clearStuck v w)) ∧
    Keeps allButDrive w (clearStuck v w) ∧ PortsKeep [.brakeState] none w (clearStuck v w) := by
  by_cases above : 2500 < v
  · have cleared : clearStuck v w = raiseIf w.drive.springStuck .brakeState
        { w with drive := { w.drive with springStuck := false } } := if_pos above
    rw [cleared]
    refine ⟨by simp [above], fun stuck _ => ?_, ?_, .raiseIf_of _ .brakeState rfl (by decide)⟩
    · rw [stuck]
      exact raisedAll_raise _ _
    · exact (drive_allButDrive _ w).trans (.raiseIf _ _ _ _ (by decide))
  · have same : clearStuck v w = w := if_neg above
    rw [same]
    exact ⟨by simp [above], fun _ x => absurd x above, .refl _ w, .refl _ _ w⟩

theorem formSpringStatus_formed (v : Nat) (w : State) : StatusFormed v w (formSpringStatus v (clearStuck v w)) := by
  obtain ⟨drive, cleared, keeps, ports⟩ := clearStuck_cleared v w
  let put : State := { clearStuck v w with drive := { (clearStuck v w).drive with
    springStatus := springStatusOf v (clearStuck v w).drive.valve } }
  have formed : formSpringStatus v (clearStuck v w) = raiseIf
      (!(springStatusOf v (clearStuck v w).drive.valve = (clearStuck v w).drive.springStatus)) .brakeState put := rfl
  have after : PortsKeep [.brakeState] none (clearStuck v w) (formSpringStatus v (clearStuck v w)) :=
    .raiseIf_of _ .brakeState rfl (by decide)
  have whole : (formSpringStatus v (clearStuck v w)).drive = { w.drive with
      springStatus := springStatusOf v w.drive.valve, springStuck := w.drive.springStuck && !decide (2500 < v) } := by
    rw [formed, raiseIf_drive]
    simp only [put, drive]
  refine ⟨whole, fun changed => ?_, fun stuck free => ?_, ?_, ports.trans after⟩
  · rw [whole] at changed
    rw [formed, drive, decide_eq_false changed]
    exact raisedAll_raise _ _
  · rw [whole] at free
    exact (cleared stuck (by simpa [stuck] using free)).mono after
  · exact (keeps.trans (drive_allButDrive _ _)).trans (.raiseIf _ _ _ put (by decide))

/-- A step begun stays so under a reading that leaves SPRING_STUCK as the step has it (R119, R123). -/
theorem StepBegun.formed {n v : Nat} (h : StepBegun n u w) (k : StatusFormed v w t)
    (stands : w.drive.springStuck = true → v ≤ 2500) : StepBegun n u t := by
  have stuck : t.drive.springStuck = w.drive.springStuck := by
    rw [k.drive]
    cases stuck : w.drive.springStuck with
    | false => rfl
    | true => simp [stands stuck]
  have valve : t.drive.valve = w.drive.valve := by rw [k.drive]
  have outputs : StepOutputs n u.store.params.tResp t.drive := by
    rw [k.drive]
    exact ⟨h.outputs.service, h.outputs.valve, h.outputs.step⟩
  refine ⟨outputs, ?_, ?_, ?_, ?_, ?_, by rw [stuck, valve]; exact h.stuck, h.event.mono k.ports,
    fun was is => (h.unstuck was (stuck ▸ is)).mono k.ports⟩ <;> rw [k.drive]
  · exact h.target
  · exact h.duty
  · exact h.source
  · exact h.record
  · exact h.checks

/-- Step 3 of the test holds the release valve energized (R123). -/
theorem BrakesFollow.releasing (h : BrakesFollow s) {x : TestStep} (running : s.drive.testStep = some x)
    (three : x.step = 3) : s.drive.valve = .energized := by
  obtain ⟨y, found, _, _, outputs⟩ := h.test (h.step (by rw [running]; rfl))
  rw [running] at found
  cases found
  rw [three] at outputs
  exact (Prod.mk.inj outputs).2

/-! ### The readings -/

/-- Settles O43: a reading is used by the running check or step (`ReadingUsed`, `meetStep_begins`, `meetStep_ends`), and
a release reading then forms SPRING_STUCK and the status (`formSpringStatus_formed`). -/
theorem pressureReadingsJudgeTheBrakes : Obligations.PressureReadingsJudgeTheBrakes := by
  intro kPa v s value
  subst value
  generalize bound : min 5000 kPa = v
  refine ⟨rfl, ⟨useServiceReading v s, serviceKept v s, by rw [← bound]; rfl, rfl, ?_⟩,
    ⟨useReleaseReading v s, releaseKept v s, by rw [← bound]; rfl, rfl, ?_⟩⟩
  · have used := useServiceReading_used v s
    have kept : Keeps allButDrive s (serviceKept v s) := drive_allButDrive _ s
    have ported : PortsKeep [.brakeTest, .brakeState] none s (serviceKept v s) := .of_eq rfl
    refine ⟨kept.trans used.keeps, ported.trans used.ports, used.drive, fun idle => ?_, fun x running => ?_⟩
    · rw [useServiceReading_untested idle]
      rfl
    have meets := serviceMeetsStep_iff (n := x.step) (v := v) (d := (serviceKept v s).drive)
    rw [useServiceReading_tested running]
    refine ⟨fun early least most => ?_, fun last low => ?_, fun unmet high => ?_⟩
    · rw [if_pos (meets.mpr (.inl ⟨early, least, most⟩))]
      exact meetStep_begins (by omega) _
    · rw [if_pos (meets.mpr (.inr ⟨last, low⟩)), last]
      exact meetStep_ends _
    · exact if_neg fun met => (meets.mp met).elim unmet high
  · have used := releaseJudged_used v (releaseKept v s)
    have formed := formSpringStatus_formed v (releaseJudged v (releaseKept v s))
    have kept : Keeps allButDrive s (releaseKept v s) := drive_allButDrive _ s
    have ported : PortsKeep [.brakeTest, .brakeState] none s (releaseKept v s) := .of_eq rfl
    have valve : (useReleaseReading v s).drive.valve = (releaseJudged v (releaseKept v s)).drive.valve := by
      rw [useReleaseReading_eq, formed.drive]
    rw [useReleaseReading_eq] at valve ⊢
    generalize formSpringStatus v (clearStuck v (releaseJudged v (releaseKept v s))) = t at formed valve ⊢
    refine ⟨(kept.trans used.keeps).trans formed.keeps,
      (ported.trans used.ports).trans (formed.ports.mono (by decide) (.inl rfl)), ?_, ?_, ?_, ?_, ?_, ?_, ?_, ?_,
      fun changed => formed.status ?_, fun above => ?_, fun stuck free => ?_, fun idle => ?_, fun x running => ?_⟩
    · rw [formed.drive]; exact used.drive.releaseReading
    · rw [formed.drive]; exact used.drive.serviceReading
    · rw [formed.drive]; exact used.drive.serviceSlow
    · rw [formed.drive]; exact used.drive.springFail
    · rw [formed.drive]; exact used.drive.faultState
    · rw [formed.drive]; exact used.drive.activeDuty
    · rw [formed.drive]; exact used.drive.periodTimer
    · rw [valve, formed.drive]
      rfl
    · rw [used.drive.springStatus]
      exact changed
    · rw [formed.drive]
      simp [above]
    · cases still : (releaseJudged v (releaseKept v s)).drive.springStuck with
      | true => exact formed.unstuck still free
      | false => exact (used.unstuck stuck still).mono formed.ports
    · rw [formed.drive, releaseJudged_untested (u := releaseKept v s) idle, ← SpringCheck.judge_eq]
      rfl
    · have judged := releaseJudged_tested (v := v) (u := releaseKept v s) running
      refine ⟨fun stands three above => ?_, fun four low => ?_, fun unmet high => ?_⟩
      · rw [if_pos (releaseMeetsStep_iff.mpr (.inl ⟨three, above⟩)), three] at judged
        have begun : StepBegun 4 (releaseKept v s) (releaseJudged v (releaseKept v s)) :=
          judged ▸ meetStep_begins (by decide) _
        refine begun.formed formed fun stuck => ?_
        have closed : (releaseJudged v (releaseKept v s)).drive.valve = .deEnergized := begun.outputs.valve
        have free := begun.stuck
        rw [if_pos ⟨stands.releasing running three, closed⟩, stuck] at free
        cases free
      · rw [if_pos (releaseMeetsStep_iff.mpr (.inr ⟨four, low⟩)), four] at judged
        have begun : StepBegun 5 (releaseKept v s) (releaseJudged v (releaseKept v s)) :=
          judged ▸ meetStep_begins (by decide) _
        exact begun.formed formed fun _ => by omega
      · rw [if_neg fun meets => (releaseMeetsStep_iff.mp meets).elim unmet high] at judged
        rw [formed.drive, judged]
        rfl

end Sys2Proof.Machine
end

section
/-!
What arrives at one door: the expiry of its timer, its inputs, its passenger button and its isolation switch (R133 to
R141).
-/

namespace Sys2Proof.Machine

variable {c : DoorCtx} {x y : Door} {d : DoorId} {s t : State}

/-! ### Entering a state, and what the inputs find there -/

theorem Door.enterLocking_unbolted (unbolted : x.inputs.locked = false) :
    x.enterLocking = { x with state := .locking, timer := some (0, 800), heldOpen := false } :=
  if_neg (Bool.eq_false_iff.mp unbolted)

theorem Door.enterLocking_bolted (bolted : x.inputs.locked = true) : x.enterLocking = { x with
    state := .closedLocked, timer := none, obstacles := 0, openRequest := false, lockLost := false
    heldOpen := false } := if_pos bolted

theorem Door.enterClosing_ajar (ajar : x.inputs.closed = false) : x.enterClosing c = { x with
    state := .closing, timer := some (0, c.moveTime), heldOpen := false, limitRead := c.obstacleLimit } :=
  if_neg (Bool.eq_false_iff.mp ajar)

/-- A door found closed as it enters CLOSING locks at once (R133). -/
theorem Door.enterClosing_closed (closed : x.inputs.closed = true) :
    x.enterClosing c = Door.enterLocking { x with limitRead := c.obstacleLimit } := if_pos closed

theorem Door.enterReleased_unasked (unasked : x.openRequest = false) :
    x.enterReleased c = { x with state := .released, timer := none, heldOpen := false } :=
  if_neg (Bool.eq_false_iff.mp unasked)

theorem Door.enterReleased_refused (asked : x.openRequest = true) (refused : c.permission = false) :
    x.enterReleased c = { x with state := .released, timer := none, openRequest := false, heldOpen := false } :=
  (if_pos asked).trans (if_neg (Bool.eq_false_iff.mp refused))

/-- An open request that meets the open permission opens the door at once (R135). -/
theorem Door.enterReleased_opens (asked : x.openRequest = true) (permitted : c.permission = true) :
    OpeningEntered c.moveTime c.warningTime (c.released x.lineSide) x (x.enterReleased c) := by
  have opening : x.enterReleased c = (x.go .released none).enterOpening c := (if_pos asked).trans (if_pos permitted)
  obtain ⟨opens, stands, warns⟩ := Door.enterOpening_entered c (x.go .released none)
  rw [opening]
  exact ⟨opens, stands, warns⟩

theorem Door.enterOpened_stands (released : c.released x.lineSide = true) : x.enterOpened c =
    { x with state := .opened, timer := none, openRequest := false, heldOpen := false } := if_pos released

theorem Door.enterOpened_warns (unreleased : c.released x.lineSide = false) : x.enterOpened c =
    { x with state := .warning, timer := some (0, c.warningTime), openRequest := false, heldOpen := false } :=
  if_neg (Bool.eq_false_iff.mp unreleased)

/-! ### One door acted on -/

/-- A door that enters FAULT raises DOOR_FAULT (R132). -/
theorem DoorActed.enters_fault {a : Option Port} {e : Door} {cause : FaultCause} (h : DoorActed a d e s t)
    (was : x = doorOf d s.doors.door) (enters : e = y.enterFault cause) (differs : x.state ≠ .fault) :
    raisedAll .doorFault t :=
  h.faulted (by rw [← was, enters]; simp [doorFaulted, Door.enterFault, Door.go, differs])

/-- A door that enters OBSTRUCTED raises DOOR_FAULT (R132). -/
theorem DoorActed.enters_obstructed {a : Option Port} {e : Door} (h : DoorActed a d e s t)
    (was : x = doorOf d s.doors.door) (enters : e = y.enterObstructed c) (differs : x.state ≠ .obstructed) :
    raisedAll .doorFault t :=
  h.faulted (by rw [← was, enters]; simp [doorFaulted, Door.enterObstructed, Door.go, differs])

/-- An act after DOOR_FAULT has been raised is an act that may raise it. -/
theorem DoorActed.of_raiseIf {a : Option Port} {e : Door} {lost : Bool}
    (h : DoorActed a d e (raiseIf lost .doorFault s) t) : DoorActed a d e s t := by
  obtain ⟨door, others, left, right, ⟨loop, row, event⟩, faulted, keeps, ports⟩ := h
  have doors := raiseIf_doors (s := s) lost .doorFault
  have odo := raiseIf_odo (s := s) lost .doorFault
  have dem := raiseIf_dem (s := s) lost .doorFault
  rw [doors] at others left right event faulted
  rw [dem, odo] at row
  exact ⟨door, others, left, right, ⟨loop, row.of_eq dem (raiseIf_drive ..) (congrArg _ odo) (raiseIf_store ..), event⟩,
    faulted, Keeps.trans (.raiseIf _ lost .doorFault s (by decide)) keeps,
    PortsKeep.trans (.raiseIf lost .doorFault s fun _ => by decide) ports⟩

/-- An input whose loss raises DOOR_FAULT, taken by a door (R140). -/
theorem updDoor_supervised (lost : Bool) (d : DoorId) (f : Door → Door) (s : State) :
    DoorActed none d (f (doorOf d s.doors.door)) s (updDoor d f (raiseIf lost .doorFault s)) ∧
    (lost = true → raisedAll .doorFault (updDoor d f (raiseIf lost .doorFault s))) := by
  have acted := updDoor_acted d f (raiseIf lost .doorFault s)
  refine ⟨raiseIf_doors (s := s) lost .doorFault ▸ acted.of_raiseIf, fun lost => ?_⟩
  subst lost
  exact (raisedAll_raise .doorFault s).mono acted.ports

/-! ### The timer -/

theorem Door.timeUp_of_due {n limit : Nat} (runs : x.timer = some (n, limit)) (due : limit ≤ n) : x.timeUp = true := by
  simp [Door.timeUp, runs, due]

/-- A bolt or a leaf that did not answer in time (R134, R136 to R138). -/
theorem Door.onTimer_faults {cause : FaultCause} (up : x.timeUp = true)
    (late : (x.state, cause) ∈ [(DoorState.unlocking, FaultCause.unlockTime), (.opening, .openTime),
      (.closing, .closeTime), (.locking, .lockTime)]) : x.onTimer c = x.enterFault cause := by
  simp only [List.mem_cons, Prod.mk.injEq, List.not_mem_nil, or_false] at late
  obtain ⟨state, rfl⟩ | ⟨state, rfl⟩ | ⟨state, rfl⟩ | ⟨state, rfl⟩ := late <;> simp [Door.onTimer, up, state]

theorem Door.onTimer_warned (up : x.timeUp = true) (warns : x.state = .warning) :
    x.onTimer c = x.enterClosing c := by
  simp [Door.onTimer, up, warns]

theorem Door.onTimer_untimed
    (untimed : x.state ∉ [DoorState.unlocking, .opening, .closing, .locking, .warning]) : x.onTimer c = x := by
  unfold Door.onTimer
  cases state : x.state <;> simp_all

/-- Settles O24: an expiry overtaken (`Door.onTimer_overtaken`), and one by the state it ends (`Door.onTimer_faults`,
`Door.onTimer_warned`). -/
theorem doorTimersExpire : Obligations.DoorTimersExpire := by
  intro d x s here
  have acted := updDoor_acted d (·.onTimer (doorCtx s)) s
  simp only [← here] at acted
  refine ⟨_, _, rfl, acted, x.onTimer_overtaken _, fun n limit runs due => ?_⟩
  have up := Door.timeUp_of_due runs due
  refine ⟨fun cause late => ?_, fun warns ajar => ?_, fun warns closed unbolted => ?_, fun warns closed bolted => ?_,
    Door.onTimer_untimed⟩
  · have faults := Door.onTimer_faults (c := doorCtx s) up late
    refine ⟨faults, acted.enters_fault here faults fun stands => ?_⟩
    rw [stands] at late
    exact absurd late (by simp)
  · rw [Door.onTimer_warned up warns, Door.enterClosing_ajar ajar]
    rfl
  · rw [Door.onTimer_warned up warns, Door.enterClosing_closed closed]
    exact Door.enterLocking_unbolted unbolted
  · rw [Door.onTimer_warned up warns, Door.enterClosing_closed closed]
    exact Door.enterLocking_bolted bolted

/-! ### The closed and the locked input -/

theorem Door.superviseLock_elsewhere (lost : Bool) (elsewhere : x.state ≠ .closedLocked) : x.superviseLock lost = x :=
  if_neg elsewhere

theorem Door.superviseLock_lost (stands : x.state = .closedLocked) :
    x.superviseLock true = { x with lockLost := true } :=
  (if_pos stands).trans (if_pos rfl)

theorem Door.superviseLock_kept (stands : x.state = .closedLocked) :
    x.superviseLock false = if x.inputs.closed && x.inputs.locked then { x with lockLost := false } else x :=
  (if_pos stands).trans (if_neg Bool.false_ne_true)

section
variable {present : Bool} (recorded : y = { x with inputs := { x.inputs with locked := present } })
include recorded

theorem Door.onLocked_unlocking (unlocks : x.state = .unlocking) :
    x.onLocked c present = if present then y else y.enterReleased c := by
  subst recorded
  simp [Door.onLocked, unlocks]

theorem Door.onLocked_locking (locks : x.state = .locking) :
    x.onLocked c present = if present then y.enterClosedLocked else y := by
  subst recorded
  simp [Door.onLocked, locks]

/-- The locked input of a door that does not wait for its bolt is supervised alone (R140). -/
theorem Door.onLocked_supervised (unlocks : x.state ≠ .unlocking) (locks : x.state ≠ .locking) :
    x.onLocked c present = y.superviseLock (x.inputs.locked && !present) := by
  subst recorded
  unfold Door.onLocked
  cases state : x.state <;> first | rfl | exact absurd state unlocks | exact absurd state locks

end

section
variable {present : Bool} (recorded : y = { x with inputs := { x.inputs with closed := present } })
include recorded

theorem Door.onClosed_closing (closes : x.state = .closing) :
    x.onClosed present = if present then y.enterLocking else y := by
  subst recorded
  simp [Door.onClosed, closes]

/-- The closed input of a door that does not close is supervised alone (R140). -/
theorem Door.onClosed_supervised (elsewhere : x.state ≠ .closing) :
    x.onClosed present = y.superviseLock (x.inputs.closed && !present) := by
  subst recorded
  unfold Door.onClosed
  cases state : x.state <;> first | rfl | exact absurd state elsewhere

end

/-- Settles O25: UNLOCKING, LOCKING and CLOSING by what the input brings (`Door.onLocked_unlocking`,
`Door.onLocked_locking`, `Door.onClosed_closing`), and every other state as supervised (`Door.onLocked_supervised`,
`Door.onClosed_supervised`). -/
theorem boltInputsMoveTheDoor : Obligations.BoltInputsMoveTheDoor := by
  constructor
  · intro d present x y s here recorded
    obtain ⟨acted, event⟩ := updDoor_supervised (losesLock x x.inputs.locked present) d
      (·.onLocked (doorCtx s) present) s
    have state : y.state = x.state := recorded ▸ rfl
    have request : y.openRequest = x.openRequest := recorded ▸ rfl
    have side : y.lineSide = x.lineSide := recorded ▸ rfl
    have inputs : y.inputs = { x.inputs with locked := present } := recorded ▸ rfl
    refine ⟨_, x.onLocked (doorCtx s) present, by rw [here]; rfl, here ▸ acted, fun unlocks absent unasked => ?_,
      fun unlocks absent asked refused => ?_, fun unlocks absent asked permitted => ?_, fun unlocks arrives => ?_,
      fun locks arrives => ?_, fun locks absent => ?_, fun stands was absent => ⟨?_, event ?_⟩,
      fun stands arrives => ?_, fun elsewhere => ?_⟩
    · rw [Door.onLocked_unlocking recorded unlocks, absent]
      exact Door.enterReleased_unasked (request.trans unasked)
    · rw [Door.onLocked_unlocking recorded unlocks, absent]
      exact Door.enterReleased_refused (request.trans asked) refused
    · rw [Door.onLocked_unlocking recorded unlocks, absent, ← side]
      exact Door.enterReleased_opens (c := doorCtx s) (request.trans asked) permitted
    · rw [Door.onLocked_unlocking recorded unlocks, if_pos arrives]
    · rw [Door.onLocked_locking recorded locks, if_pos arrives]
      rfl
    · rw [Door.onLocked_locking recorded locks, absent]
      rfl
    · rw [Door.onLocked_supervised recorded (by simp [stands]) (by simp [stands]), was, absent]
      exact Door.superviseLock_lost (state.trans stands)
    · simp [losesLock, stands, was, absent]
    · rw [Door.onLocked_supervised recorded (by simp [stands]) (by simp [stands]), arrives, Bool.not_true,
        Bool.and_false, Door.superviseLock_kept (state.trans stands), inputs, arrives, Bool.and_true]
    · simp only [List.mem_cons, List.not_mem_nil, or_false, not_or] at elsewhere
      obtain ⟨unlocks, locks, stands⟩ := elsewhere
      rw [Door.onLocked_supervised recorded unlocks locks, Door.superviseLock_elsewhere _ (state ▸ stands)]
  · intro d present x y s here recorded
    obtain ⟨acted, event⟩ := updDoor_supervised (losesLock x x.inputs.closed present) d (·.onClosed present) s
    have state : y.state = x.state := recorded ▸ rfl
    have inputs : y.inputs = { x.inputs with closed := present } := recorded ▸ rfl
    refine ⟨_, x.onClosed present, by rw [here]; rfl, here ▸ acted, fun closes arrives unbolted => ?_,
      fun closes arrives bolted => ?_, fun closes absent => ?_, fun stands was absent => ⟨?_, event ?_⟩,
      fun stands arrives => ?_, fun elsewhere => ?_⟩
    · rw [Door.onClosed_closing recorded closes, if_pos arrives]
      exact Door.enterLocking_unbolted (by rw [inputs]; exact unbolted)
    · rw [Door.onClosed_closing recorded closes, if_pos arrives]
      exact Door.enterLocking_bolted (by rw [inputs]; exact bolted)
    · rw [Door.onClosed_closing recorded closes, absent]
      rfl
    · rw [Door.onClosed_supervised recorded (by simp [stands]), was, absent]
      exact Door.superviseLock_lost (state.trans stands)
    · simp [losesLock, stands, was, absent]
    · rw [Door.onClosed_supervised recorded (by simp [stands]), arrives, Bool.not_true, Bool.and_false,
        Door.superviseLock_kept (state.trans stands), inputs, arrives, Bool.true_and]
    · simp only [List.mem_cons, List.not_mem_nil, or_false, not_or] at elsewhere
      obtain ⟨closes, stands⟩ := elsewhere
      rw [Door.onClosed_supervised recorded closes, Door.superviseLock_elsewhere _ (state ▸ stands)]

/-! ### The open-limit and the obstacle input -/

section
variable {present : Bool} (recorded : y = { x with inputs := { x.inputs with openLimit := present } })
include recorded

theorem Door.onOpenLimit_opening (opens : x.state = .opening) :
    x.onOpenLimit c present = if present then y.enterOpened c else y := by
  subst recorded
  simp [Door.onOpenLimit, opens]

theorem Door.onOpenLimit_obstructed (held : x.state = .obstructed) :
    x.onOpenLimit c present = if present then { y with heldOpen := false } else y := by
  subst recorded
  simp [Door.onOpenLimit, held]

/-- The input is recorded where it is absent, or the open drive is off (R132, R133). -/
theorem Door.onOpenLimit_recorded (idle : present = false ∨ x.state ∉ [DoorState.opening, .obstructed]) :
    x.onOpenLimit c present = y := by
  subst recorded
  unfold Door.onOpenLimit
  cases present
  · cases x.state <;> rfl
  · have elsewhere := idle.resolve_left (by decide)
    cases state : x.state <;> first | rfl | exact absurd (by simp [state]) elsewhere

end

section
variable {present : Bool} (recorded : y = { x with inputs := { x.inputs with obstacle := present } })
include recorded

theorem Door.onObstacle_recorded (idle : present = false ∨ x.state ≠ .closing) : x.onObstacle c present = y := by
  subst recorded
  exact if_neg fun ⟨closes, met⟩ => idle.elim (fun absent => by simp [absent] at met) fun elsewhere => elsewhere closes

/-- An obstacle met in CLOSING is counted before anything else (R139). -/
theorem Door.onObstacle_met (closes : x.state = .closing) (met : present = true) : x.onObstacle c present =
    if x.limitRead ≤ x.obstacles + 1 ∨ c.permission = false
    then Door.enterObstructed c { y with obstacles := x.obstacles + 1 }
    else Door.enterOpening c { y with obstacles := x.obstacles + 1 } := by
  subst recorded
  by_cases limit : x.limitRead ≤ x.obstacles + 1 <;> cases permission : c.permission <;>
    simp [Door.onObstacle, closes, met, limit, permission]

end

/-- Settles O26: the leaf at its limit enters OPEN (`Door.onOpenLimit_opening`), and an obstacle met is counted, the
door then held or reopened (`Door.onObstacle_met`). -/
theorem limitsAndObstaclesTurnTheLeaf : Obligations.LimitsAndObstaclesTurnTheLeaf := by
  intro d x s here
  refine ⟨fun present y recorded => ?_, fun present y recorded => ?_⟩
  · have acted := updDoor_acted d (·.onOpenLimit (doorCtx s) present) s
    have side : y.lineSide = x.lineSide := recorded ▸ rfl
    refine ⟨_, x.onOpenLimit (doorCtx s) present, rfl, here ▸ acted, fun opens arrives released => ?_,
      fun opens arrives unreleased => ?_, fun held arrives => ?_, Door.onOpenLimit_recorded recorded⟩
    · rw [Door.onOpenLimit_opening recorded opens, if_pos arrives, Door.enterOpened_stands (side ▸ released)]
    · rw [Door.onOpenLimit_opening recorded opens, if_pos arrives]
      exact Door.enterOpened_warns (side ▸ unreleased)
    · rw [Door.onOpenLimit_obstructed recorded held, if_pos arrives]
  · have acted := updDoor_acted d (·.onObstacle (doorCtx s) present) s
    simp only [← here] at acted
    have side : y.lineSide = x.lineSide := recorded ▸ rfl
    have inputs : y.inputs.openLimit = x.inputs.openLimit := recorded ▸ rfl
    refine ⟨_, x.onObstacle (doorCtx s) present, rfl, acted, fun closes met given => ?_,
      fun closes met below permitted => ?_, Door.onObstacle_recorded recorded⟩
    · have held := (Door.onObstacle_met (c := doorCtx s) recorded closes met).trans (if_pos given)
      refine ⟨?_, acted.enters_obstructed here held (by simp [closes])⟩
      rw [held, ← inputs]
      rfl
    · have further : ¬(x.limitRead ≤ x.obstacles + 1 ∨ (doorCtx s).permission = false) :=
        not_or.mpr ⟨not_le.mpr below, by simp [doorCtx, permitted]⟩
      rw [Door.onObstacle_met recorded closes met, if_neg further, ← side]
      exact Door.enterOpening_entered (doorCtx s) { y with obstacles := x.obstacles + 1 }

/-! ### The passenger button and the isolation switch -/

section
variable {pressed : Bool} (recorded : y = { x with inputs := { x.inputs with button := pressed } })
include recorded

theorem Door.onButton_recorded (idle : pressed = false ∨ x.state ∉ [DoorState.unlocking, .released]) :
    x.onButton c pressed = y := by
  subst recorded
  cases pressed
  · rfl
  · have elsewhere := idle.resolve_left (by decide)
    unfold Door.onButton
    cases state : x.state <;> first | rfl | exact absurd (by simp [state]) elsewhere

theorem Door.onButton_unlocking (press : pressed = true) (unlocks : x.state = .unlocking) :
    x.onButton c pressed = { y with openRequest := true } := by
  subst recorded
  simp [Door.onButton, press, unlocks]

theorem Door.onButton_released (press : pressed = true) (released : x.state = .released) :
    x.onButton c pressed = if c.permission then y.enterOpening c else y := by
  subst recorded
  simp [Door.onButton, press, released]

end

section
variable {on : Bool} (recorded : y = { x with inputs := { x.inputs with isolation := on } })
include recorded

theorem Door.onIsolation_on (isolates : on = true) : x.onIsolation on = y.enterIsolated := by
  subst recorded
  exact if_pos isolates

/-- A switch that goes off at an ISOLATED door puts it back into service as its inputs have it (R141). -/
theorem Door.onIsolation_off (off : on = false) (isolated : x.state = .isolated) : x.onIsolation on =
    if x.inputs.closed = true ∧ x.inputs.locked = true then y.enterClosedLocked
    else y.enterFault .atDeisolation := by
  subst recorded
  simp [Door.onIsolation, off, isolated]

theorem Door.onIsolation_recorded (off : on = false) (elsewhere : x.state ≠ .isolated) : x.onIsolation on = y := by
  subst recorded
  simp [Door.onIsolation, off, elsewhere]

end

/-- Settles O27: a press by the state it finds (`Door.onButton_unlocking`, `Door.onButton_released`), and the switch on
(`Door.onIsolation_on`), or off at an ISOLATED door (`Door.onIsolation_off`). -/
theorem buttonsAndSwitchesActOnTheDoor : Obligations.ButtonsAndSwitchesActOnTheDoor := by
  constructor
  · intro d pressed x y s here recorded
    have acted := updDoor_acted d (·.onButton (doorCtx s) pressed) s
    have side : y.lineSide = x.lineSide := recorded ▸ rfl
    refine ⟨_, x.onButton (doorCtx s) pressed, rfl, here ▸ acted, Door.onButton_unlocking recorded,
      fun press released permitted => ?_, fun press released refused => ?_, Door.onButton_recorded recorded⟩
    · have permission : (doorCtx s).permission = true := permitted
      rw [Door.onButton_released recorded press released, if_pos permission, ← side]
      exact y.enterOpening_entered (doorCtx s)
    · have permission : (doorCtx s).permission = false := refused
      rw [Door.onButton_released recorded press released, permission]
      rfl
  · intro d on x y s here recorded
    have acted := updDoor_acted d (·.onIsolation on) s
    simp only [← here] at acted
    refine ⟨_, x.onIsolation on, rfl, acted, Door.onIsolation_on recorded, fun off isolated closed locked => ?_,
      fun off isolated missing => ?_, Door.onIsolation_recorded recorded⟩
    · exact (Door.onIsolation_off recorded off isolated).trans (if_pos ⟨closed, locked⟩)
    · have faults : x.onIsolation on = y.enterFault .atDeisolation :=
        (Door.onIsolation_off recorded off isolated).trans (if_neg (by simpa [imp_iff_not_or] using missing))
      exact ⟨faults, acted.enters_fault here faults (by simp [isolated])⟩

end Sys2Proof.Machine
end

section
/-!
The commands of the doors: DOOR CLOSE and DOOR RETRY (R137, R145, R147), and DOOR RELEASE, which places every door anew
and acts on those that qualify (R131, R142 to R144).
-/

namespace Sys2Proof.Machine

variable {p : Port} {s t : State} {d : DoorId}

/-! ### Acts of the doors in a request -/

/-- A command of the holder or of the panel is judged by its own rule (R145, R147). -/
theorem asHolderOrPanel_taken (rule : Rule) (right : isHolder p s = true ∨ p = .c) :
    asHolderOrPanel p rule s = rule s := if_pos right

/-- Holding an answer leaves what an act of the doors brought. -/
theorem DoorsFormed.hold {r : State × Reply} (h : DoorsFormed s r.1) (p : Port) (code : Byte) :
    DoorsFormed s (holdAnswer p code r) := by
  have doors := holdAnswer_doors p code r
  obtain ⟨loop, row, event⟩ := h
  rw [← doors] at loop row event
  exact ⟨loop, row.hold p code, fun changed => (event changed).hold p code⟩

/-- A door acted on by a request, its answer held. -/
theorem DoorActed.hold {e : Door} {r : State × Reply} (h : DoorActed none d e (completeTelegram p s) r.1)
    (code : Byte) : DoorActed (some p) d e (completeTelegram p s) (holdAnswer p code r) := by
  obtain ⟨door, others, left, right, formed, faulted, keeps, ports⟩ := h
  have answered : Answered p code r.2 doorlessBlocks (.doors :: .doorFault :: rowEvents) s (holdAnswer p code r) :=
    .of_rule (by decide) keeps (ports.mono (fun _ => id) (.inl rfl))
  rw [← holdAnswer_doors p code r] at door others left right
  exact ⟨door, others, left, right, formed.hold p code, fun enters => (faulted enters).hold p code, answered.keeps,
    answered.ports⟩

/-! ### DOOR CLOSE -/

/-- Whether a line side is among those that a close names, LEFT where `left` and RIGHT where `right` (R145). -/
def sideNamed (left right : Bool) : LineSide → Bool
  | .left => left
  | .right => right

theorem byte_of_le_two {b : Byte} (side : b.toNat ≤ 2) : b = 0 ∨ b = 1 ∨ b = 2 := by bv_omega

theorem closeSidesArg_none {n : Nat} (beyond : 2 < n) : closeSidesArg n = none := by
  unfold closeSidesArg
  split <;> first | omega | rfl

/-- The byte 0 leaves RIGHT, the byte 1 leaves LEFT, and the byte 2 names both (R145). -/
theorem closeSidesArg_some {b : Byte} (side : b.toNat ≤ 2) :
    closeSidesArg b.toNat = some (!decide (b = 1), !decide (b = 0)) := by
  rcases byte_of_le_two side with rfl | rfl | rfl <;> rfl

theorem sideNamed_iff {b : Byte} (side : b.toNat ≤ 2) (x : LineSide) :
    sideNamed (!decide (b = 1)) (!decide (b = 0)) x = true ↔ b = 2 ∨ b = x.code := by
  rcases byte_of_le_two side with rfl | rfl | rfl <;> cases x <;> decide

/-- The sides named closed: their flags cleared, each door of theirs acted on and every other left (R145). -/
structure SidesClosed (left right : Bool) (s t : State) : Prop where
  formed : DoorsFormed s t
  leftFlag : t.doors.leftReleased = if left then false else s.doors.leftReleased
  rightFlag : t.doors.rightReleased = if right then false else s.doors.rightReleased
  named : ∀ d, sideNamed left right (doorOf d s.doors.door).lineSide = true →
    DoorClosed s.store.params.doorWarningTime (doorOf d s.doors.door) (doorOf d t.doors.door)
  others : ∀ d, ¬sideNamed left right (doorOf d s.doors.door).lineSide = true →
    doorOf d t.doors.door = doorOf d s.doors.door
  keeps : Keeps doorlessBlocks s t
  ports : PortsKeep (.doors :: rowEvents) none s t

theorem closeSides_closed (left right : Bool) (s : State) : SidesClosed left right s (closeSides left right s) := by
  let c : DoorCtx :=
    { doorCtx s with left := s.doors.leftReleased && !left, right := s.doors.rightReleased && !right }
  let close (x : Door) : Door := if sideNamed left right x.lineSide = true then x.onClose c else x
  have put : closeSides left right s = putDoors (s.doors.door.map close) c.left c.right s := rfl
  obtain ⟨formed, doors, leftFlag, rightFlag, keeps, ports⟩ :=
    putDoors_formed (s.doors.door.map close) c.left c.right s
  rw [← put] at formed doors leftFlag rightFlag keeps ports
  have cleared : ∀ flag named : Bool, (flag && !named) = if named then false else flag := by decide
  refine ⟨formed, leftFlag.trans (cleared _ left), rightFlag.trans (cleared _ right), fun d named => ?_,
    fun d unnamed => ?_, keeps, ports⟩ <;> rw [doors, doorOf_map]
  · have closes : close (doorOf d s.doors.door) = (doorOf d s.doors.door).onClose c := if_pos named
    rw [closes]
    exact Door.onClose_closed c _
  · exact if_neg unnamed

theorem ruleDoorClose_unnamed {b : Byte} (right : isHolder p s = true ∨ p = .c) (beyond : 2 < b.toNat) :
    ruleDoorClose p [b] s = (s, plainReply .badArgument) := by
  have none : closeSidesArg (byteAt [b] 0) = none := closeSidesArg_none beyond
  rw [ruleDoorClose, asHolderOrPanel_taken _ right, none]

theorem ruleDoorClose_named {b : Byte} (right : isHolder p s = true ∨ p = .c) (side : b.toNat ≤ 2) :
    ruleDoorClose p [b] s = (closeSides (!decide (b = 1)) (!decide (b = 0)) s, plainReply .accepted) := by
  have some : closeSidesArg (byteAt [b] 0) = some (!decide (b = 1), !decide (b = 0)) := closeSidesArg_some side
  rw [ruleDoorClose, asHolderOrPanel_taken _ right, some]

/-! ### DOOR RETRY -/

theorem doorArg_none {b : Byte} (noDoor : b = 0 ∨ 4 < b.toNat) : doorArg b.toNat = none := by
  unfold doorArg
  rcases noDoor with rfl | beyond
  · rfl
  · split <;> first | omega | rfl

theorem doorArg_number (d : DoorId) : doorArg (doorNumber d).toNat = some d := by cases d <;> rfl

theorem Door.waitsForRetry_iff {x : Door} : x.waitsForRetry = true ↔ x.state ∈ [DoorState.obstructed, .fault] := by
  simp [Door.waitsForRetry]

theorem ruleDoorRetry_unknown {b : Byte} (right : isHolder p s = true ∨ p = .c) (noDoor : b = 0 ∨ 4 < b.toNat) :
    ruleDoorRetry p [b] s = (s, plainReply .badArgument) := by
  have none : doorArg (byteAt [b] 0) = none := doorArg_none noDoor
  rw [ruleDoorRetry, asHolderOrPanel_taken _ right, none]

theorem ruleDoorRetry_door (right : isHolder p s = true ∨ p = .c) (d : DoorId) :
    ruleDoorRetry p [doorNumber d] s =
      if (doorOf d s.doors.door).waitsForRetry then (updDoor d (·.onRetry (doorCtx s)) s, plainReply .accepted)
      else (s, conditionReply .doorNotHeld) := by
  have some : doorArg (byteAt [doorNumber d] 0) = some d := doorArg_number d
  rw [ruleDoorRetry, asHolderOrPanel_taken _ right, some]

/-- Settles O23: a close by the sides its byte names (`closeSides_closed`), and a retry by the door its byte names,
acted on where it waits for it. -/
theorem doorsAreClosedAndRetried : Obligations.DoorsAreClosedAndRetried := by
  refine ⟨fun p b s ready right => ⟨_, request_ready 0x31 [b] 1 (ruleDoorClose p [b]) ready rfl, ?_⟩,
    fun p s ready right => ⟨fun b noDoor => ⟨_, request_ready 0x32 [b] 1 (ruleDoorRetry p [b]) ready rfl, ?_⟩,
      fun d => ⟨_, request_ready 0x32 _ 1 (ruleDoorRetry p [doorNumber d]) ready rfl, ?_⟩⟩⟩ <;>
    have asked : isHolder p (completeTelegram p s) = true ∨ p = .c := by rwa [isHolder_completeTelegram]
  · refine ⟨fun beyond => .of_refuse (ruleDoorClose_unnamed asked beyond), fun side => ?_⟩
    rw [ruleDoorClose_named asked side]
    let done : State × Reply :=
      (closeSides (!decide (b = 1)) (!decide (b = 0)) (completeTelegram p s), plainReply .accepted)
    have doors : (holdAnswer p 0x31 done).doors = done.1.doors := holdAnswer_doors ..
    obtain ⟨formed, leftFlag, rightFlag, named, others, keeps, ports⟩ :=
      closeSides_closed (!decide (b = 1)) (!decide (b = 0)) (completeTelegram p s)
    simp only [completeTelegram_doors, completeTelegram_store, sideNamed_iff side, Bool.not_eq_true',
      decide_eq_false_iff_not, ite_not] at leftFlag rightFlag named others
    rw [doors]
    exact ⟨.of_rule (r := done) (by decide) keeps (ports.mono (fun _ => id) (.inl rfl)),
      formed.hold (r := done) p _, leftFlag, rightFlag,
      fun d => ⟨named d, fun all own => others d (not_or.mpr ⟨all, own⟩)⟩⟩
  · exact .of_refuse (ruleDoorRetry_unknown asked noDoor)
  · have rule := ruleDoorRetry_door asked d
    simp only [completeTelegram_doors, Door.waitsForRetry_iff] at rule
    refine ⟨fun free => .of_refuse (rule.trans (if_neg free)), fun waits => ?_⟩
    rw [rule.trans (if_pos waits), ← completeTelegram_store p s, ← completeTelegram_doors p s]
    let done : State × Reply :=
      (updDoor d (·.onRetry (doorCtx (completeTelegram p s))) (completeTelegram p s), plainReply .accepted)
    have acted : DoorActed none d _ (completeTelegram p s) done.1 := updDoor_acted ..
    have held := acted.hold 0x32
    exact ⟨by simp [holdAnswer], held⟩

/-! ### What a release finds -/

/-- The state with every door placed anew (R131). -/
def doorsPlaced (s : State) : State := { s with doors := { s.doors with door := placeDoors s } }

theorem doorsPlaced_keeps (s : State) : Keeps (.dem :: .drive :: doorlessBlocks) s (doorsPlaced s) := fun b hb => by
  cases b <;> first | rfl | exact absurd hb (by decide)

/-- A telegram heard leaves the place of every door (R13, R131). -/
theorem placeDoors_completeTelegram (p : Port) (s : State) : placeDoors (completeTelegram p s) = placeDoors s := by
  obtain ⟨_, _, _, composition⟩ := completeTelegram_mode p s
  simp only [placeDoors, Door.placed, linePositionOf, orientationOf, composition, completeTelegram_odo,
    completeTelegram_store, completeTelegram_doors]

/-- A telegram heard leaves what qualifies a door (R13, R143). -/
theorem doorQualified_completeTelegram {side : LineSide} {m : DoorMapEntry} {e : Door} :
    DoorQualified (completeTelegram p s) side m e ↔ DoorQualified s side m e := by
  obtain ⟨mode, _, _, _⟩ := completeTelegram_mode p s
  rw [← doorQualifies_iff, ← doorQualifies_iff, doorQualifies, doorQualifies, platformCheck, platformCheck, mode,
    completeTelegram_odo, completeTelegram_store]

/-- A door that qualifies, placed anew, for a release of a side (R131, R143). -/
def Releasable (s : State) (side : LineSide) (d : DoorId) : Prop :=
  DoorQualified s side (mapOf d s.store.params.doorMap) (doorOf d (placeDoors s))

theorem releasable_completeTelegram {side : LineSide} :
    Releasable (completeTelegram p s) side d ↔ Releasable s side d := by
  rw [Releasable, completeTelegram_store, placeDoors_completeTelegram, doorQualified_completeTelegram, Releasable]

/-- The qualifiers are those of the doors, each by its map entry (R143). -/
theorem qualifiers_any_iff {side : LineSide} {q : Quad Door} :
    ((qualifiers s side q).d1 || (qualifiers s side q).d2 || (qualifiers s side q).d3 || (qualifiers s side q).d4) =
      true ↔ ∃ d, DoorQualified s side (mapOf d s.store.params.doorMap) (doorOf d q) := by
  simp only [← doorQualifies_iff, Bool.or_eq_true]
  constructor
  · rintro (((first | second) | third) | fourth)
    exacts [⟨.d1, first⟩, ⟨.d2, second⟩, ⟨.d3, third⟩, ⟨.d4, fourth⟩]
  · rintro ⟨d, qualifies⟩
    cases d
    exacts [.inl (.inl (.inl qualifies)), .inl (.inl (.inr qualifies)), .inl (.inr qualifies), .inr qualifies]

/-! ### A release taken -/

/-- A placing changes neither a door's state nor its LOCK_LOST, so that the events are those of the acts that follow. -/
theorem DoorsFormed.of_placed (h : DoorsFormed (doorsPlaced s) t) : DoorsFormed s t := by
  obtain ⟨loop, row, event⟩ := h
  refine ⟨loop, row.of_eq rfl rfl rfl rfl, fun changed => event ?_⟩
  refine changed.imp_right (.imp_right (.imp_right fun ⟨d, moved⟩ => ⟨d, ?_⟩))
  cases d <;> exact moved

/-- A release of a side taken: its flag set, each door that qualifies acted on and every other left as placed (R142,
R144). -/
structure SideReleased (side : LineSide) (auto : Bool) (s t : State) : Prop where
  formed : DoorsFormed s t
  left : t.doors.leftReleased = (s.doors.leftReleased || side = .left)
  right : t.doors.rightReleased = (s.doors.rightReleased || side = .right)
  qualified : ∀ d, Releasable s side d →
    DoorReleased auto s.store.params.doorMoveTime s.store.params.doorWarningTime (doorOf d (placeDoors s))
      (doorOf d t.doors.door)
  others : ∀ d, ¬Releasable s side d → doorOf d t.doors.door = doorOf d (placeDoors s)
  keeps : Keeps doorlessBlocks s t
  ports : PortsKeep (.doors :: rowEvents) none s t

theorem releaseDoors_released (side : LineSide) (auto : Bool) (permitted : openPermission s = true) :
    SideReleased side auto s
      (releaseDoors side auto (placeDoors s) (qualifiers s side (placeDoors s)) (doorsPlaced s)) := by
  let c : DoorCtx := { doorCtx s with
    left := s.doors.leftReleased || side = .left, right := s.doors.rightReleased || side = .right }
  let q := placeDoors s
  let w := qualifiers s side q
  let new : Quad Door := ⟨releaseWhere c auto w.d1 q.d1, releaseWhere c auto w.d2 q.d2, releaseWhere c auto w.d3 q.d3,
    releaseWhere c auto w.d4 q.d4⟩
  have put : releaseDoors side auto q w (doorsPlaced s) = putDoors new c.left c.right (doorsPlaced s) := rfl
  have each : ∀ d, doorOf d new =
      releaseWhere c auto (doorQualifies s side (mapOf d s.store.params.doorMap) (doorOf d q)) (doorOf d q) := by
    intro d
    cases d <;> rfl
  obtain ⟨formed, doors, left, right, keeps, ports⟩ := putDoors_formed new c.left c.right (doorsPlaced s)
  rw [← put] at formed doors left right keeps ports
  refine ⟨formed.of_placed, left, right, fun d qualified => ?_, fun d unqualified => ?_,
    Keeps.trans ((doorsPlaced_keeps s).mono (by decide)) keeps,
    PortsKeep.trans (t := doorsPlaced s) (.of_eq rfl) ports⟩ <;> rw [doors, each]
  · have released : c.released (doorOf d q).lineSide = true := by
      rw [qualified.lineSide]
      cases side <;> simp [DoorCtx.released, c]
    rw [doorQualifies_iff _ _ _ _ |>.mpr qualified]
    exact Door.onRelease_released c auto _ permitted released
  · rw [Bool.eq_false_iff.mpr fun qualifies => unqualified ((doorQualifies_iff _ _ _ _).mp qualifies)]
    rfl

/-! ### DOOR RELEASE -/

theorem lineSideArg_code (side : LineSide) : lineSideArg side.code.toNat = some side := by cases side <;> rfl

theorem flagArg_boolField (b : Bool) : flagArg (byteAt (boolField b) 0) = some b := by cases b <;> rfl

theorem lineSideArg_none {n : Nat} (beyond : 2 ≤ n) : lineSideArg n = none := by
  unfold lineSideArg
  split <;> first | omega | rfl

theorem flagArg_none {n : Nat} (beyond : 2 ≤ n) : flagArg n = none := by
  unfold flagArg
  split <;> first | omega | rfl

theorem ruleDoorRelease_coded {a b : Byte} (holder : isHolder p s = true) (uncoded : 2 ≤ a.toNat ∨ 2 ≤ b.toNat) :
    ruleDoorRelease p [a, b] s = (s, plainReply .badArgument) := by
  rw [ruleDoorRelease, asHolder_holder _ holder]
  split
  case h_1 side flag =>
    rcases uncoded with noSide | noFlag
    · exact absurd ((lineSideArg_none noSide).symm.trans side) (by simp)
    · exact absurd ((flagArg_none noFlag).symm.trans flag) (by simp)
  case h_2 => rfl

/-- DOOR RELEASE as the holder's command (R142). -/
theorem ruleDoorRelease_holder (holder : isHolder p s = true) (side : LineSide) (auto : Bool) :
    ruleDoorRelease p (side.code :: boolField auto) s =
      if moving s then (s, plainReply .notStandstill)
      else if s.drive.springStatus ≠ .applied then (s, conditionReply .springNotApplied)
      else tryRelease side auto s := by
  have named : lineSideArg (byteAt (side.code :: boolField auto) 0) = some side := lineSideArg_code side
  have asked : flagArg (byteAt (side.code :: boolField auto) 1) = some auto := flagArg_boolField auto
  rw [ruleDoorRelease, asHolder_holder _ holder, named, asked]

theorem tryRelease_none {side : LineSide} (auto : Bool) (none : ∀ d, ¬Releasable s side d) :
    tryRelease side auto s = (doorsPlaced s, plainReply .noPlatform) :=
  if_neg fun any => (qualifiers_any_iff.mp any).elim none

theorem tryRelease_some {side : LineSide} (auto : Bool) (permitted : openPermission s = true)
    (some : ∃ d, Releasable s side d) :
    ∃ t, tryRelease side auto s = (t, plainReply .accepted) ∧ SideReleased side auto s t :=
  ⟨_, if_pos (qualifiers_any_iff.mpr some), releaseDoors_released side auto permitted⟩

/-- Settles O22: the tests of the rule in their order, the doors placed (`placeDoors_placed`), and with a door that
qualifies the side released (`releaseDoors_released`). -/
theorem doorReleaseActsOnQualifiedDoors : Obligations.DoorReleaseActsOnQualifiedDoors := by
  refine ⟨fun p a b s ready holder uncoded => ⟨_, request_ready 0x30 [a, b] 2 (ruleDoorRelease p [a, b]) ready rfl,
    .of_refuse (ruleDoorRelease_coded (by rwa [isHolder_completeTelegram]) uncoded)⟩,
    fun p side auto s ready holder => ⟨_, completeTelegram p s, placeDoors s,
      request_ready 0x30 _ 2 (ruleDoorRelease p _) ready rfl, rfl, placeDoors_placed s, ?_⟩⟩
  rw [ruleDoorRelease_holder (by rwa [isHolder_completeTelegram]), moving_completeTelegram,
    (completeTelegram_brakes p s).drive.springStatus]
  refine ⟨fun moves => .of_refuse ?_, fun still free => .of_refuse ?_, fun still applied => ?_⟩
  · rw [moves]
    rfl
  · rw [still]
    exact if_pos free
  rw [still, if_neg (by decide), if_neg (not_not.mpr applied)]
  refine ⟨fun none => ?_, fun some => ?_⟩
  · rw [tryRelease_none auto fun d => mt releasable_completeTelegram.mp (none d)]
    let done : State × Reply := (doorsPlaced (completeTelegram p s), plainReply .noPlatform)
    refine ⟨.of_rule (r := done) (by decide) (doorsPlaced_keeps _) (.of_eq rfl), ?_⟩
    have doors : (holdAnswer p 0x30 done).doors = done.1.doors := holdAnswer_doors ..
    rw [doors, ← completeTelegram_doors p s, ← placeDoors_completeTelegram p s]
    rfl
  · have permitted : openPermission (completeTelegram p s) = true := by
      simp [openPermission, still, (completeTelegram_brakes p s).drive.springStatus, applied]
    obtain ⟨t, accepted, formed, left, right, released, others, keeps, ports⟩ := tryRelease_some auto permitted
      (some.imp fun _ => releasable_completeTelegram.mpr)
    let done : State × Reply := (t, plainReply .accepted)
    have doors : (holdAnswer p 0x30 done).doors = t.doors := holdAnswer_doors ..
    rw [completeTelegram_doors] at left right
    simp only [releasable_completeTelegram, completeTelegram_store, placeDoors_completeTelegram] at released others
    rw [accepted, doors]
    exact ⟨.of_rule (r := done) (by decide) keeps (ports.mono (fun _ => id) (.inl rfl)), formed.hold (r := done) p _,
      left, right, fun d => ⟨released d, others d⟩⟩

end Sys2Proof.Machine
end

section
/-!
INBOX TAKE and COUNTER DECREMENT: the message that a take returns (`inboxOrder_head`), and the counter that a number
names (R154, R163).
-/

namespace Sys2Proof.Machine

variable {m : Message} {n amount : Nat} {s : State}

/-! ### INBOX TAKE -/

/-- The message taken first: the oldest URGENT one, or the oldest of all where none is (R163). -/
theorem inboxOrder_head (inbox : List Message) :
    (inboxOrder inbox).head? = (inbox.filter (·.priority = .urgent) ++ inbox).head? := by
  cases urgent : inbox.filter fun m => m.priority = .urgent with
  | cons m rest => simp only [inboxOrder, urgent, List.cons_append, List.head?_cons]
  | nil =>
    have rest : inbox.filter (fun m => !(m.priority = .urgent)) = inbox :=
      List.filter_eq_self.mpr fun m mem => by simpa using List.filter_eq_nil_iff.mp urgent m mem
    simp only [inboxOrder, urgent, rest]

theorem ruleInboxTake_empty (empty : s.radio.inbox = []) : ruleInboxTake s = (s, plainReply .notFound) := by
  rw [ruleInboxTake, empty]
  rfl

/-- INBOX TAKE with a message stored (R163). -/
theorem ruleInboxTake_first (first : (inboxOrder s.radio.inbox).head? = some m) :
    ruleInboxTake s = (updRadio (Radio.withInbox (s.radio.inbox.erase m)) s, okReply (messageEntry m)) := by
  obtain ⟨rest, order⟩ := List.head?_eq_some_iff.mp first
  rw [ruleInboxTake, order]
  rfl

/-! ### COUNTER DECREMENT -/

theorem counterArg_number (k : Counter) : counterArg (counterNumber k) = some k := by cases k <;> rfl

theorem counterNumber_lt (k : Counter) : counterNumber k < 256 := by cases k <;> decide

theorem counterArg_none (beyond : 12 ≤ n) : counterArg n = none := by
  unfold counterArg
  split <;> first | omega | rfl

/-- The fields of a COUNTER DECREMENT are read back from their bytes (R154). -/
theorem decrementBytes_read (hn : n < 256) (ha : amount < 65536) :
    byteAt (natField 1 n ++ natField 2 amount) 0 = n ∧ word16 (natField 1 n ++ natField 2 amount) 1 = amount := by
  rw [natField_one n hn, natField_two amount ha]
  exact ⟨(BitVec.toNat_ofNat ..).trans (Nat.mod_eq_of_lt hn), word16_bytes amount ha⟩

theorem ruleCounterDecrement_unknown (beyond : 12 ≤ n) (hn : n < 256) (ha : amount < 65536) :
    ruleCounterDecrement (natField 1 n ++ natField 2 amount) s = (s, plainReply .badArgument) := by
  rw [ruleCounterDecrement, (decrementBytes_read hn ha).1, counterArg_none beyond]

/-- COUNTER DECREMENT of a counter that exists (R154). -/
theorem ruleCounterDecrement_counter (k : Counter) (ha : amount < 65536) :
    ruleCounterDecrement (natField 1 (counterNumber k) ++ natField 2 amount) s =
      (updRadio (fun r => { r with counters := r.counters.put k (s.radio.counters.get k - amount) }) s,
        okReply (natField 2 (s.radio.counters.get k - amount))) := by
  obtain ⟨number, lowered⟩ := decrementBytes_read (counterNumber_lt k) ha
  rw [ruleCounterDecrement, number, counterArg_number, lowered]

/-! ### Both commands -/

/-- A change of the radio leaves every other block. -/
theorem updRadio_keeps (f : Radio → Radio) (s : State) : Keeps allButRadio s (updRadio f s) := fun b hb => by
  cases b <;> first | rfl | exact absurd hb (by decide)

/-- A rule that changes the radio alone, answered. -/
theorem Answered.of_updRadio (p : Port) (code : Byte) (f : Radio → Radio) (a : Reply) (s : State) :
    Answered p code a (.mode :: .dem :: .drive :: [.odo, .store, .limits, .sup, .doors, .memory, .pending]) [] s
      (holdAnswer p code (updRadio f (completeTelegram p s), a)) :=
  let done : State × Reply := (updRadio f (completeTelegram p s), a)
  .of_rule (r := done) (by decide) (Keeps.mono (updRadio_keeps f _) (by decide)) (.of_eq rfl)

/-- Settles O31: the take by the head of the order (`inboxOrder_head`), the decrement by the counter's number, each
judged by `request_ready`. -/
theorem inboxIsTakenAndCountersLowered : Obligations.InboxIsTakenAndCountersLowered := by
  refine fun p s ready => ⟨⟨_, request_ready 0x50 [] 0 ruleInboxTake ready rfl, fun empty => ?_, fun m first => ?_⟩,
    fun amount ha => ⟨fun n beyond hn => ?_, fun k => ?_⟩⟩
  · exact .of_refuse (ruleInboxTake_empty (by rwa [completeTelegram_radio]))
  · rw [ruleInboxTake_first (m := m) (by rwa [completeTelegram_radio, inboxOrder_head])]
    refine ⟨.of_updRadio .., ?_⟩
    rw [holdAnswer_radio, updRadio_radio, completeTelegram_radio]
    rfl
  · exact ⟨_, request_ready 0x51 _ 3 _ ready (by rw [List.length_append, natField_length, natField_length]),
      .of_refuse (ruleCounterDecrement_unknown beyond hn ha)⟩
  · refine ⟨_, request_ready 0x51 _ 3 _ ready (by rw [List.length_append, natField_length, natField_length]), ?_⟩
    rw [ruleCounterDecrement_counter k ha, completeTelegram_radio]
    refine ⟨.of_updRadio .., ?_⟩
    rw [holdAnswer_radio, updRadio_radio, completeTelegram_radio]
    exact ⟨rfl, fun j => Counters.get_put ..⟩

end Sys2Proof.Machine
end

section
/-!
Frames: a frame read back from the bytes that carry it (`parseFrame_frameOnAir`), and the class that a frame is counted
in (`addressClass_foreign`, `addressClass_elsewhere`) (R151 to R153, R159).
-/

namespace Sys2Proof.Machine

variable {f : Frame} {bytes : List Byte} {s : State}

/-! ### The bytes of a frame -/

theorem frameOnAir_length (f : Frame) : (frameOnAir f).length = f.body.length + 10 := by
  simp only [frameOnAir, crcField, List.length_append, List.length_cons, List.length_nil]
  omega

/-- A word is the two bytes that carry it, high byte first (R184). -/
theorem word_of_bytes (x : BitVec 16) :
    BitVec.ofNat 16 (256 * (x.extractLsb' 8 8).toNat + (x.extractLsb' 0 8).toNat) = x := by
  have fits : x.toNat < 65536 := x.isLt
  refine BitVec.eq_of_toNat_eq ?_
  simp only [BitVec.toNat_ofNat, BitVec.extractLsb'_toNat, Nat.shiftRight_eq_div_pow]
  omega

/-- A frame is read back from its bytes (R151, Formats). -/
theorem parseFrame_frameOnAir (f : Frame) : parseFrame (frameOnAir f) = f := by
  have body : ((frameOnAir f).drop 8).take ((frameOnAir f).length - 10) = f.body :=
    List.take_left' (by rw [frameOnAir_length]; rfl)
  obtain ⟨⟨lineId, station, zone, serial, train⟩, kind, content⟩ := f
  have header : (parseFrame (frameOnAir ⟨⟨lineId, station, zone, serial, train⟩, kind, content⟩)).header =
      ⟨lineId, station, zone, serial, train⟩ :=
    congrArg₂ (FrameHeader.mk lineId station zone) (word_of_bytes serial) (word_of_bytes train)
  exact congrArg₂ (fun h b => Frame.mk h kind b) header body

/-- A frame delivered whole is the frame that its bytes carry (R151, R152). -/
theorem receiveBytes_frameOnAir (f : Frame) (s : State) : receiveBytes (frameOnAir f) s = receiveFrame f s := by
  by_cases sending : s.radio.transmission.isSome
  · exact (if_pos sending).trans (if_pos sending).symm
  · have long : ¬(frameOnAir f).length < 10 := by rw [frameOnAir_length]; omega
    have good : crcGood (frameOnAir f) = true := (crcGood_append ..).mpr rfl
    rw [receiveBytes, if_neg sending, if_neg long, if_pos good, parseFrame_frameOnAir]

theorem receiveBytes_sending (sends : s.radio.transmission ≠ none) (bytes : List Byte) : receiveBytes bytes s = s :=
  if_pos (Option.isSome_iff_ne_none.mpr sends)

/-- Bytes that carry no frame, by what is wrong with them (R152, orders 1 to 4). -/
theorem receiveBytes_bad (quiet : s.radio.transmission = none)
    (bad : bytes.length < 10 ∨ bytes.drop (bytes.length - 2) ≠ crcField (bytes.take (bytes.length - 2))) :
    receiveBytes bytes s = count (if bytes.length < 10 then .shortFrames
      else if 128 < bytes.length then .longBadFrames else .crcErrors) s := by
  rw [receiveBytes, if_neg (by rw [quiet]; decide)]
  by_cases short : bytes.length < 10
  · rw [if_pos short, if_pos short]
  · have crc : ¬crcGood bytes = true := by rw [crcGood, beq_iff_eq]; exact bad.resolve_left short
    rw [if_neg short, if_neg short, if_neg crc]
    split <;> rfl

/-! ### The class of a frame -/

theorem inThirtyOne_iff {b : Byte} : inThirtyOne b = true ↔ 1 ≤ b.toNat ∧ b.toNat ≤ 31 := by
  simp only [inThirtyOne, Bool.and_eq_true, decide_eq_true_eq]

/-- The first test of a frame's class is that of its line, station and zone (R152, order 5). -/
theorem lineGood_iff : lineGood f s ↔ ¬(f.header.lineId.toNat ≠ s.store.lineId ∨ s.store.lineId = 0 ∨
    !inThirtyOne f.header.station ∨ !inThirtyOne f.header.zone) := by
  simp only [lineGood, not_or, not_not, Bool.not_eq_true', Bool.not_eq_false, inThirtyOne_iff, and_assoc, ne_eq]

theorem addressClass_foreign (other : ¬lineGood f s) : addressClass s f = .foreign :=
  if_pos (not_not.mp (mt lineGood_iff.mpr other))

/-- The next two tests are that of its train and that of a stop's zone (R152, orders 6 and 7). -/
theorem addressedHere_iff : addressedHere f s ↔
    ¬(f.header.train ≠ 0 ∧ s.mode.composition.all (fun c => c.train ≠ f.header.train.toNat)) ∧
      ¬(f.header.train = 0 ∧ (f.kind = 0x14 ∨ f.kind = 0x15) ∧ f.header.zone.toNat ≠ s.radio.zone) := by
  have named : ¬s.mode.composition.all (fun c => c.train ≠ f.header.train.toNat) = true ↔
      ∃ c, s.mode.composition = some c ∧ c.train = f.header.train.toNat := by
    cases s.mode.composition <;> simp
  simp only [addressedHere, not_and, named, not_not, ne_eq]

theorem addressClass_elsewhere (ours : lineGood f s) (other : ¬addressedHere f s) :
    addressClass s f = .notAddressed := by
  rw [addressClass, if_neg (lineGood_iff.mp ours)]
  by_cases train : f.header.train ≠ 0 ∧ s.mode.composition.all (fun c => c.train ≠ f.header.train.toNat)
  · exact if_pos train
  · rw [if_neg train]
    exact if_pos (not_not.mp fun zoned => other (addressedHere_iff.mpr ⟨train, zoned⟩))

theorem receiveFrame_foreign (quiet : s.radio.transmission = none) (fits : f.body.length ≤ 118)
    (other : ¬lineGood f s) : receiveFrame f s = count .foreignFrames s := by
  rw [receiveFrame, if_neg (by rw [quiet]; decide), if_neg (not_lt.mpr fits), addressClass_foreign other]

theorem receiveFrame_elsewhere (quiet : s.radio.transmission = none) (fits : f.body.length ≤ 118)
    (ours : lineGood f s) (other : ¬addressedHere f s) : receiveFrame f s = count .notAddressed s := by
  rw [receiveFrame, if_neg (by rw [quiet]; decide), if_neg (not_lt.mpr fits), addressClass_elsewhere ours other]

theorem receiveFrame_long (quiet : s.radio.transmission = none) (long : 118 < f.body.length) :
    receiveFrame f s = count .longFrames s := by
  rw [receiveFrame, if_neg (by rw [quiet]; decide), if_pos long]

/-- A GOOD frame of a kind that the unit does not handle is discarded (R159). -/
theorem handleGood_unhandled (other : f.kind ∉ [(0x01 : Byte), 0x10, 0x11, 0x12, 0x13, 0x14, 0x15, 0x16]) :
    handleGood f s = s := by
  simp only [List.mem_cons, List.not_mem_nil, or_false, not_or] at other
  obtain ⟨beacon, set, lift, grant, revoke, stop, release, text⟩ := other
  simp only [handleGood, bulletinKindOf, if_neg beacon, if_neg set, if_neg lift, if_neg grant, if_neg revoke,
    if_neg stop, if_neg release, if_neg text]

/-- Settles O45: the frame from its bytes (`receiveBytes_frameOnAir`), what is wrong with bytes that carry none
(`receiveBytes_bad`), and the classes of the others, each counted (`count_counted`). -/
theorem framesAreClassedAndCounted : Obligations.FramesAreClassedAndCounted := by
  refine ⟨fun f s => congrArg Host.Outcome.next (receiveBytes_frameOnAir f s), fun _ _ => rfl,
    fun i f s frame => exec_frame frame s, fun bytes s => ⟨_, rfl, fun sends => receiveBytes_sending sends bytes,
      fun quiet => ⟨fun short => ?_, fun long fits bad => ?_, fun long bad => ?_⟩⟩,
    fun f s quiet => ⟨fun long => ?_, fun fits other => ?_, fun fits ours other => ?_, fun good other => ?_⟩⟩
  · rw [receiveBytes_bad quiet (.inl short), if_pos short]
    exact count_counted ..
  · rw [receiveBytes_bad quiet (.inr bad), if_neg (not_lt.mpr long), if_neg (not_lt.mpr fits)]
    exact count_counted ..
  · rw [receiveBytes_bad quiet (.inr bad), if_neg (not_lt.mpr (by omega)), if_pos long]
    exact count_counted ..
  · rw [receiveFrame_long quiet long]
    exact count_counted ..
  · rw [receiveFrame_foreign quiet fits other]
    exact count_counted ..
  · rw [receiveFrame_elsewhere quiet fits ours other]
    exact count_counted ..
  · rw [receiveFrame_good good, handleGood_unhandled other]
    exact count_counted ..

end Sys2Proof.Machine
end

section
/-!
Beacons and the silence timer: the coverage formed from a radio written (`formCoverage_timer`), a window opened or
not, and a beacon by its zone and its flag (R156 to R158, R167, R168).
-/

namespace Sys2Proof.Machine

variable {h : FrameHeader} {flag : Byte} {s : State}

/-! ### The coverage -/

/-- The coverage as it is formed stands by the table of R157. -/
theorem formCoverage_table (s : State) : CoverageOf (formCoverage s) (formCoverage s).radio.coverage := by
  obtain ⟨radio, _, keeps, _⟩ := formCoverage_formed s
  have odo : (formCoverage s).odo = s.odo := keeps .odo (by decide)
  have store : (formCoverage s).store = s.store := keeps .store (by decide)
  have same : coverageOf (formCoverage s) = coverageOf s := by
    unfold coverageOf carSegment
    rw [odo, store, radio]
  have formed : (formCoverage s).radio.coverage = coverageOf (formCoverage s) := by rw [same, radio]
  rw [formed]
  exact coverageOf_table _

/-- The coverage formed from a radio whose silence timer has been written, with the RADIO event of a change (R156,
R157). -/
structure CoverageFormed (seconds tick : Nat) (s t : State) : Prop where
  radio : t.radio = { s.radio with silenceCount := seconds, silenceTick := tick, coverage := t.radio.coverage }
  coverage : CoverageOf t t.radio.coverage
  event : t.radio.coverage ≠ s.radio.coverage → raisedAll .radio t
  keeps : Keeps allButRadio s t
  ports : PortsKeep [.radio] none s t

theorem formCoverage_timer {f : Radio → Radio} {seconds tick : Nat}
    (written : f s.radio = { s.radio with silenceCount := seconds, silenceTick := tick }) :
    CoverageFormed seconds tick s (formCoverage (updRadio f s)) := by
  obtain ⟨radio, event, keeps, ports⟩ := formCoverage_formed (updRadio f s)
  rw [updRadio_radio, written] at radio event
  have aside : PortsKeep [.radio] none s (updRadio f s) := .of_eq rfl
  refine ⟨?_, formCoverage_table _, ?_, Keeps.trans (updRadio_keeps f s) keeps, aside.trans ports⟩
  · rw [radio]
  · rw [radio]
    exact event

/-! ### The window -/

theorem transmits_iff {m : ModeUnit} : transmits m = true ↔ ∃ x, m.composition = some x ∧ x.role = .transmit := by
  unfold transmits
  cases m.composition <;> simp

/-- A window opened for a TRANSMIT car that has none, its first transmission beginning (R167, R168). -/
theorem openWindow_opened (sends : transmits s.mode = true) (closed : s.radio.window = none)
    (quiet : s.radio.transmission = none) :
    TransmissionBegun { s with radio := { s.radio with window := some ⟨0, 0⟩ } } (openWindow s) := by
  have opens : openWindow s = beginTransmission { s with radio := { s.radio with window := some ⟨0, 0⟩ } } :=
    if_pos (by rw [sends, closed, quiet]; rfl)
  rw [opens]
  exact beginTransmission_begun _

theorem openWindow_left (stays : transmits s.mode = false ∨ s.radio.window ≠ none) : openWindow s = s := by
  refine if_neg fun opens => ?_
  simp only [Bool.and_eq_true, Option.isNone_iff_eq_none] at opens
  obtain ⟨⟨sends, closed⟩, _⟩ := opens
  rcases stays with listens | opened
  · exact absurd (sends.symm.trans listens) (by decide)
  · exact opened closed

/-- What the flag of a beacon does, by the car's role and its window (R158, R167). -/
theorem flag_window {m : ModeUnit} {w : Option Window} (flag : Byte) (mode : s.mode = m) (window : s.radio.window = w)
    (quiet : s.radio.transmission = none) :
    (flag.getLsbD 0 = true → (∃ x, m.composition = some x ∧ x.role = .transmit) → w = none →
      TransmissionBegun { s with radio := { s.radio with window := some ⟨0, 0⟩ } }
        (if flag.getLsbD 0 then openWindow s else s)) ∧
    (flag.getLsbD 0 = false ∨ (∀ x, m.composition = some x → x.role = .listen) ∨ w ≠ none →
      (if flag.getLsbD 0 then openWindow s else s) = s) := by
  subst mode window
  refine ⟨fun flagged sends closed => ?_, fun stays => ?_⟩
  · rw [if_pos flagged]
    exact openWindow_opened (transmits_iff.mpr sends) closed quiet
  · by_cases flagged : flag.getLsbD 0 = true
    · rw [if_pos flagged]
      rcases stays with unflagged | listens | opened
      · exact absurd (flagged.symm.trans unflagged) (by decide)
      · refine openWindow_left (.inl (Bool.eq_false_iff.mpr fun sends => ?_))
        obtain ⟨x, composed, role⟩ := transmits_iff.mp sends
        exact absurd (role.symm.trans (listens x composed)) (by decide)
      · exact openWindow_left (.inr opened)
    · exact if_neg flagged

/-! ### A beacon -/

/-- The state that a beacon in the current zone leaves before its flag is looked at (R158). -/
def zoneBeaconed (s : State) : State :=
  formCoverage (updRadio (fun r => if r.silenceRunning then r.silence true else r) s)

theorem receiveFrame_beacon {body : List Byte} (good : frameGood ⟨h, 0x01, body⟩ s) :
    receiveFrame ⟨h, 0x01, body⟩ s = handleBeacon h body (count .goodFrames s) := receiveFrame_good good

theorem handleBeacon_other {body : List Byte} (length : body.length ≠ 1) : handleBeacon h body s = s := by
  unfold handleBeacon
  split
  · exact absurd rfl length
  · rfl

theorem count_zone (k : Counter) (s : State) : (count k s).radio.zone = s.radio.zone := by
  rw [(count_counted k s).rest]

theorem handleBeacon_flag : handleBeacon h [flag] s =
    if h.zone.toNat = s.radio.zone ∧ s.radio.zone ≠ 0 then
      if flag.getLsbD 0 then openWindow (zoneBeaconed (count .beacons s)) else zoneBeaconed (count .beacons s)
    else count .beacons s := by
  simp only [handleBeacon, count_zone]
  rfl

theorem zoneBeaconed_formed (s : State) :
    CoverageFormed (if s.radio.silenceRunning then 0 else s.radio.silenceCount)
      (if s.radio.silenceRunning then 0 else s.radio.silenceTick) s (zoneBeaconed s) := by
  refine formCoverage_timer ?_
  cases runs : s.radio.silenceRunning
  · rfl
  · simp [Radio.silence, runs]

theorem Radio.tickUp_iff {r : Radio} : r.tickUp = true ↔ r.silenceRunning = true ∧ 1000 ≤ r.silenceTick := by
  simp only [Radio.tickUp, Bool.and_eq_true, decide_eq_true_eq]

/-- The state in which a beacon is handled, the frame and the beacon counted (R153, R158). -/
def beaconCounted (s : State) : State := count .beacons (count .goodFrames s)

theorem beaconCounted_radio (s : State) : ∃ counters, (beaconCounted s).radio = { s.radio with counters := counters } := by
  have both := (count_counted .beacons (count .goodFrames s)).rest
  rw [(count_counted .goodFrames s).rest] at both
  exact ⟨_, both⟩

theorem beaconCounted_mode (s : State) : (beaconCounted s).mode = s.mode :=
  ((count_counted .goodFrames s).keeps.trans (count_counted .beacons _).keeps) .mode (by decide)

/-- Settles O46: a beacon as counted and handled (`receiveFrame_beacon`, `handleBeacon_flag`), the coverage it forms
(`zoneBeaconed_formed`), the window by its flag (`flag_window`), and the tick by `formCoverage_timer`. -/
theorem beaconsAndTicksFormTheCoverage : Obligations.BeaconsAndTicksFormTheCoverage := by
  refine ⟨fun h body s good => ⟨_, count .goodFrames s, congrArg Host.Outcome.next (receiveFrame_beacon good),
      count_counted .., handleBeacon_other, ?_⟩, fun s => ⟨_, rfl, fun still => if_neg ?_, fun runs second => ?_⟩⟩
  · rintro flag rfl
    obtain ⟨counters, radio⟩ := beaconCounted_radio s
    have handled := handleBeacon_flag (h := h) (flag := flag) (s := count .goodFrames s)
    rw [count_zone] at handled
    refine ⟨beaconCounted s, count_counted .., fun elsewhere => handled.trans (if_neg ?_), fun here zoned => ?_⟩
    · rintro ⟨here, zoned⟩
      exact elsewhere.elim (· here) zoned
    · have formed := zoneBeaconed_formed (beaconCounted s)
      have quiet : (zoneBeaconed (beaconCounted s)).radio.transmission = none := by
        rw [formed.radio, radio]
        exact good.1
      have window : (zoneBeaconed (beaconCounted s)).radio.window = s.radio.window := by rw [formed.radio, radio]
      have mode : (zoneBeaconed (beaconCounted s)).mode = s.mode :=
        Eq.trans (formed.keeps .mode (by decide)) (beaconCounted_mode s)
      obtain ⟨opens, stays⟩ := flag_window flag mode window quiet
      have done : handleBeacon h [flag] (count .goodFrames s) =
          if flag.getLsbD 0 then openWindow (zoneBeaconed (beaconCounted s)) else zoneBeaconed (beaconCounted s) :=
        handled.trans (if_pos ⟨here, zoned⟩)
      obtain ⟨written, table, event, keeps, ports⟩ := formed
      rw [radio] at written event
      rw [done, radio]
      exact ⟨zoneBeaconed (beaconCounted s), written, table, event, keeps, ports, opens, stays⟩
  · rw [Radio.tickUp_iff]
    rintro ⟨runs, second⟩
    rcases still with held | early
    · exact absurd (runs.symm.trans held) (by decide)
    · exact absurd second (not_le.mpr early)
  · rw [if_pos (Radio.tickUp_iff.mpr ⟨runs, second⟩)]
    obtain ⟨radio, table, event, keeps, ports⟩ := formCoverage_timer (s := s)
      (f := fun r => { r with silenceCount := satInc r.silenceCount, silenceTick := 0 }) rfl
    exact ⟨radio, table, event, keeps, ports⟩

end Sys2Proof.Machine
end

section
/-!
What the part sends and when: the end of a transmission, the window and the report timer (R166 to R168), and the frames
sent, the report's body as the fields of its layout one after another (`reportBody_fields`, `fields_placed`) (R169).
-/

namespace Sys2Proof.Machine

variable {c : Composition} {s : State}

/-! ### The timers -/

theorem Radio.windowUp_iff {r : Radio} : r.windowUp = true ↔ ∃ w, r.window = some w ∧ 500 ≤ w.timer := by
  unfold Radio.windowUp Config.uplinkWindow
  cases r.window <;> simp

theorem Radio.reportUp_iff {r : Radio} :
    r.reportUp = true ↔ ∃ n interval, r.reportTimer = some (n, interval) ∧ 1000 * interval ≤ n := by
  unfold Radio.reportUp
  cases r.reportTimer <;> simp [Prod.ext_iff]

theorem Radio.sent_ack {r : Radio} {x : Transmission} {e : BulletinEntry} {queued : Bool}
    (sends : r.transmission = some x) (kind : x.kind = .ack e queued) :
    r.sent = { r with transmission := none, acks := if queued then r.acks.drop 1 else r.acks } := by
  rw [Radio.sent, sends]
  simp only [kind]

theorem Radio.sent_report {r : Radio} {x : Transmission} (sends : r.transmission = some x) (kind : x.kind = .report) :
    r.sent = { r with transmission := none, reportDue := false } := by
  rw [Radio.sent, sends]
  simp only [kind]

/-! ### Fields one after another -/

/-- The fields of a layout (offset, width and content) stand one after another from an offset, each as wide as it is
said to be. -/
def FieldsFrom : Nat → List (Nat × Nat × List Byte) → Prop
  | _, [] => True
  | n, (offset, width, content) :: rest => offset = n ∧ content.length = width ∧ FieldsFrom (n + width) rest

/-- Fields written one after another stand at their offsets (Formats). -/
theorem fields_placed {l : List (Nat × Nat × List Byte)} {before : List Byte} (h : FieldsFrom before.length l) :
    ∀ x ∈ l, ((before ++ l.flatMap (·.2.2)).drop x.1).take x.2.1 = x.2.2 := by
  induction l generalizing before with
  | nil => exact fun x mem => absurd mem List.not_mem_nil
  | cons y rest ih =>
    obtain ⟨offset, width, content⟩ := y
    obtain ⟨starts, wide, follow⟩ := h
    rw [List.flatMap_cons, List.forall_mem_cons]
    refine ⟨?_, ?_⟩
    · rw [List.drop_left' starts.symm, List.take_left' wide]
    · rw [← List.append_assoc]
      exact ih (by rwa [List.length_append, wide])

theorem fields_length {l : List (Nat × Nat × List Byte)} {n : Nat} (h : FieldsFrom n l) :
    (l.flatMap (·.2.2)).length = (l.map (·.2.1)).sum := by
  induction l generalizing n with
  | nil => rfl
  | cons y rest ih =>
    obtain ⟨_, wide, follow⟩ := h
    rw [List.flatMap_cons, List.length_append, ih follow, wide, List.map_cons, List.sum_cons]

/-! ### The position report -/

/-- The envelope of the recorded composition (R29). -/
theorem envelope_composed (composed : s.mode.composition = some c) :
    envelope s = if s.odo.posState = .unknown then none
      else some ⟨(s.odo.position : Int) - c.offset, (s.odo.position : Int) - c.offset + c.length⟩ := by
  unfold envelope
  rw [composed]
  cases s.odo.posState <;> rfl

/-- The body of a report is the fields of its layout (R169, Formats). -/
theorem reportBody_fields (composed : s.mode.composition = some c) :
    reportBody s = (reportLayout c s).flatMap (·.2.2) := by
  simp only [reportBody, envelope_composed composed, reportLayout, List.flatMap_cons, List.flatMap_nil,
    List.append_assoc, List.append_nil]
  refine congrArg₂ (· ++ ·) ?front (congrArg (natField 2 s.odo.uncertainty ++ ·)
    (congrArg (natField 2 s.odo.speed ++ ·) (congrArg ([s.mode.direction.code] ++ ·) (congrArg ([s.mode.mode.code] ++ ·)
      (congrArg₂ (· ++ ·) ?permit (congrArg (kindField s.dem.driven ++ ·)
        (congrArg ([loopCode s.doors.loopClosed] ++ ·) ?last)))))))
  case front =>
    by_cases unknown : s.odo.posState = .unknown
    · rw [if_pos unknown, if_pos unknown]
      rfl
    · rw [if_neg unknown, if_neg unknown]
      cases s.mode.direction <;> rfl
  case permit => cases s.limits.permit <;> rfl
  case last => cases s.radio.lastApplied <;> rfl

theorem reportLayout_fields (c : Composition) (s : State) : FieldsFrom 0 (reportLayout c s) := by
  refine ⟨rfl, ?_, rfl, natField_length .., rfl, natField_length .., rfl, rfl, rfl, rfl, rfl, ?_, rfl,
    ?_, rfl, rfl, rfl, ?_, trivial⟩
  · split
    · rfl
    · exact intField_length ..
  · split
    · rfl
    · exact natField_length ..
  · rw [List.length_cons, natField_length]
  · split
    · rfl
    · rw [List.length_append, natField_length, natField_length]

/-! ### The frames sent -/

theorem trainOf_composed (composed : s.mode.composition = some c) : trainOf s = c.train := by
  rw [trainOf, composed]

theorem resultByte_code (r : BulletinResult) : r.code = resultByte r := by cases r <;> rfl

/-- Settles O50: each timer by what it has reached (`Radio.windowUp_iff`, `Radio.reportUp_iff`), the transmissions by
`beginTransmission_begun`, and the report's body by the fields of its layout (`reportBody_fields`, `fields_placed`). -/
theorem transmissionsAndReportsFollowTheirTimers : Obligations.TransmissionsAndReportsFollowTheirTimers := by
  refine ⟨fun s => ⟨⟨_, rfl, fun silent => if_neg (by rw [silent]; decide), fun x e queued sends kind => ?_,
      fun x sends kind => ?_⟩, fun early => ?_, fun w opened due => ?_, ⟨_, rfl, fun early => if_neg ?_,
      fun n interval runs due => ?_⟩⟩,
    fun c s composed => ⟨fun e => ?_, ?_⟩⟩
  · rw [if_pos (Option.isSome_of_eq_some sends), updRadio, Radio.sent_ack sends kind]
    exact beginTransmission_begun _
  · rw [if_pos (Option.isSome_of_eq_some sends), updRadio, Radio.sent_report sends kind]
    exact beginTransmission_begun _
  · refine congrArg Host.Outcome.next (if_neg ?_)
    rw [Radio.windowUp_iff]
    rintro ⟨w, opened, due⟩
    exact absurd due (not_le.mpr (early w opened))
  · exact congrArg Host.Outcome.next (if_pos (Radio.windowUp_iff.mpr ⟨w, opened, due⟩))
  · rw [Radio.reportUp_iff]
    rintro ⟨n, interval, runs, due⟩
    exact absurd due (not_le.mpr (early n interval runs))
  · rw [if_pos (Radio.reportUp_iff.mpr ⟨n, interval, runs, due⟩)]
    exact beginTransmission_begun _
  · rw [← trainOf_composed composed, ← resultByte_code]
    exact ⟨_, rfl, rfl⟩
  · rw [← trainOf_composed composed]
    have fields := reportLayout_fields c s
    refine ⟨_, reportBody s, rfl, rfl, ?_⟩
    rw [reportBody_fields composed]
    exact ⟨fields_length fields, fields_placed (before := []) fields⟩

end Sys2Proof.Machine
end

section
/-!
The notice lines stay as the flags have them in every step (R183). An act that leaves the ports leaves the lines
(`NoticesFollow.of_eq`); a raised event puts every line right, however it stood (`NoticesFollow.raise`); a change of one
port's record keeps its line with its flags (`NoticesFollow.updPort`). Every act of every command is made of these.
-/

namespace Sys2Proof.Machine

theorem noticeOf_zero : noticeOf 0 0 = false := by decide

namespace NoticesFollow

variable {s : State}

theorem ite {c : Prop} [Decidable c] {t u : State} (h : NoticesFollow t) (k : NoticesFollow u) :
    NoticesFollow (if c then t else u) := by
  split
  · exact h
  · exact k

/-- A port whose flags and notice line are left, whatever else of it changes. -/
theorem portPut (h : NoticesFollow s) (p : Port) (f : PortRec → PortRec)
    (left : ∀ r, ((f r).raw, (f r).mask, (f r).notice) = (r.raw, r.mask, r.notice)) :
    NoticesFollow (Machine.updPort p f s) :=
  h.updPort p f fun r hr => by
    obtain ⟨raw, mask, line⟩ : (f r).raw = r.raw ∧ (f r).mask = r.mask ∧ (f r).notice = r.notice := by
      simpa using left r
    rw [line, raw, mask, hr]

/-! ### The brakes and the rows -/

theorem driven (h : NoticesFollow s) (d : BrakeDrive) : NoticesFollow (withDrive d s) :=
  NoticesFollow.raiseIf (s := { s with drive := d }) (h.of_eq (by rfl)) _ _

theorem mappingApplied (h : NoticesFollow s) : NoticesFollow (applyMapping s) := h.driven _

theorem mappingTaken (h : NoticesFollow s) : NoticesFollow (takeMapping s) := h.driven _

theorem drivenHanded (h : NoticesFollow s) : NoticesFollow (handDriven s) := by
  unfold handDriven
  split
  · exact h.mappingApplied
  · exact h.mappingTaken
  · exact h

theorem drivenRefreshed (h : NoticesFollow s) : NoticesFollow (refreshDriven s) := by
  unfold refreshDriven
  simp only
  split
  · exact h
  · exact drivenHanded (.raise _ _)

theorem testAborted (h : NoticesFollow s) (c : AbortCause) : NoticesFollow (abortTest c s) := by
  unfold abortTest
  split
  · exact .raise _ _
  · exact h

theorem latchSet (h : NoticesFollow s) : NoticesFollow (setLatch s) := by
  unfold setLatch
  split
  · exact h
  · exact .raise _ _

theorem rowsWritten (h : NoticesFollow s) (rows : Rows) : NoticesFollow (writeRows rows s) := by
  have put : NoticesFollow { s with dem := { s.dem with rows := rows } } := h.of_eq (by rfl)
  unfold writeRows
  simp only
  split
  · exact (put.testAborted _).latchSet.drivenRefreshed
  · exact put.drivenRefreshed

theorem recordWritten (h : NoticesFollow s) (r : TestRecord) : NoticesFollow (writeRecord r s) :=
  NoticesFollow.raiseIf (s := { s with drive := _ }) (h.of_eq (by rfl)) _ _

theorem testEnded (h : NoticesFollow s) (r : TestRecord) : NoticesFollow (endTest r s) :=
  (h.recordWritten r).mappingTaken

theorem stepMet (h : NoticesFollow s) (n : Nat) : NoticesFollow (meetStep n s) := by
  unfold meetStep
  split
  · exact .raise _ _
  · exact h.testEnded _

theorem holdEnded (h : NoticesFollow s) : NoticesFollow (endHold s) := by
  unfold endHold
  split
  · exact h.mappingTaken
  · exact h

theorem faultsSet (h : NoticesFollow s) (slow fail : Bool) : NoticesFollow (setFaults slow fail s) := by
  unfold setFaults
  split
  · exact h
  · exact rowsWritten (.raise _ _) _

theorem alarmSet (h : NoticesFollow s) (a : AlarmState) : NoticesFollow (setAlarm a s) :=
  rowsWritten (NoticesFollow.raiseIf (s := { s with dem := _ }) (h.of_eq (by rfl)) _ _) _

theorem alarmEvaluated (h : NoticesFollow s) (begins : Bool) : NoticesFollow (evaluateAlarm begins s) := h.alarmSet _

/-! ### The doors -/

theorem doorsRowFormed (h : NoticesFollow s) : NoticesFollow (formDoorsRow s) :=
  rowsWritten (NoticesFollow.raiseIf (s := { s with doors := _ }) (h.of_eq (by rfl)) _ _) _

theorem doorMoved (h : NoticesFollow s) (d : DoorId) (f : Door → Door) : NoticesFollow (updDoor d f s) :=
  doorsRowFormed ((NoticesFollow.raiseIf (s := { s with doors := _ }) (h.of_eq (by rfl)) _ _).raiseIf _ _)

theorem doorsPut (h : NoticesFollow s) (q : Quad Door) (left right : Bool) : NoticesFollow (putDoors q left right s) :=
  doorsRowFormed (NoticesFollow.raiseIf (s := { s with doors := _ }) (h.of_eq (by rfl)) _ _)

/-! ### The tables -/

theorem restrictionsPut (h : NoticesFollow s) (l : List Restriction) : NoticesFollow (putRestrictions l s) :=
  NoticesFollow.raiseIf (s := { s with limits := _ }) (h.of_eq (by rfl)) _ _

theorem restrictionSet (h : NoticesFollow s) (k : Key) (start stop limit : Nat) :
    NoticesFollow (setRestriction k start stop limit s).1 := by
  unfold setRestriction
  split
  · exact h
  · exact h.restrictionsPut _

theorem liftedRemoved (h : NoticesFollow s) : NoticesFollow (removeLifted s) := h.restrictionsPut _

theorem permitDropped (h : NoticesFollow s) : NoticesFollow (dropPermit s) := by
  unfold dropPermit
  split
  · exact .raise _ _
  · exact h

theorem stopsPut (h : NoticesFollow s) (l : List StopKind) : NoticesFollow (putStops l s) :=
  rowsWritten (NoticesFollow.raiseIf (s := { s with limits := _ }) (h.of_eq (by rfl)) _ _) _

/-! ### The radio -/

theorem counted (h : NoticesFollow s) (k : Counter) : NoticesFollow (Machine.count k s) :=
  NoticesFollow.raiseIf (s := updRadio _ s) (h.of_eq (by rfl)) _ _

theorem coverageFormed (h : NoticesFollow s) : NoticesFollow (formCoverage s) :=
  NoticesFollow.raiseIf (s := updRadio _ s) (h.of_eq (by rfl)) _ _

theorem zoneFormed (h : NoticesFollow s) : NoticesFollow (formZone s) := by
  unfold formZone
  simp only
  split
  · exact h
  · exact (NoticesFollow.raiseIf (s := updRadio _ s) (h.of_eq (by rfl)) _ _).coverageFormed

theorem transmissionBegun (h : NoticesFollow s) : NoticesFollow (beginTransmission s) := by
  unfold beginTransmission
  split
  · split
    · split
      · exact h
      · exact h.of_eq rfl
    · exact h
  · exact h

theorem ackOffered (h : NoticesFollow s) (e : BulletinEntry) : NoticesFollow (offerAck e s) := by
  unfold offerAck
  split
  · split
    · exact transmissionBegun (h.of_eq (by rfl))
    · exact h.counted _
  · exact h

theorem windowOpened (h : NoticesFollow s) : NoticesFollow (openWindow s) := by
  unfold openWindow
  split
  · exact transmissionBegun (h.of_eq (by rfl))
  · exact h

theorem messageStored (m : Message) (s : State) : NoticesFollow (storeMessage m s) :=
  NoticesFollow.raiseIf (.raise _ _) _ _

theorem beaconHandled (h : NoticesFollow s) (f : FrameHeader) (b : List Byte) : NoticesFollow (handleBeacon f b s) := by
  unfold handleBeacon
  split
  · have covered : ∀ r, NoticesFollow (formCoverage (updRadio r (Machine.count .beacons s))) := fun _ =>
      coverageFormed ((h.counted _).of_eq (by rfl))
    simp only
    split
    · split
      · exact (covered _).windowOpened
      · exact covered _
    · exact h.counted _
  · exact h

theorem bulletinApplied (h : NoticesFollow s) (k : BulletinKind) (f : FrameHeader) (b : List Byte) :
    NoticesFollow (applyBulletin k f b s).1 := by
  cases k with
  | restrictionSet =>
    simp only [applyBulletin, applyRestrictionSet]
    split
    · split
      · exact h.restrictionSet _ _ _ _
      · exact h
    · exact h
  | restrictionLift =>
    simp only [applyBulletin, applyRestrictionLift]
    split
    · exact h.restrictionsPut _
    · exact h
  | permitGrant =>
    simp only [applyBulletin, applyPermitGrant]
    split
    · split
      · exact h
      · exact h
      · split_ifs <;> first | exact h | exact .raise _ _
    · exact h
  | permitRevoke =>
    simp only [applyBulletin, applyPermitRevoke]
    split
    · exact h.permitDropped
    · exact h
  | stopOrder =>
    simp only [applyBulletin, applyStopOrder]
    split
    · exact h.stopsPut _
    split
    · exact h.stopsPut _
    · exact h
  | stopRelease =>
    simp only [applyBulletin, applyStopRelease]
    split
    · exact h.stopsPut _
    · exact h
  | text =>
    simp only [applyBulletin, applyText]
    split
    · exact h
    split
    · split
      · exact messageStored _ _
      · exact h.counted _
    · exact h

theorem bulletinHandled (h : NoticesFollow s) (k : BulletinKind) (f : FrameHeader) (b : List Byte) :
    NoticesFollow (handleBulletin k f b s) := by
  unfold handleBulletin
  simp only
  split
  · exact (h.counted _).ackOffered _
  · exact ackOffered (((h.counted _).bulletinApplied k f b).of_eq (by rfl)) _

theorem frameReceived (h : NoticesFollow s) (f : Frame) : NoticesFollow (receiveFrame f s) := by
  unfold receiveFrame
  split
  · exact h
  split
  · exact h.counted _
  split
  · exact h.counted _
  · exact h.counted _
  · unfold handleGood
    split
    · exact (h.counted _).beaconHandled _ _
    split
    · exact (h.counted _).bulletinHandled _ _ _
    · exact h.counted _

theorem bytesReceived (h : NoticesFollow s) (b : List Byte) : NoticesFollow (receiveBytes b s) := by
  unfold receiveBytes
  split_ifs
  · exact h
  · exact h.counted _
  · exact h.frameReceived _
  · exact h.counted _
  · exact h.counted _

/-! ### Motion -/

theorem uncertaintyGrown (h : NoticesFollow s) (factor moved : Nat) :
    NoticesFollow (growUncertainty factor moved s) := by
  unfold growUncertainty
  split
  · exact h
  split
  · exact h.of_eq rfl
  · exact .raise _ _

theorem positionMoved (h : NoticesFollow s) (net : Int) : NoticesFollow (movePosition net s) := by
  have grown : ∀ f factor moved, NoticesFollow (growUncertainty factor moved (updOdo f s)) := fun f _ _ =>
    uncertaintyGrown (s := updOdo f s) (h.of_eq (by rfl)) _ _
  unfold movePosition
  split
  · exact h
  · exact ite (.raise _ _) (grown _ _ _)

theorem crossSampled (h : NoticesFollow s) : NoticesFollow (sampleCross s) := by
  unfold sampleCross
  split
  · exact h
  simp only
  split
  · exact h.of_eq rfl
  · unfold noticeIf
    split
    · exact .raise _ _
    · exact h.of_eq rfl

theorem odometryRowFormed (h : NoticesFollow s) : NoticesFollow (formOdometryRow s) := h.rowsWritten _

theorem reverseSampled (h : NoticesFollow s) : NoticesFollow (sampleReverse s) := by
  unfold sampleReverse
  simp only
  split
  · split
    · exact odometryRowFormed (.raise _ _)
    · exact h.of_eq rfl
  · exact h

theorem sourceSelected (h : NoticesFollow s) : NoticesFollow (selectSource s) := by
  unfold selectSource
  simp only
  split
  · exact h
  · exact h.of_eq rfl

theorem pinionFailed (s : State) : NoticesFollow (setPinionFault s) := odometryRowFormed (.raise _ _)

theorem pinionSampled (h : NoticesFollow s) : NoticesFollow (samplePinion s) := by
  unfold samplePinion
  split
  · exact h
  simp only
  generalize (if pinionSilent s then _ else 0 : Nat) = t
  split
  · exact pinionFailed _
  · exact h.of_eq rfl

theorem awaitedSampled (h : NoticesFollow s) : NoticesFollow (sampleAwaited s) := by
  unfold sampleAwaited
  simp only
  split
  · exact h.of_eq rfl
  split
  · exact h.of_eq rfl
  split
  · exact .raise _ _
  · exact h

theorem standstillRowsFormed (h : NoticesFollow s) (begins : Bool) : NoticesFollow (formStandstillRows begins s) := by
  have rows : NoticesFollow (formOdometryRow (evaluateAlarm begins (formLinkRow (formRadioRow (formDoorsRow s))))) :=
    odometryRowFormed (alarmEvaluated (rowsWritten (rowsWritten h.doorsRowFormed _) _) _)
  exact ite rows.mappingApplied rows

theorem standstillBegun (s : State) : NoticesFollow (beginStandstill s) := standstillRowsFormed (.raise _ _) true

theorem standstillEnded (s : State) : NoticesFollow (endStandstill s) :=
  standstillRowsFormed (doorsPut (doorsRowFormed (testAborted (.raise _ _) _)) _ _ _) false

theorem quietSampled (h : NoticesFollow s) : NoticesFollow (sampleQuiet s) := by
  unfold sampleQuiet
  simp only
  split
  · split
    · split
      · exact standstillBegun _
      · exact h.of_eq rfl
    · exact ite h (h.of_eq (by rfl))
  · exact h.of_eq rfl

/-- A sampling expiry (R19 to R33, R60, R103, R155). -/
theorem sampled (h : NoticesFollow s) : NoticesFollow (sample s) := by
  have moved : NoticesFollow (movePosition (unappliedCount (sampleDistances s).odo) (sampleDistances s)) :=
    positionMoved (h.of_eq (by rfl)) _
  have formed : ∀ {t}, NoticesFollow t → NoticesFollow (sampleSpeeds t) := fun k => k.of_eq (by rfl)
  have cleared : ∀ {t}, NoticesFollow t → NoticesFollow (sampleClear t) := fun k => k.of_eq (by rfl)
  have judged := (formed moved).crossSampled.reverseSampled.sourceSelected.pinionSampled.awaitedSampled
  exact (cleared judged.quietSampled).liftedRemoved.zoneFormed.alarmEvaluated _

theorem markDetected (s : State) : NoticesFollow (detectMark s) := by
  unfold detectMark
  split
  · exact .raise _ _
  simp only
  split
  · exact zoneFormed (.raise _ _)
  · exact ite (.raise _ _) (.raise _ _)
  · exact .raise _ _

theorem pulsed (h : NoticesFollow s) (x : Tacho) (forward : Bool) : NoticesFollow (countPulse x forward s) := by
  cases x <;> exact h.of_eq rfl

theorem supervised (h : NoticesFollow s) : NoticesFollow (superviseOnce s) :=
  rowsWritten (NoticesFollow.raiseIf (s := { s with sup := _ }) (h.of_eq (by rfl)) _ _) _

/-! ### Authority, the mode and the composition -/

theorem turned (h : NoticesFollow s) (d : Direction) : NoticesFollow (changeDirection d s) := by
  unfold changeDirection
  split
  · exact h
  · exact ite (permitDropped (.raise _ _)) (.raise _ _)

theorem passed (heir : Holder) (s : State) : NoticesFollow (passAuthority heir s) :=
  rowsWritten (turned (.raise _ _) _) _

theorem modeChanged (m : CarMode) (s : State) : NoticesFollow (changeMode m s) :=
  ite (permitDropped (.raise _ _)) (.raise _ _)

theorem composed (c : Composition) (s : State) : NoticesFollow (putComposition c s) :=
  ite (testAborted (s := updRadio _ _) (of_eq (.raise _ _) (by rfl)) _) (.raise _ _)

/-! ### The readings of the brakes -/

theorem serviceRead (h : NoticesFollow s) (v : Nat) : NoticesFollow (useServiceReading v s) := by
  unfold useServiceReading
  simp only
  split
  · split
    · exact stepMet (h.of_eq (by rfl)) _
    · exact h.of_eq rfl
  · exact h.of_eq rfl

theorem springFormed (h : NoticesFollow s) (v : Nat) : NoticesFollow (formSpringStatus v s) :=
  NoticesFollow.raiseIf (s := updDrive _ s) (h.of_eq (by rfl)) _ _

theorem stuckCleared (h : NoticesFollow s) (v : Nat) : NoticesFollow (clearStuck v s) :=
  ite (NoticesFollow.raiseIf (s := updDrive _ s) (h.of_eq (by rfl)) _ _) h

theorem releaseRead (h : NoticesFollow s) (v : Nat) : NoticesFollow (useReleaseReading v s) := by
  unfold useReleaseReading
  refine springFormed (stuckCleared ?_ v) v
  split
  · split
    · exact stepMet (h.of_eq (by rfl)) _
    · exact h.of_eq rfl
  · exact h.of_eq rfl

/-! ### The store -/

theorem loadEnded (r : LoadResult) (s : State) : NoticesFollow (endLoad r s) := .raise _ _

theorem segmentsBegun (h : NoticesFollow s) : NoticesFollow (beginSegments s) :=
  ite (loadEnded _ _) (ite (loadEnded _ _) (h.of_eq (by rfl)))

theorem headerTaken (h : NoticesFollow s) (b : List Byte) : NoticesFollow (takeHeader b s) := by
  unfold takeHeader
  split
  · exact loadEnded _ _
  · exact ite (loadEnded _ _) (h.of_eq (by rfl))

theorem paramsTaken (h : NoticesFollow s) (b : List Byte) : NoticesFollow (takeParams b s) := by
  unfold takeParams
  split
  · exact segmentsBegun (h.of_eq (by rfl))
  · exact segmentsBegun (h.of_eq (by rfl))

theorem segmentsTaken (b : List Byte) (s : State) : NoticesFollow (takeSegments b s) := by
  unfold takeSegments
  simp only
  refine ite (loadEnded _ _) (ite (loadEnded _ _) ?_)
  split
  · exact loadEnded _ _
  · exact loadEnded _ _

theorem pageEnded (h : NoticesFollow s) (page : Nat) : NoticesFollow (endPage page s) :=
  ite (.raise _ _) (h.of_eq (by rfl))

end NoticesFollow

end Sys2Proof.Machine
end

section
/-!
Every rule, every event and so every step keeps the notice lines with their flags, and the resets leave them
deasserted (R15, R183).
-/

namespace Sys2Proof.Machine

namespace NoticesFollow

variable {p : Port} {args : List Byte} {s : State}

/-! ### The rules -/

/-- A change of a port's flags by CLEAR EVENTS, SET MASK or CLEAR MASK takes its notice line with it (R181, R182). -/
theorem eventSet (h : NoticesFollow s) (raw mask : EventSet → PortRec → EventSet) :
    NoticesFollow (withEventSet p args (fun e r => r.withFlags (raw e r) (mask e r)) s).1 := by
  unfold withEventSet
  split
  · exact h
  · exact h.updPort _ _ fun _ _ => PortRec.withFlags_notice _ _ _

theorem takeAuthority (h : NoticesFollow s) : NoticesFollow (ruleTakeAuthority p s).1 := by
  unfold ruleTakeAuthority
  split_ifs
  · exact h
  · exact .raise _ _
  · exact h
  · exact h
  · exact h
  · exact passed _ _

theorem releaseAuthority (h : NoticesFollow s) : NoticesFollow (ruleReleaseAuthority p s).1 :=
  asHolder_keeps h fun _ => refuseIf_keeps h fun _ => passed _ _

theorem setDirection (h : NoticesFollow s) : NoticesFollow (ruleSetDirection p args s).1 := by
  refine asHolder_keeps h fun _ => ?_
  split
  · exact h
  split
  · exact h
  · exact h.turned _

theorem setComposition (h : NoticesFollow s) : NoticesFollow (ruleSetComposition p args s).1 := by
  refine asHolder_keeps h fun _ => ?_
  split
  · exact h
  split_ifs
  · exact h
  · exact h
  · exact composed _ _

theorem setPosition (h : NoticesFollow s) : NoticesFollow (ruleSetPosition p args s).1 := by
  refine asHolder_keeps h fun _ => ?_
  simp only
  split_ifs
  · exact h
  · exact h
  · exact zoneFormed (.raise _ _)

theorem selectMode (h : NoticesFollow s) : NoticesFollow (ruleSelectMode p args s).1 := by
  refine asHolder_keeps h fun _ => ?_
  split
  · exact h
  split_ifs
  · exact h
  · exact h
  · exact h
  · split
    · exact h
    · exact modeChanged _ _
  · exact modeChanged _ _

/-- A restart puts every raw flag, every mask flag and every notice line back (R15). -/
theorem restarted (s : State) : NoticesFollow (restartedState s) :=
  .of_notice fun q => by rw [portOf_restartedState]; exact noticeOf_zero.symm

theorem restart (h : NoticesFollow s) : NoticesFollow (ruleRestart p s).1 := by
  unfold ruleRestart
  split_ifs
  · exact restarted s
  · exact h
  · exact h
  · exact restarted s

theorem brakeDemand (h : NoticesFollow s) : NoticesFollow (ruleBrakeDemand p args s).1 :=
  asHolder_keeps h fun _ => (h.rowsWritten _).holdEnded

theorem putEmergency (h : NoticesFollow s) (e : Bool) : NoticesFollow (putEmergency p e s).1 := by
  unfold Machine.putEmergency
  split
  · exact h
  · exact .raise _ _

theorem emergencyReset (h : NoticesFollow s) : NoticesFollow (ruleEmergencyReset p s).1 := by
  refine asHolder_keeps h fun _ => ?_
  split
  · exact h
  split
  · exact h
  split
  · exact h
  split
  · exact h
  · exact drivenRefreshed (.raise _ _)

theorem brakeTestStart (h : NoticesFollow s) : NoticesFollow (ruleBrakeTestStart p s).1 :=
  asHolder_keeps h fun _ => refuseIf_keeps h fun _ => refuseIf_keeps h fun _ => refuseIf_keeps h fun _ =>
    refuseIf_keeps h fun _ => refuseIf_keeps h fun _ => .raise _ _

theorem brakeTestAbort (h : NoticesFollow s) : NoticesFollow (ruleBrakeTestAbort p s).1 :=
  asHolder_keeps h fun _ => refuseIf_keeps h fun _ => h.testAborted _

theorem doorRelease (h : NoticesFollow s) : NoticesFollow (ruleDoorRelease p args s).1 := by
  refine asHolder_keeps h fun _ => ?_
  split
  · split_ifs
    · exact h
    · exact h
    · unfold tryRelease
      simp only
      split
      · exact doorsPut (h.of_eq (by rfl)) _ _ _
      · exact h.of_eq rfl
  · exact h

theorem doorClose (h : NoticesFollow s) : NoticesFollow (ruleDoorClose p args s).1 := by
  refine asHolderOrPanel_keeps h ?_
  split
  · exact h
  · exact h.doorsPut _ _ _

theorem doorRetry (h : NoticesFollow s) : NoticesFollow (ruleDoorRetry p args s).1 := by
  refine asHolderOrPanel_keeps h ?_
  split
  · exact h
  split
  · exact h.doorMoved _ _
  · exact h

theorem askAlarm (h : NoticesFollow s) (a : AlarmState) : NoticesFollow (askAlarm a p s).1 :=
  asHolder_keeps h fun _ => refuseIf_keeps h fun _ => h.alarmSet _

theorem restrictionAdd (h : NoticesFollow s) : NoticesFollow (ruleRestrictionAdd p args s).1 := by
  refine asHolder_keeps h fun _ => ?_
  simp only
  split
  · exact h.restrictionSet _ _ _ _
  · exact h

theorem restrictionLift (h : NoticesFollow s) : NoticesFollow (ruleRestrictionLift p args s).1 := by
  refine asHolder_keeps h fun _ => ?_
  split
  · exact h
  · exact h.restrictionsPut _

theorem permitEnter (h : NoticesFollow s) : NoticesFollow (rulePermitEnter p args s).1 :=
  asHolder_keeps h fun _ => refuseIf_keeps h fun _ => refuseIf_keeps h fun _ => refuseIf_keeps h fun _ =>
    refuseIf_keeps h fun _ => refuseIf_keeps h fun _ => .raise _ _

theorem permitClear (h : NoticesFollow s) : NoticesFollow (rulePermitClear p s).1 :=
  asHolder_keeps h fun _ => refuseIf_keeps h fun _ => h.permitDropped

theorem radioStopOverride (h : NoticesFollow s) : NoticesFollow (ruleRadioStopOverride p s).1 :=
  asHolder_keeps h fun _ => refuseIf_keeps h fun _ => refuseIf_keeps h fun _ => h.stopsPut _

theorem readTable (h : NoticesFollow s) : NoticesFollow (ruleReadTable p args s).1 := by
  unfold ruleReadTable
  split
  · exact h
  split
  · exact h
  · exact h

theorem inboxTake (h : NoticesFollow s) : NoticesFollow (ruleInboxTake s).1 := by
  unfold ruleInboxTake
  split
  · exact h
  · exact h.of_eq rfl

theorem counterDecrement (h : NoticesFollow s) : NoticesFollow (ruleCounterDecrement args s).1 := by
  unfold ruleCounterDecrement
  split
  · exact h
  · exact h.of_eq rfl

theorem profileWrite (h : NoticesFollow s) : NoticesFollow (ruleProfileWrite p args s).1 := by
  refine asHolder_keeps h fun _ => ?_
  simp only
  split
  · exact h
  split
  · exact h
  · exact editing_keeps h (.raise _ _)

theorem parameterWrite (h : NoticesFollow s) : NoticesFollow (ruleParameterWrite p args s).1 := by
  refine asHolder_keeps h fun _ => ?_
  simp only
  split
  · exact h
  split
  · exact h
  · exact editing_keeps h (of_eq (.raise _ _) (by rfl))

theorem profileCommit (h : NoticesFollow s) : NoticesFollow (ruleProfileCommit p s).1 :=
  asHolder_keeps h fun _ => refuseIf_keeps h fun _ => refuseIf_keeps h fun _ => refuseIf_keeps h fun _ =>
    refuseIf_keeps h fun _ => h.of_eq (by rfl)

/-- Every rule keeps the notice lines with their flags (R174). -/
theorem rule {code : Byte} {n : Nat} {r : Rule} (hr : ruleOf code p args = some (n, r)) (h : NoticesFollow s) :
    NoticesFollow (r s).1 := by
  unfold ruleOf at hr
  split at hr <;> cases hr
  · exact h
  · exact h.readTable
  · exact h
  · exact h.eventSet _ _
  · exact h.eventSet _ _
  · exact h.eventSet _ _
  · exact h.takeAuthority
  · exact h.releaseAuthority
  · exact h.setDirection
  · exact h.setComposition
  · exact h.setPosition
  · exact h.selectMode
  · exact h.restart
  · exact h.brakeDemand
  · exact h.putEmergency true
  · exact h.putEmergency false
  · exact h.emergencyReset
  · exact h.brakeTestStart
  · exact h.brakeTestAbort
  · exact h.doorRelease
  · exact h.doorClose
  · exact h.doorRetry
  · exact h.askAlarm .confirmed
  · exact h.askAlarm .overridden
  · exact h.restrictionAdd
  · exact h.restrictionLift
  · exact h.permitEnter
  · exact h.permitClear
  · exact h.radioStopOverride
  · exact h.inboxTake
  · exact h.counterDecrement
  · exact h.profileWrite
  · exact h.parameterWrite
  · exact h.profileCommit

/-! ### The ports -/

theorem linkHeard (h : NoticesFollow s) (l : LinkPort) : NoticesFollow (heardOn l s) := by
  unfold heardOn
  simp only
  split
  · exact h.of_eq (putLink_ports ..)
  · exact rowsWritten (.raise _ _) _

theorem telegramHeard (h : NoticesFollow s) (p : Port) : NoticesFollow (completeTelegram p s) := by
  have awaited : NoticesFollow (Machine.updPort p (fun r => { r with rx := .awaiting }) s) :=
    h.portPut _ _ fun _ => rfl
  unfold completeTelegram heard
  split
  · exact awaited.linkHeard _
  · exact awaited.linkHeard _
  · exact awaited

theorem linkSilent (h : NoticesFollow s) (l : LinkPort) : NoticesFollow (silenceOn l s) :=
  ite (rowsWritten (.raise _ _) _) h

theorem telegram (h : NoticesFollow s) (p : Port) (code : Byte) (args : List Byte) :
    NoticesFollow (takeTelegram p code args s) :=
  takeTelegram_keeps (h.telegramHeard p) (fun _ k => k.portPut _ _ fun _ => rfl)
    (fun _ k => k.portPut _ _ fun _ => rfl) fun _ _ _ hr _ k => k.rule hr

theorem byteReceived (h : NoticesFollow s) (p : Port) (b : Byte) : NoticesFollow (receiveByte p b s) := by
  unfold receiveByte
  split
  · exact ite (h.portPut _ _ fun _ => rfl) h
  · exact ite (h.portPut _ _ fun _ => rfl) (h.portPut _ _ fun _ => rfl)
  · simp only
    refine ite (h.portPut _ _ fun _ => rfl) (ite ?_ (h.portPut _ _ fun _ => rfl))
    split
    · exact h.telegram _ _ _
    · exact h.portPut _ _ fun _ => rfl

/-! ### The commands and the steps -/

/-- A millisecond touches no flag and no notice line. -/
theorem timed (h : NoticesFollow s) : NoticesFollow (advance s) :=
  .of_notice fun q => by
    have line := h.notice q
    cases q <;> exact line

/-- The commands that are no telegram and no frame keep the notice lines with their flags. -/
theorem event {i : Instr} (ht : telegramOf i = none) (hf : frameOf i = none) (h : NoticesFollow s) :
    ∃ t, exec i s = .next t ∧ NoticesFollow t := by
  cases i <;> first | (cases ht; done) | (cases hf; done) | refine ⟨_, rfl, ?_⟩
  case powerOn => exact .of_notice fun q => by cases q <;> exact noticeOf_zero.symm
  case telegramCrcError => exact h.portPut _ _ fun _ => rfl
  case framingError => exact h.portPut _ _ fun _ => rfl
  case gapTimeExpiry =>
    refine h.updPort _ _ fun r hr => ?_
    unfold gapFault
    split
    · exact hr
    · exact hr
  case answerSent => exact h.portPut _ _ fun _ => rfl
  case linkSilenceExpiry => exact h.linkSilent _
  case tachometerPulse => exact ite (standstillEnded _) (h.pulsed _ _)
  case samplingExpiry => exact h.sampled
  case standstillBegin => exact ite (standstillBegun s) h
  case pinionFault => exact ite (pinionFailed _) h
  case trackMarkDetection => exact markDetected s
  case supervisionCycle => exact h.supervised
  case periodStart => exact h.of_eq rfl
  case servicePressureReading => exact h.serviceRead _
  case releasePressureReading => exact h.releaseRead _
  case serviceCheckTimerExpiry => exact ite (faultsSet (h.of_eq (by rfl)) _ _) h
  case releaseCheckTimerExpiry => exact ite (NoticesFollow.raiseIf (s := updDrive _ _) (h.of_eq (by rfl)) _ _) h
  case applyCheckTimerExpiry => exact ite (faultsSet (h.of_eq (by rfl)) _ _) h
  case brakeTestStepTimerExpiry =>
    split
    · exact ite (h.testEnded _) h
    · exact h
  case doorTimerExpiry => exact h.doorMoved _ _
  case doorLockedInput => exact (h.raiseIf _ _).doorMoved _ _
  case doorClosedInput => exact (h.raiseIf _ _).doorMoved _ _
  case doorOpenLimitInput => exact h.doorMoved _ _
  case doorObstacleInput => exact h.doorMoved _ _
  case passengerButton => exact h.doorMoved _ _
  case isolationSwitch => exact h.doorMoved _ _
  case handleChange => exact ite h (alarmEvaluated (.raise _ _) _)
  case discardedFrame => exact ite h (h.bytesReceived _)
  case transmissionEnd => exact ite (transmissionBegun (h.of_eq (by rfl))) h
  case windowTimerExpiry => exact ite (h.of_eq (by rfl)) h
  case silenceTimerTick => exact ite (coverageFormed (h.of_eq (by rfl))) h
  case reportTimerExpiry => exact ite (transmissionBegun (h.of_eq (by rfl))) h
  case loaderStatusAnswer => exact ite (h.of_eq (by rfl)) h
  case loaderBusyTimeout => exact ite (loadEnded _ _) h
  case headerReadEnd => exact ite (h.headerTaken _) h
  case parameterBlockReadEnd => exact ite (h.paramsTaken _) h
  case segmentBlockReadEnd => exact ite (segmentsTaken _ _) h
  case commitStatusAnswer =>
    split
    · exact ite h (h.pageEnded _)
    · exact h
  case pageTimerExpiry =>
    split
    · exact ite (.raise _ _) h
    · exact h
  case telegramByteArrival => exact h.byteReceived _ _
  case commitTransferEnd =>
    split
    · exact h.of_eq rfl
    · exact h.of_eq rfl
    · exact h

theorem step {t : State} (h : NoticesFollow s) (hs : step s = .next t) : NoticesFollow t :=
  step_keeps (fun _ k => k.timed.of_eq (by rfl)) (fun _ _ k => k.of_eq (by rfl))
    (fun _ _ _ k he => exec_keeps (fun p code args _ l => l.telegram p code args) (fun f _ l => l.frameReceived f)
      (fun _ _ _ ht hf l hx => by
        obtain ⟨w, e, hw⟩ := l.event ht hf
        rw [e] at hx
        cases hx
        exact hw) k he) h hs

end NoticesFollow

/-- A RESTART that R15 takes is answered OK with the part restarted. -/
theorem restart_taken {p : Port} {s : State} (ready : Ready p s)
    (taken : s.mode.holder = .none ∨ (isHolder p s = true ∧ s.odo.standstill = true)) :
    exec (.restart p []) s = .next (holdAnswer p 0x16 (restartedState (completeTelegram p s), okReply [])) := by
  have rule : ruleRestart p (completeTelegram p s) = (restartedState (completeTelegram p s), okReply []) := by
    unfold ruleRestart
    rcases taken with free | ⟨own, still⟩
    · rw [if_pos ((completeTelegram_mode p s).2.1.trans free)]
    · simp [own, still, moving]
  rw [← rule]
  exact request_ready 0x16 [] 0 (ruleRestart p) ready rfl

/-- Settles O54: the telegrams, the frames, the events and the passing of time keep the notice lines with their flags
(`NoticesFollow.step`), and the resets leave them deasserted. -/
theorem everyStepKeepsTheNotices : Obligations.EveryStepKeepsTheNotices := by
  unfold Obligations.EveryStepKeepsTheNotices
  refine ⟨fun s t h hs => h.step hs, fun i s t q ht => ?_, fun p q s t ready taken ht => ?_⟩
  · cases ht
    cases q <;> rfl
  · rw [restart_taken ready taken] at ht
    cases ht
    exact (portOf_restarted p q 0x16 (okReply []) _).2.2.1

end Sys2Proof.Machine
end

section
/-!
What one byte does to a port's reception, case by case (`receiveByte_awaiting` to `receiveByte_last`): so the bytes of a
telegram, one by one, are the telegram taken whole, and each line error counts (R172, R173, R184).
-/

namespace Sys2Proof.Machine

/-! ### One port's record -/

theorem updPort_updPort (p : Port) (f g : PortRec → PortRec) (s : State) :
    updPort p f (updPort p g s) = updPort p (fun r => f (g r)) s := by
  cases p <;> rfl

/-- A change of one port's record is that change and nothing else. -/
theorem updPort_acted {p : Port} {r : PortRec} (f : PortRec → PortRec) (s : State) (hr : f (portOf p s) = r) :
    PortActed p r s (updPort p f s) where
  port := (portOf_updPort p f s).trans hr
  others q hq := portOf_updPort_other p q f s hq
  keeps b hb := by cases p <;> cases b <;> first | rfl | exact absurd hb (by decide)

theorem PortActed.refl (p : Port) (s : State) : PortActed p (portOf p s) s s := ⟨rfl, fun _ _ => rfl, .refl _ s⟩

theorem gapFault_of_up {r : PortRec} {bytes : List Byte} {n : Nat} (hr : r.rx = .receiving bytes n) (hn : 2 ≤ n) :
    gapFault r = framingFault r := by
  simp [gapFault, hr, RxState.timeUp, Config.gapLimit, hn]

theorem gapFault_of_not_up {r : PortRec} (h : ∀ bytes n, r.rx = .receiving bytes n → n < 2) : gapFault r = r := by
  cases hr : r.rx with
  | awaiting => simp [gapFault, hr, RxState.timeUp]
  | receiving bytes n => simp [gapFault, hr, RxState.timeUp, Config.gapLimit, Nat.not_le.mpr (h bytes n hr)]

/-! ### One byte -/

section
variable {p : Port} {b n : Byte} {rest : List Byte} {g : Nat} {s : State}

theorem receiveByte_awaiting (h : (portOf p s).rx = .awaiting) :
    receiveByte p b s = if b = 0xC5 then updPort p (fun r => { r with rx := .receiving [] 0 }) s else s := by
  unfold receiveByte
  rw [h]

theorem receiveByte_length (h : (portOf p s).rx = .receiving [] g) :
    receiveByte p b s =
      if 1 ≤ b.toNat ∧ b.toNat ≤ 250 then updPort p (fun r => { r with rx := .receiving [b] 0 }) s
      else updPort p framingFault s := by
  unfold receiveByte
  rw [h]
  simp [lengthGood]

theorem receiveByte_inside (h : (portOf p s).rx = .receiving (n :: rest) g) (short : rest.length + 2 < n.toNat + 3) :
    receiveByte p b s = updPort p (fun r => { r with rx := .receiving (n :: rest ++ [b]) 0 }) s := by
  unfold receiveByte
  rw [h]
  simp [short]

theorem receiveByte_last (h : (portOf p s).rx = .receiving (n :: rest) g) (full : rest.length + 2 = n.toNat + 3) :
    receiveByte p b s = endTelegram p (n :: rest ++ [b]) s := by
  unfold receiveByte
  rw [h]
  simp [full]

/-- A telegram whose CRC is wrong (R172). -/
theorem endTelegram_bad (full : rest.length + 2 = n.toNat + 3)
    (bad : (rest ++ [b]).drop n.toNat ≠ crcField (n :: rest.take n.toNat)) :
    endTelegram p (n :: rest ++ [b]) s = updPort p crcFault s := by
  have length : (n :: rest ++ [b]).length - 2 = n.toNat + 1 := by simp; omega
  have covered : (n :: rest ++ [b]).take (n.toNat + 1) = n :: rest.take n.toNat := by
    simp [List.take_append_of_le_length (show n.toNat ≤ rest.length by omega)]
  have good : crcGood (n :: rest ++ [b]) = false := by
    rw [crcGood, length, covered]
    simpa using bad
  rw [endTelegram, good]
  rfl

end

/-! ### A whole telegram -/

/-- A port of which the bytes of a telegram have been received so far (R172). -/
def receiving (p : Port) (bytes : List Byte) (s : State) : State :=
  updPort p (fun r => { r with rx := .receiving bytes 0 }) s

theorem portOf_receiving (p : Port) (bytes : List Byte) (s : State) :
    (portOf p (receiving p bytes s)).rx = .receiving bytes 0 := by
  rw [receiving, portOf_updPort]

/-- What was received so far of a telegram is no more once it is taken. -/
theorem takeTelegram_receiving (p : Port) (code : Byte) (args bytes : List Byte) (s : State) :
    takeTelegram p code args (receiving p bytes s) = takeTelegram p code args s := by
  have heard : completeTelegram p (receiving p bytes s) = completeTelegram p s := by
    unfold completeTelegram receiving
    rw [updPort_updPort]
  unfold takeTelegram takeRequest
  rw [heard]

/-- The bytes of a telegram but for the start byte: the length, the body and the CRC (R184). -/
theorem endTelegram_good (p : Port) (code : Byte) (args : List Byte) (s : State) (fits : args.length ≤ 249) :
    endTelegram p (BitVec.ofNat 8 (args.length + 1) :: code :: args ++
      crcField (BitVec.ofNat 8 (args.length + 1) :: code :: args)) s = takeTelegram p code args s := by
  set n : Byte := BitVec.ofNat 8 (args.length + 1) with hn
  have length : n.toNat = args.length + 1 := by rw [hn, BitVec.toNat_ofNat]; omega
  have split : (n :: code :: args ++ crcField (n :: code :: args)).length - 2 = (n :: code :: args).length := by
    simp [crcField]
  have good : crcGood (n :: code :: args ++ crcField (n :: code :: args)) = true := by
    rw [crcGood, split, List.drop_left, List.take_left]
    simp
  have body : ((n :: code :: args ++ crcField (n :: code :: args)).drop 1).take n.toNat = code :: args := by
    rw [length]
    simp
  have read : byteAt (n :: code :: args ++ crcField (n :: code :: args)) 0 = n.toNat := rfl
  rw [endTelegram, if_pos good, read, body]

theorem runAll_append {l : List Instr} {s t : State} (h : runAll l s = .next t) (l' : List Instr) :
    runAll (l ++ l') s = runAll l' t := by
  induction l generalizing s with
  | nil => cases h; rfl
  | cons c rest ih =>
    simp only [runAll, List.cons_append] at h ⊢
    split at h
    · exact ih h
    · rename_i stop
      exact absurd h (stop t)

theorem runAll_byte (p : Port) (b : Byte) (rest : List Byte) (s : State) :
    runAll ((b :: rest).map (.telegramByteArrival p)) s =
      runAll (rest.map (.telegramByteArrival p)) (receiveByte p b s) := rfl

/-- Bytes inside a telegram are gathered (R172). -/
theorem runAll_inside (p : Port) (n : Byte) (s : State) (l : List Byte) : ∀ rest : List Byte,
    rest.length + l.length < n.toNat + 2 →
    runAll (l.map (.telegramByteArrival p)) (receiving p (n :: rest) s) = .next (receiving p (n :: rest ++ l) s) := by
  induction l with
  | nil => intro rest _; simp [runAll]
  | cons b l ih =>
    intro rest short
    have next : receiveByte p b (receiving p (n :: rest) s) = receiving p (n :: (rest ++ [b])) s := by
      rw [receiveByte_inside (portOf_receiving ..) (by simp at short; omega)]
      exact updPort_updPort ..
    rw [runAll_byte, next, ih (rest ++ [b]) (by simp at short ⊢; omega)]
    simp

/-- Settles O3: the start byte, the length byte, the bytes inside (`runAll_inside`), and the last CRC byte, at which the
telegram is taken (`endTelegram_good`). -/
theorem bytesMakeTheTelegram : Obligations.BytesMakeTheTelegram := by
  intro p code args s awaits fits
  let n : Byte := BitVec.ofNat 8 (args.length + 1)
  have length : n.toNat = args.length + 1 := by rw [BitVec.toNat_ofNat]; omega
  let covered := n :: code :: args
  let inner := code :: args ++ [(crc16 covered).extractLsb' 8 8]
  let last : Byte := (crc16 covered).extractLsb' 0 8
  have started : receiveByte p 0xC5 s = receiving p [] s := by
    rw [receiveByte_awaiting awaits, if_pos rfl]
    rfl
  have measured : receiveByte p n (receiving p [] s) = receiving p [n] s := by
    rw [receiveByte_length (portOf_receiving ..), if_pos (by omega)]
    exact updPort_updPort ..
  have gathered : runAll (inner.map (.telegramByteArrival p)) (receiving p [n] s) =
      .next (receiving p (n :: inner) s) :=
    runAll_inside p n s inner [] (by simp [inner, length])
  have ended : receiveByte p last (receiving p (n :: inner) s) = takeTelegram p code args s := by
    rw [receiveByte_last (portOf_receiving ..) (by simp [inner, length]),
      ← takeTelegram_receiving p code args (n :: inner)]
    rw [← endTelegram_good p code args _ fits]
    simp [inner, last, covered, n, crcField]
  have bytes : telegramBytes (code :: args) = 0xC5 :: n :: (inner ++ [last]) := by
    simp [telegramBytes, crcField, inner, last, covered, n]
  rw [bytes, runAll_byte, started, runAll_byte, measured, List.map_append, runAll_append gathered, runAll_byte, ended]
  rfl

/-- Settles O34: each arrival changes its port's record alone (`updPort_acted`), a byte as its place in the telegram has
it. -/
theorem lineErrorsAreCounted : Obligations.LineErrorsAreCounted := by
  rintro p r s rfl
  refine ⟨⟨_, rfl, updPort_acted _ s rfl⟩, ⟨_, rfl, updPort_acted _ s rfl⟩,
    ⟨_, rfl, fun short => updPort_acted _ s (gapFault_of_not_up short),
      fun bytes n hr hn => updPort_acted _ s (gapFault_of_up hr hn)⟩,
    ⟨_, rfl, updPort_acted _ s rfl⟩,
    fun b => ⟨_, rfl, fun awaits => ?_, fun g first => ?_, fun n rest g inside short => ?_,
      fun n rest g inside full bad => ?_⟩⟩
  · rw [receiveByte_awaiting awaits]
    split
    · exact updPort_acted _ s rfl
    · exact .refl p s
  · rw [receiveByte_length first]
    split
    · exact updPort_acted _ s rfl
    · exact updPort_acted _ s rfl
  · rw [receiveByte_inside inside short]
    exact updPort_acted _ s rfl
  · rw [receiveByte_last inside full, endTelegram_bad full bad]
    exact updPort_acted _ s rfl

/-- Settles O4: `exec_telegram` and `ruleOf_length`. -/
theorem requestsAreTheirTelegrams : Obligations.RequestsAreTheirTelegrams :=
  ⟨fun _ _ _ _ s h => exec_telegram h s, fun p code args => ruleOf_length code p args, rfl⟩

end Sys2Proof.Machine
end

section
/-!
The event flags: each kind a bit of its set (`EventSet.has_ofNat`), and the requests that read, clear and mask them, on
the port that asks (`flagsSet_asked`) (R181 to R183).
-/

namespace Sys2Proof.Machine

theorem Event.index_lt (e : Event) : e.index < 18 := by cases e <;> decide

/-- The set that a number carries has the kinds of its bits (R184). -/
theorem EventSet.has_ofNat (v : Nat) (e : Event) : EventSet.has (BitVec.ofNat 18 v) e = v.testBit e.index := by
  simp only [EventSet.has, BitVec.getLsbD_ofNat, e.index_lt, decide_true, Bool.true_and]

theorem EventSet.has_and_not (a b : EventSet) (e : Event) : (a &&& ~~~b).has e = (a.has e && !b.has e) := by
  simp [EventSet.has, e.index_lt]

section
variable {p : Port} {v : Nat} {s : State}

/-- A set of kinds that all exist changes the asking port's flags by it (R181). -/
theorem withEventSet_kinds (f : EventSet → PortRec → PortRec) (kinds : v < 2 ^ 18) :
    withEventSet p (natField 3 v) f s = (updPort p (f (BitVec.ofNat 18 v)) s, okReply []) := by
  have read : word24 (natField 3 v) 0 = v := by
    simpa using word24_natField v [] (kinds.trans (by decide))
  rw [withEventSet, read, eventSetArg, if_pos kinds]

/-- A set that names a kind that does not exist is refused (R181). -/
theorem withEventSet_strange (f : EventSet → PortRec → PortRec) (carried : v < 16777216) (strange : 2 ^ 18 ≤ v) :
    withEventSet p (natField 3 v) f s = (s, plainReply .badArgument) := by
  have read : word24 (natField 3 v) 0 = v := by simpa using word24_natField v [] carried
  rw [withEventSet, read, eventSetArg, if_neg (not_lt.mpr strange)]

/-- The flags of the asking port as a request leaves them, and what it leaves (R181 to R183). -/
theorem flagsSet_asked (p : Port) (code : Byte) (s : State) (raw mask : PortRec → EventSet) :
    let u := completeTelegram p s
    let t := holdAnswer p code (updPort p (fun r => r.withFlags (raw r) (mask r)) u, okReply [])
    FlagsSet p code s t ∧ (portOf p t).raw = raw (portOf p u) ∧ (portOf p t).mask = mask (portOf p u) := by
  intro u t
  have port : portOf p t = { (portOf p u).withFlags (raw (portOf p u)) (mask (portOf p u)) with
      held := some ⟨code, okReply [], 0⟩ } := by
    rw [portOf_holdAnswer, if_pos rfl, portOf_updPort]
  refine ⟨⟨by rw [port], ?_, ?_, fun q hq => ?_, ?_⟩, by rw [port]; rfl, by rw [port]; rfl⟩
  · rw [port]
    exact PortRec.withFlags_notice (portOf p u) _ _
  · rw [port]
    rfl
  · rw [portOf_holdAnswer, if_neg hq, portOf_updPort_other p q _ u hq]
  · exact Keeps.trans (updPort_acted _ u rfl).keeps (updPort_acted _ _ rfl).keeps

/-- A request that carries a set of kinds: its answer where the set names others, and its effect (R181 to R183). -/
theorem eventRequest_asked (code : Byte) (raw mask : EventSet → PortRec → EventSet) (ready : Ready p s)
    (carried : v < 16777216) :
    let u := completeTelegram p s
    ∃ t, request p code (natField 3 v) 3
        (withEventSet p (natField 3 v) fun e r => r.withFlags (raw e r) (mask e r)) s = .next t ∧
      (2 ^ 18 ≤ v → Answered p code (plainReply .badArgument) allButPorts [] s t) ∧
      (v < 2 ^ 18 → FlagsSet p code s t ∧ (portOf p t).raw = raw (BitVec.ofNat 18 v) (portOf p u) ∧
        (portOf p t).mask = mask (BitVec.ofNat 18 v) (portOf p u)) := by
  refine ⟨_, request_ready code _ 3 _ ready (natField_length 3 v), fun strange => ?_, fun kinds => ?_⟩
  · exact .of_refuse (withEventSet_strange _ carried strange)
  · rw [withEventSet_kinds _ kinds]
    exact flagsSet_asked p code s _ _

end

/-- Settles O16: the flags read as they stand, and changed by a set on the asking port alone (`eventRequest_asked`). -/
theorem eventFlagsAreReadClearedAndMasked : Obligations.EventFlagsAreReadClearedAndMasked := by
  refine ⟨fun p s ready => ?_, fun p v s ready carried => ?_, fun p v s ready carried => ⟨?_, ?_⟩⟩
  · have read : exec (.readEvents p []) s = .next (holdAnswer p 0x03 (ruleReadEvents p (completeTelegram p s))) :=
      request_ready 0x03 [] 0 _ ready rfl
    refine ⟨_, read, .of_refuse ?_⟩
    rw [portOf_holdAnswer, if_pos rfl]
    rfl
  · obtain ⟨t, asked, refused, done⟩ :=
      eventRequest_asked 0x04 (fun e r => r.raw &&& ~~~e) (fun _ r => r.mask) ready carried
    refine ⟨t, asked, refused, fun kinds => ?_⟩
    obtain ⟨set, raw, mask⟩ := done kinds
    refine ⟨set, mask.trans ((completeTelegram_heard p s).mask p), fun e => ?_⟩
    rw [raw, EventSet.has_and_not, EventSet.has_ofNat]
  · obtain ⟨t, asked, refused, done⟩ :=
      eventRequest_asked 0x05 (fun _ r => r.raw) (fun e r => r.mask ||| e) ready carried
    refine ⟨t, asked, refused, fun kinds => ?_⟩
    obtain ⟨set, raw, mask⟩ := done kinds
    refine ⟨set, raw, fun e => ?_⟩
    rw [mask, EventSet.has_or, EventSet.has_ofNat, (completeTelegram_heard p s).mask p]
  · obtain ⟨t, asked, refused, done⟩ :=
      eventRequest_asked 0x06 (fun _ r => r.raw) (fun e r => r.mask &&& ~~~e) ready carried
    refine ⟨t, asked, refused, fun kinds => ?_⟩
    obtain ⟨set, raw, mask⟩ := done kinds
    refine ⟨set, raw, fun e => ?_⟩
    rw [mask, EventSet.has_and_not, EventSet.has_ofNat, (completeTelegram_heard p s).mask p]

end Sys2Proof.Machine
end

section
/-!
READ TABLE: the entries asked for, their widths by the layout of each table (`tableEntries_width`), and the bytes that
the fullest answer takes (R178, R179, R185).
-/

namespace Sys2Proof.Machine

/-! ### The widths of the entries -/

theorem optField_length (width : Nat) (x : Option Nat) : (optField width x).length = width := by
  cases x with
  | none => exact List.length_replicate
  | some v => exact natField_length width v

theorem boolField_length (b : Bool) : (boolField b).length = 1 := rfl

theorem setField_length (members : List Bool) : (setField members).length = 1 := rfl

theorem eventField_length (e : EventSet) : (eventField e).length = 3 := natField_length 3 e.toNat

theorem kindField_length (k : Kind) : (kindField k).length = 3 := by simp [kindField, natField_length]

theorem failureField_length (f : Option LoadFailure) : (failureField f).length = 4 := by
  unfold failureField
  split
  · rfl
  · split <;> simp [natField_length, absentField]

theorem permitEntry_length (p : Option Permit) : (permitEntry p).length = 9 := by
  cases p <;> simp [permitEntry, natField_length]

theorem linePositionField_length (x : Option Int) : (linePositionField x).length = 3 := by
  unfold linePositionField
  split
  · rfl
  · split <;> simp [natField_length]

theorem timerField_length (t : Option (Nat × Nat)) : (timerField t).length = 4 := by
  cases t <;> simp [timerField, natField_length, absentField]

theorem causeField_length (c : Option FaultCause) : (causeField c).length = 1 := by cases c <;> rfl

theorem doorEntry_length (e : DoorMapEntry) (d : Door) : (doorEntry e d).length = 19 := by
  simp [doorEntry, doorMapBytes_length, linePositionField_length, causeField_length, timerField_length, natField_length,
    boolField, inputField, setField]

theorem windowField_length (w : Quad Int) : (windowField w).length = 8 := by
  rw [windowField, flatMap_length (intField_length 2)]
  rfl

theorem positionEntry_length (o : Odometry) : (positionEntry o).length = 57 := by
  unfold positionEntry
  simp only [List.length_append, natField_length, windowField_length, optField_length, boolField_length,
    setField_length, List.length_cons, List.length_nil]

theorem messageEntry_length {m : Message} (fits : m.text.length ≤ 96) : (messageEntry m).length = 103 := by
  simp only [messageEntry, List.length_append, natField_length, boolField, List.length_cons, List.length_nil,
    List.length_replicate]
  omega

theorem flagField_length (r : PortRec) : (flagField r).length = 7 := by
  simp [flagField, eventField, natField_length, boolField]

theorem portEntry_length (link : Option Link) (held : Bool) (r : PortRec) : (portEntry link held r).length = 15 := by
  cases link <;> simp [portEntry, natField_length, flagField_length, boolField, absentField]

theorem cabRowEntry_length (r : CabRow) : (cabRowEntry r).length = 7 := by
  simp [cabRowEntry, kindField_length]

theorem plainRowEntry_length (k : Kind) : (plainRowEntry k).length = 7 := by
  simp [plainRowEntry, kindField_length, absentField]

theorem mem_inboxOrder {m : Message} {inbox : List Message} (h : m ∈ inboxOrder inbox) : m ∈ inbox := by
  rw [inboxOrder, List.mem_append] at h
  exact h.elim List.mem_of_mem_filter List.mem_of_mem_filter

/-- Every entry of a table is as wide as its layout says (R185). -/
theorem tableEntries_width (p : Port) {s : State} (h : TablesFollow s) (table : TableName) :
    ∀ e ∈ tableEntries p s table, e.length = tableWidth table := by
  cases table with
  | segments => exact List.forall_mem_map.mpr fun g _ => segmentBytes_length g
  | parameters =>
    simp [tableEntries, tableWidth, parametersEntry, paramBytes_length h.glc, natField_length, failureField_length]
  | restrictions =>
    exact List.forall_mem_map.mpr fun r _ => by simp [restrictionEntry, natField_length, tableWidth]
  | permit => simp [tableEntries, tableWidth, permitEntry_length]
  | stops => exact List.forall_mem_map.mpr fun _ _ => rfl
  | demands => simp [tableEntries, tableWidth, demandEntries, cabRowEntry_length, plainRowEntry_length]
  | doors => simp [tableEntries, tableWidth, doorEntries, doorEntry_length]
  | position => simp [tableEntries, tableWidth, positionEntry_length]
  | radioCounters => exact List.forall_mem_map.mpr fun v _ => natField_length 2 v
  | inbox => exact List.forall_mem_map.mpr fun m hm => messageEntry_length (h.texts m (mem_inboxOrder hm))
  | ports => simp [tableEntries, tableWidth, portEntries, portEntry_length]

/-- The fullest answer of a table keeps within the telegram (R185). -/
theorem tableGreatest_fits (s : State) (table : TableName) :
    tableGreatest table * tableWidth table + (tableAppended s table).length ≤ 241 := by
  cases table <;> simp [tableGreatest, tableWidth, tableAppended, demandsAppended, doorsAppended, kindField_length,
    handleField, sideFlagField, boolField, setField]

/-! ### The request -/

section
variable {p : Port} {code first count : Nat} {s : State}

/-- The arguments of READ TABLE (Formats). -/
def tableArgs (code first count : Nat) : List Byte := natField 1 code ++ natField 2 first ++ natField 1 count

theorem tableArgs_read (hc : code < 256) (hf : first < 65536) (hn : count < 256) :
    byteAt (tableArgs code first count) 0 = code ∧ word16 (tableArgs code first count) 1 = first ∧
      byteAt (tableArgs code first count) 3 = count := by
  have byte : ∀ v, v < 256 → (BitVec.ofNat 8 v).toNat = v := fun v h => by
    rw [BitVec.toNat_ofNat]
    omega
  rw [tableArgs, natField_one code hc, natField_two first hf, natField_one count hn]
  exact ⟨byte code hc, word16_bytes first hf, byte count hn⟩

theorem tableArg_number (table : TableName) : tableArg (tableNumber table) = some table := by cases table <;> rfl

theorem tableArg_strange (h : 11 ≤ code) : tableArg code = none := by
  obtain ⟨k, rfl⟩ := Nat.exists_eq_add_of_le' h
  rfl

theorem tableMost_greatest (table : TableName) : tableMost table = tableGreatest table := by cases table <;> rfl

end

/-- Settles O15: READ TABLE by its tests (`tableArg_strange`, `tableArg_number`), the entries' widths
(`tableEntries_width`) and the bound of an answer (`tableGreatest_fits`). -/
theorem readTableReturnsTheEntriesAskedFor : Obligations.ReadTableReturnsTheEntriesAskedFor := by
  refine ⟨fun p code first count s ready hc hf hn => ?_, fun p s table h => ⟨tableEntries_width p h table,
    tableGreatest_fits s table⟩⟩
  obtain ⟨readCode, readFirst, readCount⟩ := tableArgs_read hc hf hn
  have taken : exec (.readTable p (tableArgs code first count)) s =
      .next (holdAnswer p 0x02 (ruleReadTable p (tableArgs code first count) (completeTelegram p s))) :=
    request_ready 0x02 _ 4 _ ready (by simp [tableArgs, natField_length])
  refine ⟨_, taken, fun strange => .of_refuse ?_, fun table number => ?_⟩
  · rw [ruleReadTable, readCode, tableArg_strange strange]
  · subst number
    have rule : ruleReadTable p (tableArgs (tableNumber table) first count) (completeTelegram p s) =
        if (tableEntries p (completeTelegram p s) table).length < first then
          (completeTelegram p s, plainReply .notFound)
        else (completeTelegram p s,
          okReply (tablePayload p (completeTelegram p s) (tableNumber table) table first count)) := by
      simp only [ruleReadTable, readCode, readFirst, readCount, tableArg_number]
    rw [rule]
    refine ⟨fun beyond => .of_refuse (if_pos beyond), fun found => ⟨_, rfl, .of_refuse ?_⟩⟩
    rw [if_neg (not_lt.mpr found), tablePayload, tableMost_greatest, ← min_assoc]

end Sys2Proof.Machine
end

section
/-!
READ STATUS: its payload is the fields of its layout one after another (`statusPayload_fields`,
`statusLayout_fields`), read in every mode (R177, Formats).
-/

namespace Sys2Proof.Machine

theorem governingField_eq (x : Supervisor) : governingField x = governingEntry x := by
  unfold governingField governingEntry
  cases x.governing with
  | target i =>
    simp only
    cases x.targets[i]? with
    | none => rfl
    | some g => cases g.kind <;> rfl
  | _ => rfl

theorem governingEntry_length (x : Supervisor) : (governingEntry x).length = 13 := by
  unfold governingEntry
  split
  · split
    · rfl
    · split <;> simp [natField_length]
  · rfl

theorem testStepField_eq (t : Option TestStep) :
    testStepField t = optField 1 (t.map (·.step)) ++ optField 2 (t.map (·.timer)) := by
  cases t <;> rfl

/-- The payload is the fields of its layout (R177, Formats). -/
theorem statusPayload_fields (p : Port) (s : State) : statusPayload p s = (statusLayout p s).flatMap (·.2.2) := by
  simp only [statusPayload, statusMode, statusPosition, statusStore, lastCommitField, statusSupervision, statusDemands,
    kindField, handleField, statusDrive, statusDoors, sideFlagField, loopCode, statusRadio, flagField, statusLayout,
    governingField_eq, testStepField_eq, List.flatMap_cons, List.flatMap_nil, List.append_assoc, List.cons_append,
    List.nil_append, List.append_nil]
  cases s.store.lastCommit <;> cases s.radio.lastApplied <;> rfl

/-- Each field of the layout stands where the one before it ends, and is as wide as its content (Formats). -/
theorem statusLayout_fields (p : Port) (s : State) : FieldsFrom 0 (statusLayout p s) := by
  unfold statusLayout
  simp only [FieldsFrom, List.length_append, List.length_cons, List.length_nil, natField_length, optField_length,
    boolField_length, setField_length, eventField_length, governingEntry_length, Nat.reduceAdd, and_true, true_and]
  cases s.store.lastCommit <;> cases s.radio.lastApplied <;> simp [natField_length, Quad.toList]

theorem statusPayload_length (p : Port) (s : State) : (statusPayload p s).length = 104 := by
  rw [statusPayload_fields, fields_length (statusLayout_fields p s), statusLayout]
  simp only [List.map_cons, List.map_nil, List.sum_cons, List.sum_nil, Nat.reduceAdd]

theorem statusLayout_holdAnswer (p : Port) (code : Byte) (r : State × Reply) :
    statusLayout p (holdAnswer p code r) = statusLayout p r.1 := by
  simp only [statusLayout, portOf_holdAnswer, holdAnswer_mode, holdAnswer_odo, holdAnswer_store, holdAnswer_sup,
    holdAnswer_dem, holdAnswer_drive, holdAnswer_doors, holdAnswer_radio, if_true]

/-- READ STATUS alone is judged in LOADING too (R174, R177). -/
theorem readStatus_taken {p : Port} {s : State} (free : (portOf p s).held = none) :
    exec (.readStatus p []) s =
      .next (holdAnswer p 0x01 (completeTelegram p s, okReply (statusPayload p (completeTelegram p s)))) := by
  have rule : ruleOf 0x01 p [] = some (0, ruleReadStatus p) := rfl
  have judged (t : State) : judge 0x01 [] 0 (ruleReadStatus p) t = ruleReadStatus p t := by simp [judge]
  rw [exec_telegram rfl, takeTelegram_free 0x01 [] free, judgeByCode_of_rule rule, judged]
  rfl

/-- Settles O14: the answer in every mode (`readStatus_taken`), its payload as the fields of the layout one after
another (`statusPayload_fields`, `statusLayout_fields`). -/
theorem readStatusAnswersInEveryMode : Obligations.ReadStatusAnswersInEveryMode := by
  intro p s free
  refine ⟨_, _, readStatus_taken free, .of_refuse rfl, statusPayload_length p _, ?_⟩
  rw [statusLayout_holdAnswer, statusPayload_fields]
  exact fields_placed (before := []) (statusLayout_fields p _)

end Sys2Proof.Machine
end

section
/-!
A step on a queue that is not empty: the command at its front is executed on the state with the queue's rest (00 Blocks).
-/

namespace Sys2Proof.Machine

/-- Settles O1: the queue's front selects the case of `step` that executes it. -/
theorem stepRunsTheFrontCommand : Obligations.StepRunsTheFrontCommand := by
  intro c rest s queue
  rw [step, queue]

end Sys2Proof.Machine
end
